-- ==== Sys2Proof/Word.lean ====
section
/-!
DEFINITION. The word types of the NHL-900A and the canonical sparse list.

A sparse list holds (index, value) pairs with strictly rising indices and no value equal to what an
unlisted index reads as. Memory, register windows and every other numbered store are sparse lists.
-/

namespace Sys2Proof

/-- A byte of memory (R5). -/
abbrev Byte := BitVec 8
/-- A 32-bit register or instruction word (R44, R140). -/
abbrev Word := BitVec 32
/-- A register pair, a latch, an address or a tick (R48, R59, R3). -/
abbrev DWord := BitVec 64

/-- A numbered store that lists only what differs from its resting value. -/
abbrev Sparse (α : Type) := List (Nat × α)

/-- Bytes of memory by address, as the host's cells. -/
abbrev Memory := List Host.Cell

end Sys2Proof
end

