-- ==== Sys2Proof/Config.lean ====
section
/-!
DEFINITION. What the spec leaves to the implementation, as constants without a body: no proof can see
a value of any of them. Each is named in a row of notes/assumptions.
-/

namespace Sys2Proof.Config

/-- A value the spec leaves open, by the state's counter of such values (log entry 3). -/
opaque freeValue : Nat → BitVec 64

/-- Whether a 96-byte ECDSA brainpoolP384r1 signature over the SHA-384 digest of the bytes verifies
under the key that the 48-byte identifier names (R19, R28, R396; log entry 7). -/
opaque signatureValid (signed keyId signature : List Byte) : Bool

/-- The SHA-384 digest of a list of bytes (R28, R397; log entry 7). -/
opaque sha384 (bytes : List Byte) : List Byte

/-- The device identity key's signature (R397, R413; log entry 7). -/
opaque deviceSignature (bytes : List Byte) : List Byte

/-- The device serial number (R413). -/
opaque deviceSerial : BitVec 64

/-- The address the loader proposes for the n-th section it places (R426; log entry 8). -/
opaque sectionBase : Nat → Nat

/-- The 128-byte block, counted from address 0, that firmware takes for the n-th launch's region (R22;
log entry 16). -/
opaque regionBlock : Nat → Nat

/-- The address of the task record of the n-th launch, from which a relaunch starts (R216, R357; log entry 127). -/
opaque taskRecord : Nat → BitVec 64

/-- The supervisor frame that takes the context record of a group (R356; log entry 17). -/
opaque saveFrame : Nat → Nat

/-- How far past its acceptance the promise of the n-th accepted record lies (R289; log entry 9). -/
opaque promiseAhead : Nat → Nat

/-- The ticks the n-th scoped flush still needs to reach a scope (R312, R313; log entry 10). -/
opaque flushTicks : Nat → Nat → Nat

/-- The pseudo-channel, of an HBM stack's 32, that an offset of the stack lies in (R362; log entry 14). -/
opaque channelOf : Nat → Nat

/-- The ticks after which a peer answers the n-th request sent to it (R394; log entry 15). -/
opaque peerTicks : Nat → Nat

/-- The byte that a peer returns to an engine's read, by tick and address (R394; log entry 15). -/
opaque peerByte : Nat → Nat → BitVec 8

/-- The byte that a read takes from a word with an uncorrectable error where no rule says what it takes, by tick and
address (R241; log entry 135). -/
opaque brokenByte : Nat → Nat → BitVec 8

/-- Energy a partition uses on a stack during the window that ends at a tick (R384; log entry 11). -/
opaque windowEnergy (partition stack tick : Nat) : Nat

/-- Mean power, in watts, of a partition over the window that ends at a tick (R384; log entry 11). -/
opaque meanPower (partition tick : Nat) : Nat

/-- The hottest sensor of a stack, in degrees, at a tick (R385; log entry 11). -/
opaque stackTemperature (stack tick : Nat) : Int

/-- Whether a stack and its HBM pass test and training (R395; log entry 12). -/
opaque stackPasses : Nat → Bool

/-- Whether a firmware image in flash verifies, by copy (R395; log entry 12). -/
opaque firmwareValid : Nat → Bool

/-- The version of a firmware image in flash, by copy (R395; log entry 12). -/
opaque firmwareVersion : Nat → Nat

/-- The identifier of the root key whose digest the boot ROM holds (R395, R396; log entry 7). -/
opaque rootKey : List Byte

/-- The bytes of a firmware image in flash, by copy (R395, R397; log entry 12). -/
opaque firmwareImage : Nat → List Byte

/-- The identifier of the device identity key (R413; log entry 7). -/
opaque deviceKey : List Byte

/-- The sections of a Husk image, one per scanned domain, by the mask of dies and the tick (R413; log
entry 18): the spec gives the scan chains no layout. -/
opaque huskSections (domains tick : Nat) : List Byte

end Sys2Proof.Config
end

