-- ==== Sys2Proof/Syntax.lean ====
section
/-!
DEFINITION. The steps of the NHL-900A as data: one constructor of Instr per row of the opcode table.

The first 123 constructors are the instruction words of R72. They carry their fields as the word
holds them (R44): F3 for the formats R, W and M, FK for the formats K and J. The other 93 are the
events of the table, with the arguments that name what they act on.
-/

namespace Sys2Proof

/-- Fields of an R-, W- or M-format word (R44): the chain bit, bits 23:21 (V, E or Z), D, A and B. -/
structure F3 where
  c : Bool
  x : BitVec 3
  d : BitVec 7
  a : BitVec 7
  b : BitVec 7
  deriving DecidableEq, Repr

/-- Fields of a K- or J-format word (R44): the chain bit, D or P, and K17. -/
structure FK where
  c : Bool
  d : BitVec 7
  k : BitVec 17
  deriving DecidableEq, Repr

/-- A cache that may hold copies of lines (R324 to R327): a core's L1, a cluster cache, a stack L2. -/
inductive CacheId where
  | l1 (core : Nat)
  | ck (cluster : Nat)
  | l2 (stack : Nat)
  deriving DecidableEq, Repr

/-- The writable fields of a host queue's register block that only store (R387). -/
inductive QueueField where
  | base | cbase | vector | lgn
  deriving DecidableEq, Repr

/-- What the supervisor's write-registers command writes (R352). -/
inductive FibreWrite where
  | reg (n : Nat) (v : BitVec 32)
  | preds (v : BitVec 96)
  | deadline (n : Nat) (v : BitVec 64)
  deriving DecidableEq, Repr

/-- A master that the control die can freeze (R367, R368). -/
inductive Master where
  | group (grp : Nat)
  | channel (grp chan : Nat)
  | vf (n : Nat)
  deriving DecidableEq, Repr

/-- A resource that the scrub engine zero-fills (R369). -/
inductive Resource where
  | frame (n : Nat)
  | columns (cluster : Nat)
  /-- Bytes of a cluster's column from one offset up to another. -/
  | columnRange (cluster lo hi : Nat)
  | registerFile (core : Nat)
  | operandBuffer (core : Nat)
  | bBuffer (core : Nat)
  | accumulators (core : Nat)
  | controlStore
  | traceBuffer (core : Nat)
  | watchpoints (core : Nat)
  | counters
  | verticalFifo (core : Nat)
  deriving DecidableEq, Repr

/-- Where a soft error strikes: a byte address of HBM or of a column (R241), or one of a group's operand stores
(R195): a 32-byte word of its operand buffer, the contents of a B slot, an accumulator column by number. -/
inductive ErrorPlace where
  | memory (addr : Nat)
  | operand (grp word : Nat)
  | slot (grp slot : Nat)
  | accumulator (grp index : Nat)
  deriving DecidableEq, Repr

/-- How a request of the host reaches a queue: the virtual function it comes through, and the one whose queue it
names (R367). -/
structure HostPath where
  via : Nat
  vf : Nat
  deriving DecidableEq, Repr

/-- Bytes of a queue's register block, from an offset on (R387). -/
structure QueueBytes where
  queue : Nat
  off : Nat
  n : Nat
  deriving DecidableEq, Repr

/-- A watchpoint comparator (R399). -/
structure Comparator where
  base : BitVec 64
  limit : BitVec 64
  ctl : BitVec 32
  deriving DecidableEq, Repr

/-- What the trace command sets for a core (R405). -/
structure TraceConfig where
  on : Bool
  ring : Nat
  lgRecords : Nat
  lossless : Bool
  kinds : BitVec 16
  vf : Option Nat
  deriving DecidableEq, Repr

/-- One access by the host or a peer (R332, R393): a load, a store or an atomic word. -/
inductive MemOp where
  | load (size : Nat)
  | store (size : Nat) (value : BitVec 128)
  | atom (op : BitVec 3) (value : BitVec 32)
  | atox (op : BitVec 3) (value : BitVec 64)
  | cas (wide : Bool) (comparand value : BitVec 64)
  deriving DecidableEq, Repr

/-- The steps of the machine: every row of spec/opcode_table.json, in the table's order. -/
inductive Instr where
  /-- NOP (R75). -/
  | nop (f : F3)
  /-- TRAIL (R65). -/
  | trail (f : F3)
  /-- MCALL (R78). -/
  | mcall (f : FK)
  /-- CSLD (R82). -/
  | csld (f : F3)
  /-- TRAP (R348). -/
  | trap (f : FK)
  /-- SYSC (R349). -/
  | sysc (f : FK)
  /-- ERET (R350). -/
  | eret (f : F3)
  /-- IADD (R148). -/
  | iadd (f : F3)
  /-- ISUB (R148). -/
  | isub (f : F3)
  /-- INEG (R148). -/
  | ineg (f : F3)
  /-- IABS (R148). -/
  | iabs (f : F3)
  /-- IMUL (R148). -/
  | imul (f : F3)
  /-- IMULH (R149). -/
  | imulh (f : F3)
  /-- IMAD (R148). -/
  | imad (f : F3)
  /-- IDIV (R150). -/
  | idiv (f : F3)
  /-- IMM (R151). -/
  | imm (f : F3)
  /-- ICMP (R152). -/
  | icmp (f : F3)
  /-- LOG (R153). -/
  | log (f : F3)
  /-- SHF (R154). -/
  | shf (f : F3)
  /-- BFX (R155). -/
  | bfx (f : F3)
  /-- BFI (R155). -/
  | bfi (f : F3)
  /-- BIT (R156). -/
  | bit (f : F3)
  /-- LEA (R157). -/
  | lea (f : F3)
  /-- SEL (R158). -/
  | sel (f : F3)
  /-- MOV (R159). -/
  | mov (f : F3)
  /-- MOVS (R160). -/
  | movs (f : F3)
  /-- MOVT (R160). -/
  | movt (f : F3)
  /-- IDOT4 (R162). -/
  | idot4 (f : F3)
  /-- PLOG (R153). -/
  | plog (f : F3)
  /-- PRD (R163). -/
  | prd (f : F3)
  /-- PWR (R163). -/
  | pwr (f : F3)
  /-- LIM (R161). -/
  | lim (f : FK)
  /-- LIMH (R161). -/
  | limh (f : FK)
  /-- FMTS (R178). -/
  | fmts (f : F3)
  /-- OBRES (R199). -/
  | obres (f : F3)
  /-- OBREL (R201). -/
  | obrel (f : F3)
  /-- BBLD (R202). -/
  | bbld (f : F3)
  /-- MMA (R208). -/
  | mma (f : F3)
  /-- MMAS (R208). -/
  | mmas (f : F3)
  /-- ACCZ (R204). -/
  | accz (f : F3)
  /-- ACCRD (R205). -/
  | accrd (f : F3)
  /-- ACCWR (R205). -/
  | accwr (f : F3)
  /-- COMPR (R206). -/
  | compr (f : F3)
  /-- GATHR (R212). -/
  | gathr (f : F3)
  /-- MTILE (R214). -/
  | mtile (f : F3)
  /-- MTQ (R215). -/
  | mtq (f : F3)
  /-- FADD (R182). -/
  | fadd (f : F3)
  /-- FSUB (R182). -/
  | fsub (f : F3)
  /-- FMUL (R182). -/
  | fmul (f : F3)
  /-- FMA (R182). -/
  | fma (f : F3)
  /-- FMIN (R183). -/
  | fmin (f : F3)
  /-- FMAX (R183). -/
  | fmax (f : F3)
  /-- FCMP (R184). -/
  | fcmp (f : F3)
  /-- DCMP (R184). -/
  | dcmp (f : F3)
  /-- FSGN (R185). -/
  | fsgn (f : F3)
  /-- FRND (R186). -/
  | frnd (f : F3)
  /-- CVT (R189). -/
  | cvt (f : F3)
  /-- QCVT (R190). -/
  | qcvt (f : F3)
  /-- FDIV (R187). -/
  | fdiv (f : F3)
  /-- FSQRT (R187). -/
  | fsqrt (f : F3)
  /-- SFU (R188). -/
  | sfu (f : F3)
  /-- PK2 (R191). -/
  | pk2 (f : F3)
  /-- UPK2 (R191). -/
  | upk2 (f : F3)
  /-- FDOT2 (R192). -/
  | fdot2 (f : F3)
  /-- CHGO (R276). -/
  | chgo (f : F3)
  /-- CHST (R279). -/
  | chst (f : F3)
  /-- CHSTP (R278). -/
  | chstp (f : F3)
  /-- CPY (R277). -/
  | cpy (f : F3)
  /-- CPROM (R280). -/
  | cprom (f : F3)
  /-- TICK (R91). -/
  | tick (f : F3)
  /-- DLSET (R92). -/
  | dlset (f : F3)
  /-- DLREL (R92). -/
  | dlrel (f : F3)
  /-- DLBUD (R92). -/
  | dlbud (f : F3)
  /-- DLGET (R91). -/
  | dlget (f : F3)
  /-- SLEEP (R109). -/
  | sleep (f : F3)
  /-- ESCAL (R108). -/
  | escal (f : FK)
  /-- BR (R126). -/
  | br (f : FK)
  /-- BRN (R126). -/
  | brn (f : FK)
  /-- JMP (R126). -/
  | jmp (f : F3)
  /-- CALL (R126). -/
  | call (f : FK)
  /-- RET (R126). -/
  | ret (f : F3)
  /-- FORK (R128). -/
  | fork (f : F3)
  /-- FEND (R129). -/
  | fend (f : F3)
  /-- FJOIN (R130). -/
  | fjoin (f : F3)
  /-- YIELD (R125). -/
  | yield (f : F3)
  /-- GEND (R131). -/
  | gend (f : F3)
  /-- QEMIT (R133). -/
  | qemit (f : F3)
  /-- QRECV (R133). -/
  | qrecv (f : F3)
  /-- MIGR (R135). -/
  | migr (f : F3)
  /-- XSHF (R138). -/
  | xshf (f : F3)
  /-- XPSH (R138). -/
  | xpsh (f : F3)
  /-- XRDI (R138). -/
  | xrdi (f : F3)
  /-- XRDF (R138). -/
  | xrdf (f : F3)
  /-- XRMN (R138). -/
  | xrmn (f : F3)
  /-- XRMX (R138). -/
  | xrmx (f : F3)
  /-- XSCN (R138). -/
  | xscn (f : F3)
  /-- XVOT (R138). -/
  | xvot (f : F3)
  /-- XFFS (R138). -/
  | xffs (f : F3)
  /-- VFPSH (R377). -/
  | vfpsh (f : F3)
  /-- VFPOP (R377). -/
  | vfpop (f : F3)
  /-- LD (R223). -/
  | ld (f : F3)
  /-- ST (R223). -/
  | st (f : F3)
  /-- LDA (R222). -/
  | lda (f : F3)
  /-- STL (R222). -/
  | stl (f : F3)
  /-- LDWT (R224). -/
  | ldwt (f : F3)
  /-- RSREV (R237). -/
  | rsrev (f : F3)
  /-- LOCATE (R234). -/
  | locate (f : F3)
  /-- CACHE (R240). -/
  | cache (f : F3)
  /-- LDS (R255). -/
  | lds (f : F3)
  /-- STS (R253). -/
  | sts (f : F3)
  /-- LDSC (R255). -/
  | ldsc (f : F3)
  /-- FEMK (R256). -/
  | femk (f : F3)
  /-- BINIT (R261). -/
  | binit (f : F3)
  /-- BARV (R264). -/
  | barv (f : F3)
  /-- BWAIT (R265). -/
  | bwait (f : F3)
  /-- BAW (R265). -/
  | baw (f : F3)
  /-- ATOM (R304). -/
  | atom (f : F3)
  /-- ATOX (R305). -/
  | atox (f : F3)
  /-- CAS (R306). -/
  | cas (f : F3)
  /-- REDM (R304). -/
  | redm (f : F3)
  /-- FENCE (R313). -/
  | fence (f : F3)
  /-- PGATE (R380). -/
  | pgate (f : F3)
  /-- DBG (R404). -/
  | dbg (f : F3)
  /-- BUNDLE_PICK (R122). -/
  | bundlePick (core : Nat)
  /-- DEFERRED_RESULT_LANDING (R67). -/
  | deferredResultLanding (grp fid : Nat)
  /-- WAIT_CONDITION_MET (R98). -/
  | waitConditionMet (grp fid : Nat)
  /-- WAIT_DEADLINE_PASSED (R98). -/
  | waitDeadlinePassed (grp fid : Nat)
  /-- WAIT_IMMEDIATE_OUTCOME (R98). -/
  | waitImmediateOutcome (grp fid : Nat)
  /-- FIBRE_TRAP_ENTRY (R345). -/
  | fibreTrapEntry (grp : Nat)
  /-- SUPERVISOR_TRAP (R351). -/
  | supervisorTrap (grp : Nat)
  /-- PROMISE_MISS (R290). -/
  | promiseMiss (grp chan : Nat)
  /-- TICK_BUDGET_EXHAUSTED (R112). -/
  | tickBudgetExhausted (region : Nat)
  /-- GROUP_PLACEMENT (R116). -/
  | groupPlacement (launch stack : Nat)
  /-- GROUP_ALLOTMENT_RETURN (R131). -/
  | groupAllotmentReturn (grp : Nat)
  /-- SUCCESSOR_GROUP_LAUNCH (R134). -/
  | successorGroupLaunch (vf : Nat) (queue : BitVec 64)
  /-- MIGR_ARRIVAL (R135). -/
  | migrArrival (grp fid : Nat)
  /-- GROUP_KILL (R216). -/
  | groupKill (grp : Nat)
  /-- BBLD_LOAD_LAND (R203). -/
  | bbldLoadLand (grp slot : Nat)
  /-- GATHR_ROW_LAND (R212). -/
  | gathrRowLand (grp gather : Nat)
  /-- MTILE_KSTEP (R214). -/
  | mtileKstep (grp tile : Nat)
  /-- OBREL_RANGE_RETURN (R201). -/
  | obrelRangeReturn (grp entry : Nat)
  /-- CHANNEL_RECORD_READ (R281). -/
  | channelRecordRead (grp chan : Nat)
  /-- CHURN_TAKE (R295). -/
  | churnTake (grp chan : Nat)
  /-- TARGET_FIRE (R285). -/
  | targetFire (grp chan : Nat)
  /-- RECORD_COMPLETE (R286). -/
  | recordComplete (grp chan : Nat)
  /-- PAGE_WALK (R339). -/
  | pageWalk (vf page : Nat)
  /-- CAPACITY_EVICTION (R230). -/
  | capacityEviction (unit : CacheId) (line : Nat)
  /-- EVICTION_NOTICE (R329). -/
  | evictionNotice (child : CacheId)
  /-- GONE_REPLY (R330). -/
  | goneReply (child : CacheId) (line : Nat)
  /-- OWNERSHIP_REQUEST (R328). -/
  | ownershipRequest (core line : Nat)
  /-- FORCED_PUBLISH (R322). -/
  | forcedPublish (holder : CacheId) (line : Nat)
  /-- STORE_ACKNOWLEDGE (R360). -/
  | storeAcknowledge (grp fid : Nat)
  /-- DRAIN_STALL (R361). -/
  | drainStall (grp : Nat)
  /-- CONTEXT_SAVE (R356). -/
  | contextSave (grp frame : Nat)
  /-- SCRUB_PATROL (R242). -/
  | scrubPatrol (word : Nat)
  /-- SCRUB_HOLD_END (R370). -/
  | scrubHoldEnd (frame : Nat)
  /-- GATE_CLOSE (R380). -/
  | gateClose (core : Nat)
  /-- POWER_WINDOW (R384). -/
  | powerWindow
  /-- THERMAL_EMERGENCY (R385): a stack's hottest sensor, in degrees. -/
  | thermalEmergency (stack temp : Nat)
  /-- FREEZE_START (R412). -/
  | freezeStart (scope : Option Nat)
  /-- TRACE_DRAIN (R405). -/
  | traceDrain (core : Nat)
  /-- STACK_RESET (R371). -/
  | stackReset (stack : Nat)
  /-- ROUTE_DRAIN_DEADLINE (R372). -/
  | routeDrainDeadline (stack : Nat)
  /-- ROUTE_LOST (R372). -/
  | routeLost (packet : Nat)
  /-- MOVED_REFUSAL (R333). -/
  | movedRefusal (core vf page : Nat)
  /-- LOAD_IMAGE (R30). -/
  | loadImage (vf queue : Nat)
  /-- UNLOAD_IMAGE (R389). -/
  | unloadImage (vf queue : Nat)
  /-- LAUNCH (R114). -/
  | launch (vf queue : Nat)
  /-- REGISTER_GRAPH_QUEUE (R389). -/
  | registerGraphQueue (vf queue : Nat)
  /-- CLOSE_GRAPH_QUEUE (R389). -/
  | closeGraphQueue (vf queue : Nat)
  /-- DESCRIBE_IMAGE (R427). -/
  | describeImage (vf queue : Nat)
  /-- COMMAND_ENTRY_ARRIVAL (R391). -/
  | commandEntryArrival (vf queue : Nat)
  /-- DOORBELL (R388): the virtual function that the request comes through, and the queue it names. -/
  | doorbell (via vf queue : Nat) (tail : BitVec 32)
  /-- QUEUE_ENABLE (R387). -/
  | queueEnable (path : HostPath) (queue : Nat) (on : Bool)
  /-- QUEUE_STATUS_READ (R387): a read of some bytes of the queue's register block; byte 5 is the status. -/
  | queueStatusRead (path : HostPath) (what : QueueBytes)
  /-- REGISTER_WRITE (R387). -/
  | registerWrite (path : HostPath) (queue : Nat) (field : QueueField) (value : BitVec 64)
  /-- RESUME (R352). -/
  | resume (part grp fid : Nat) (pc : Option (BitVec 64))
  /-- DELIVER (R352). -/
  | deliver (part grp fid : Nat)
  /-- READ_CONTEXT (R352). -/
  | readContext (part grp fid : Nat)
  /-- WRITE_REGISTERS (R352). -/
  | writeRegisters (part grp fid : Nat) (w : FibreWrite)
  /-- KILL (R352). -/
  | kill (part grp : Nat)
  /-- PREEMPT (R354). -/
  | preempt (part grp : Nat)
  /-- RESUME_GROUP (R359). -/
  | resumeGroup (part grp : Nat)
  /-- REGION_CREATE (R352). -/
  | regionCreate (part addr : Nat) (block : BitVec 512)
  /-- REGION_EDIT (R113). -/
  | regionEdit (part addr : Nat) (block : BitVec 512)
  /-- REGION_DELETE (R352). -/
  | regionDelete (part addr : Nat)
  /-- REMAP (R333). -/
  | remap (part vf page : Nat) (entry : BitVec 64)
  /-- INVALIDATE (R341). -/
  | invalidate (part vf lo hi : Nat)
  /-- RESOLVED (R340). -/
  | resolved (part vf page : Nat)
  /-- UNRESOLVABLE (R340). -/
  | unresolvable (part vf page : Nat)
  /-- ATTACH (R365). -/
  | attach (part vf root : Nat) (tableRoot : BitVec 64)
  /-- DETACH (R365). -/
  | detach (part vf : Nat)
  /-- UNFREEZE (R368). -/
  | unfreeze (part : Nat) (master : Master) (kill : Bool)
  /-- SCRUB (R369). -/
  | scrub (part : Nat) (what : Resource)
  /-- SET_HANDLER_SERVICE (R415). -/
  | setHandlerService (grp fid : Nat)
  /-- WATCH (R399). -/
  | watch (part core index : Nat) (cmp : Comparator)
  /-- TRACE_COMMAND (R405). -/
  | traceCommand (part core : Nat) (cfg : TraceConfig)
  /-- TRACE_ACKNOWLEDGE (R405). -/
  | traceAcknowledge (part core count : Nat)
  /-- COUNTERS (R409). -/
  | counters (part : Nat)
  /-- SUPERVISOR_FREEZE (R411). -/
  | supervisorFreeze (part : Nat) (at_ : BitVec 64)
  /-- DEVICE_FREEZE (R411). -/
  | deviceFreeze (at_ : BitVec 64)
  /-- FREEZE_RELEASE (R413). -/
  | freezeRelease (scope : Option Nat) (kill : Bool)
  /-- MEASUREMENT_REQUEST (R397). -/
  | measurementRequest (nonce : BitVec 384)
  /-- HOST_MEM_ACCESS (R332). -/
  | hostMemAccess (part : Nat) (addr : BitVec 64) (op : MemOp)
  /-- PEER_REQUEST (R393). -/
  | peerRequest (part window : Nat) (addr : BitVec 64) (op : MemOp)
  /-- PEER_REQUEST_TIMEOUT (R394). -/
  | peerRequestTimeout (request : Nat)
  /-- PORT_LANE_FAILURE (R392). -/
  | portLaneFailure (port : Nat)
  /-- PACKAGE_RESET (R395). -/
  | packageReset
  /-- GLOBAL_TICK (R84). -/
  | globalTick
  /-- MODULE_RETRAINING (R386). -/
  | moduleRetraining (unit : Nat)
  /-- DECLARE_STORES_LOST (R361). -/
  | declareStoresLost (part grp : Nat)
  /-- FORCED_PUBLISH_DEADLINE (R323). -/
  | forcedPublishDeadline (holder : CacheId) (line : Nat)
  /-- REMAP_SWITCH (R333). -/
  | remapSwitch (part vf page : Nat)
  /-- STACK_RELEASE (R371). -/
  | stackRelease (stack : Nat)
  /-- SOFT_ERROR (R195, R241). -/
  | softError (place : ErrorPlace) (flips : BitVec 256)
  /-- NAME_EXIT_RING (R410). -/
  | nameExitRing (part vf : Nat) (base : BitVec 64) (records : Nat)
  deriving DecidableEq, Repr

end Sys2Proof
end

