-- ==== Sys2Proof/Machine/Shape.lean ====
section
/-!
DEFINITION. The encoding table: for every instruction word its opcode, format body, pipe, the role of
each field and which words end a run, wait or give a deferrable result (R44 to R83 and the encoding
table of each chapter). From it come the legality checks of R50, R52, R65, R73 and R74.
-/

namespace Sys2Proof

/-- The pipe a word issues to (R57, R72). NOP and TRAIL use none. -/
inductive Pipe where
  | none | A | F | M | X
  deriving DecidableEq, Repr

/-- What a field of a word names. -/
inductive Role where
  /-- Must be zero; nonzero is illegal-instruction cause 3 (R74). -/
  | zero
  /-- A source operand of n registers when it names a register (R47, R48). -/
  | src (n : Nat)
  /-- A register result of n registers; bit 6 suppresses the register write (R51). -/
  | dst (n : Nat)
  /-- The first of n registers, a multiple of al; a set bit 6 is cause 3, of a field that is read and written
  too (XSHF, XPSH: DESIGN CHOICE, log entry 124). rd and wr say whether the word reads and writes them. -/
  | reg (n al : Nat) (rd wr : Bool)
  /-- A predicate source (R52). -/
  | ps
  /-- A predicate result (R52). -/
  | pd
  /-- The first register of a list whose length is not in the word, read or written; 64 or more is cause 3
  (R133). -/
  | name (wr : Bool)
  /-- A literal of the word that is legal or raises the given cause. -/
  | lit (ok : Bool) (cause : Nat)
  deriving DecidableEq, Repr

/-- An instruction word's line of the encoding tables. -/
structure Shape where
  op : Nat
  chain : Bool
  body : BitVec 24
  pipe : Pipe
  xOk : Bool
  kOk : Bool
  d : Role × BitVec 7
  a : Role × BitVec 7
  b : Role × BitVec 7
  ends : Bool
  waits : Bool
  defer : Bool
  deriving DecidableEq, Repr

/-- Bits 23:0 of an R-, W- or M-format word (R44). -/
def F3.body (f : F3) : BitVec 24 := f.x ++ f.d ++ f.a ++ f.b

/-- Bits 23:0 of a K- or J-format word (R44). -/
def FK.body (f : FK) : BitVec 24 := f.d ++ f.k

/-- The fields of an R-, W- or M-format word's bits 23:0. -/
def F3.ofBody (c : Bool) (w : BitVec 24) : F3 :=
  { c := c, x := w.extractLsb' 21 3, d := w.extractLsb' 14 7, a := w.extractLsb' 7 7
    b := w.extractLsb' 0 7 }

/-- The fields of a K- or J-format word's bits 23:0. -/
def FK.ofBody (c : Bool) (w : BitVec 24) : FK :=
  { c := c, d := w.extractLsb' 17 7, k := w.extractLsb' 0 17 }

/-- Whether a three-bit field value is in a set given as a mask of eight bits. -/
def inMask (mask : Nat) (x : BitVec 3) : Bool := mask.testBit x.toNat

/-- An R- or M-format word that neither ends its run nor waits. -/
def shR (op : Nat) (p : Pipe) (mask : Nat) (f : F3) (d a b : Role) : Shape :=
  { op := op, chain := f.c, body := f.body, pipe := p, xOk := inMask mask f.x, kOk := true
    d := (d, f.d), a := (a, f.a), b := (b, f.b), ends := false, waits := false, defer := false }

/-- An R- or M-format word with a deferrable result (R66). -/
def shDef (op : Nat) (p : Pipe) (mask : Nat) (f : F3) (d a b : Role) : Shape :=
  { shR op p mask f d a b with defer := true }

/-- An R- or M-format word that ends its run (R63). -/
def shEnd (op : Nat) (p : Pipe) (mask : Nat) (f : F3) (d a b : Role) : Shape :=
  { shR op p mask f d a b with ends := true }

/-- A W-format word: it ends its run and waits (R63, R93); every E is valid (R46). -/
def shW (op : Nat) (p : Pipe) (f : F3) (d a b : Role) : Shape :=
  { shR op p 0xFF f d a b with ends := true, waits := true }

/-- A K- or J-format word. -/
def shK (op : Nat) (p : Pipe) (ends : Bool) (f : FK) (d : Role) (kOk : Bool) : Shape :=
  { op := op, chain := f.c, body := f.body, pipe := p, xOk := true, kOk := kOk
    d := (d, f.d), a := (.zero, 0), b := (.zero, 0), ends := ends, waits := false, defer := false }

/-- Registers of an operand that is a pair in the given variant. -/
def pairIf (b : Bool) : Nat := if b then 2 else 1

/-- Registers of a CVT side by its type code: f64, s64 and n64 use a pair (R189). -/
def cvtRegs (t : BitVec 3) : Nat := pairIf (t = 1 || t = 6 || t = 7)

/-- A conversion code that R189 defines, under the rounding field x. -/
def cvtCodeOk (x : BitVec 3) (b : BitVec 7) : Bool :=
  let src : BitVec 3 := b.extractLsb' 3 3
  let dst : BitVec 3 := b.extractLsb' 0 3
  !b.getLsbD 6 && src != dst && !(4 ≤ src.toNat && 4 ≤ dst.toNat) && !(x = 4 && 4 ≤ dst.toNat)

/-- The value of an inline-constant code (R47). -/
def inlineValue (code : BitVec 7) : Int := (code.toNat : Int) - 96

/-- The fifteen legal fence words, as inline constants (R310, R311). -/
def fenceOk (code : BitVec 7) : Bool :=
  let n := code.toNat - 96
  96 < code.toNat && 1 ≤ n / 8 && n / 8 ≤ 3 && 1 ≤ n % 8 && n % 8 ≤ 5

/-- Registers an LD result fills, by its size field (R221). -/
def ldRegs (x : BitVec 3) : Nat := if x = 6 then 4 else if x = 5 then 2 else 1

/-- Registers an ST or STS reads, by its size field (R221, R253). -/
def stRegs (x : BitVec 3) : Nat := if x = 4 then 4 else if x = 3 then 2 else 1

/-- Registers an LDS or LDSC result fills when its control word is an inline constant (R254); a
control word in a register is checked by its value when the word issues. -/
def ldsRegs (b : BitVec 7) : Nat :=
  if b.toNat < 96 then 1 else if (b.toNat - 96) % 8 = 6 then 4 else if (b.toNat - 96) % 8 = 5 then 2 else 1

/-- The line of the encoding tables for an instruction; none for the table's events. -/
def Instr.shape : Instr → Option Shape
  | .nop f => some (shR 0x00 .none 0x01 f .zero .zero .zero)
  | .trail f =>
    let u (k : Nat) : Role := if k ≤ f.x.toNat then .reg 1 1 false false else .zero
    some (shR 0x01 .none 0x0F f (u 1) (u 2) (u 3))
  | .mcall f => some (shK 0x02 .X true f (.reg 8 1 true true) (f.k.toNat < 64))
  | .csld f => some (shW 0x03 .X f (.dst 1) (.src 2) (.src 2))
  | .trap f => some (shK 0x04 .X true f .zero (f.k.toNat < 65536))
  | .sysc f =>
    some (shK 0x05 .X true f (.reg 8 1 true true)
      (f.k.toNat < 65536 && (f.d.toNat ≤ 56 || 64 ≤ f.d.toNat)))
  | .eret f => some (shEnd 0x06 .X 0x0F f .zero (if f.x.getLsbD 0 then .src 2 else .zero) .zero)
  | .iadd f => let n := pairIf (f.x = 3); some (shR 0x08 .A 0x0F f (.dst n) (.src n) (.src n))
  | .isub f => let n := pairIf (f.x = 3); some (shR 0x09 .A 0x0F f (.dst n) (.src n) (.src n))
  | .ineg f => let n := pairIf (f.x = 3); some (shR 0x0A .A 0x0B f (.dst n) (.src n) .zero)
  | .iabs f => let n := pairIf (f.x = 3); some (shR 0x0B .A 0x0B f (.dst n) (.src n) .zero)
  | .imul f =>
    let n := pairIf (f.x = 3)
    some (shR 0x0C .A 0x3F f (.dst (pairIf (3 ≤ f.x.toNat))) (.src n) (.src n))
  | .imulh f => let n := pairIf (2 ≤ f.x.toNat); some (shR 0x0D .A 0x0F f (.dst n) (.src n) (.src n))
  | .imad f =>
    let n := pairIf (f.x = 3)
    let m := pairIf (3 ≤ f.x.toNat)
    some (shR 0x0E .A 0x3F f (.reg m m true true) (.src n) (.src n))
  | .idiv f => some (shDef 0x0F .A 0x0F f (.dst 1) (.src 1) (.src 1))
  | .imm f => some (shR 0x10 .A 0x0F f (.dst 1) (.src 1) (.src 1))
  | .icmp f => some (shR 0x11 .A 0xFF f .pd (.src 1) (.src 1))
  | .log f => some (shR 0x12 .A 0xFF f (.dst 1) (.src 1) (.src 1))
  | .shf f => some (shR 0x13 .A 0x1F f (.dst 1) (.src 1) (.src 1))
  | .bfx f => some (shR 0x14 .A 0x03 f (.dst 1) (.src 1) (.src 1))
  | .bfi f => some (shR 0x15 .A 0x01 f (.reg 1 1 true true) (.src 1) (.src 1))
  | .bit f => some (shR 0x16 .A 0x07 f (.dst 1) (.src 1) .zero)
  | .lea f => some (shR 0x17 .A 0xFF f (.dst 2) (.src 2) (.src 1))
  | .sel f => some (shR 0x18 .A 0xFF f (.dst 1) (.src 1) (.src 1))
  | .mov f => let n := pairIf (f.x = 1); some (shR 0x19 .A 0x03 f (.dst n) (.src n) .zero)
  | .movs f =>
    some (shR 0x1A .A 0x01 f (.dst 1) (.lit (96 ≤ f.a.toNat && f.a.toNat ≤ 122) 9) .zero)
  | .movt f => some (shR 0x1B .A 0x01 f .zero (.lit (f.a = 97) 9) (.src 1))
  | .idot4 f => some (shR 0x1C .A 0x07 f (.reg 1 1 true true) (.src 1) (.src 1))
  | .plog f => some (shR 0x1D .A 0xFF f .pd .ps .ps)
  | .prd f => some (shR 0x1E .A 0x07 f (.dst 1) .zero .zero)
  | .pwr f => some (shR 0x1F .A 0x07 f .zero (.src 1) (.src 1))
  | .lim f => some (shK 0x20 .A false f (.dst 1) true)
  | .limh f => some (shK 0x21 .A false f (.dst 1) true)
  | .fmts f => some (shR 0x22 .X 0x01 f .zero (.src 1) (.src 1))
  | .obres f => some (shR 0x23 .X 0x01 f (.dst 1) (.src 1) (.src 1))
  | .obrel f => some (shR 0x24 .X 0x01 f .zero (.src 1) .zero)
  | .bbld f => some (shR 0x25 .X 0x01 f (.reg 1 1 true false) (.src 2) (.src 1))
  | .mma f => some (shW 0x26 .X f (.reg 1 1 true false) (.src 1) (.src 1))
  | .mmas f => some (shW 0x27 .X f (.reg 2 1 true false) (.src 1) (.src 1))
  | .accz f => some (shR 0x28 .X 0x01 f .zero (.src 1) .zero)
  | .accrd f => some (shDef 0x29 .X 0x0F f (.dst 1) (.src 1) (.src 1))
  | .accwr f => some (shR 0x2A .X 0x0F f (.reg 1 1 true false) (.src 1) (.src 1))
  | .compr f => some (shR 0x2B .X 0x03 f (.dst 2) (.src 2) (.src 1))
  | .gathr f => some (shW 0x2C .X f (.reg 4 2 true false) (.src 2) (.src 1))
  | .mtile f => some (shW 0x2D .X f (.dst 1) (.src 2) (.src 1))
  | .mtq f =>
    some (shR 0x2E .X 0x03 f (if f.x = 0 then .dst 1 else .zero) (.src 1) (if f.x = 0 then .zero else .src 1))
  | .fadd f => let n := pairIf (f.x = 1); some (shR 0x30 .F 0x0F f (.dst n) (.src n) (.src n))
  | .fsub f => let n := pairIf (f.x = 1); some (shR 0x31 .F 0x0F f (.dst n) (.src n) (.src n))
  | .fmul f => let n := pairIf (f.x = 1); some (shR 0x32 .F 0x0F f (.dst n) (.src n) (.src n))
  | .fma f => let n := pairIf (f.x = 1); some (shR 0x33 .F 0x0F f (.reg n n true true) (.src n) (.src n))
  | .fmin f => let n := pairIf (f.x = 1); some (shR 0x34 .F 0x0F f (.dst n) (.src n) (.src n))
  | .fmax f => let n := pairIf (f.x = 1); some (shR 0x35 .F 0x0F f (.dst n) (.src n) (.src n))
  | .fcmp f => some (shR 0x36 .F 0xFF f .pd (.src 1) (.src 1))
  | .dcmp f => some (shR 0x37 .F 0xFF f .pd (.src 2) (.src 2))
  | .fsgn f => let n := pairIf (f.x = 1); some (shR 0x38 .F 0x0F f (.dst n) (.src n) (.src n))
  | .frnd f => let n := pairIf (f.x = 1); some (shR 0x39 .F 0x0F f (.dst n) (.src n) .zero)
  | .cvt f =>
    some (shR 0x3A .F 0x3F f (.dst (cvtRegs (f.b.extractLsb' 0 3))) (.src (cvtRegs (f.b.extractLsb' 3 3)))
      (.lit (cvtCodeOk f.x f.b) 2))
  | .qcvt f => some (shR 0x3B .F 0x3F f (.dst 1) (.src 1) (.lit true 0))
  | .fdiv f => let n := pairIf (f.x = 1); some (shDef 0x3C .F 0x0F f (.dst n) (.src n) (.src n))
  | .fsqrt f => let n := pairIf (f.x = 1); some (shDef 0x3D .F 0x0F f (.dst n) (.src n) .zero)
  | .sfu f => some (shDef 0x3E .F 0x3F f (.dst 1) (.src 1) .zero)
  | .pk2 f => some (shR 0x3F .F 0x0C f (.dst 1) (.src 1) (.src 1))
  | .upk2 f => some (shR 0x40 .F 0x0C f (.dst 2) (.src 1) .zero)
  | .fdot2 f => some (shR 0x41 .F 0x0C f (.reg 1 1 true true) (.src 1) (.src 1))
  | .chgo f => some (shR 0x42 .X 0x01 f (.dst 1) (.src 2) (.src 1))
  | .chst f => some (shR 0x43 .X 0x07 f (.dst (pairIf (f.x != 0))) (.src 1) .zero)
  | .chstp f => some (shR 0x44 .X 0x01 f (.dst 1) (.src 1) .zero)
  | .cpy f =>
    some (shR 0x45 .X 0x01 f (.dst 1)
      (if f.a.toNat % 16 = 0 && f.a.toNat < 64 then .reg 16 16 true false else .lit false 3) (.src 1))
  | .cprom f => some (shR 0x46 .X 0x01 f (.dst 2) (.src 1) .zero)
  | .tick f => some (shR 0x48 .A 0x03 f (.dst 2) .zero .zero)
  | .dlset f => some (shR 0x49 .A 0xFE f .zero (.src 2) .zero)
  | .dlrel f => some (shR 0x4A .A 0xFE f .zero (.src 2) .zero)
  | .dlbud f => some (shR 0x4B .A 0xFE f .zero (.src 2) .zero)
  | .dlget f => some (shR 0x4C .A 0xFF f (.dst 2) .zero .zero)
  | .sleep f => some (shW 0x4D .A f .zero .zero .zero)
  | .escal f => some (shK 0x4E .A false f .zero (f.k.toNat < 65536))
  | .br f => some (shK 0x50 .A true f .ps true)
  | .brn f => some (shK 0x51 .A true f .ps true)
  | .jmp f => some (shEnd 0x52 .A 0x01 f .zero (.src 2) .zero)
  | .call f => some (shK 0x53 .A true f (.reg 2 2 false true) true)
  | .ret f => some (shEnd 0x54 .A 0x01 f .zero (.src 2) .zero)
  | .fork f => some (shW 0x55 .X f (.dst 1) (.src 2) (.src 1))
  | .fend f => some (shEnd 0x56 .X 0x01 f .zero (.src 1) .zero)
  | .fjoin f => some (shW 0x57 .X f (.dst 1) (.src 1) .zero)
  | .yield f => some (shEnd 0x58 .X 0x03 f .zero .zero .zero)
  | .gend f => some (shEnd 0x59 .X 0x01 f .zero (.src 1) .zero)
  | .qemit f => some (shW 0x5A .X f (.dst 1) (.src 2) (.name false))
  | .qrecv f => some (shW 0x5B .X f (.name true) (.src 2) .zero)
  | .migr f => some (shW 0x5C .X f (.dst 1) (.src 2) (.src 1))
  | .xshf f => some (shW 0x5D .X f (.reg 1 1 true true) (.src 1) (.src 1))
  | .xpsh f => some (shW 0x5E .X f (.reg 1 1 true true) (.src 1) (.src 1))
  | .xrdi f => some (shW 0x5F .X f (.dst 1) (.src 1) (.src 1))
  | .xrdf f => some (shW 0x60 .X f (.dst 1) (.src 1) (.src 1))
  | .xrmn f => some (shW 0x61 .X f (.dst 1) (.src 1) (.src 1))
  | .xrmx f => some (shW 0x62 .X f (.dst 1) (.src 1) (.src 1))
  | .xscn f => some (shW 0x63 .X f (.dst 1) (.src 1) (.src 1))
  | .xvot f => some (shW 0x64 .X f (.dst 1) (.src 1) (.src 1))
  | .xffs f => some (shW 0x65 .X f (.dst 1) (.src 1) (.src 1))
  | .vfpsh f => some (shW 0x66 .M f .zero (.src 1) (.src 1))
  | .vfpop f => some (shW 0x67 .M f (.reg 2 2 false true) .zero (.src 1))
  | .ld f =>
    some (shDef 0x68 .M 0x7F f
      (if f.x = 6 then .reg 4 4 false true else .dst (ldRegs f.x)) (.src 2) (.src 1))
  | .st f => let n := stRegs f.x; some (shR 0x69 .M 0x1F f (.reg n n true false) (.src 2) (.src 1))
  | .lda f => some (shDef 0x6A .M 0x1F f (.dst 1) (.src 2) (.src 1))
  | .stl f => some (shR 0x6B .M 0x1F f (.reg 1 1 true false) (.src 2) (.src 1))
  | .ldwt f => some (shW 0x6C .M f (.dst 1) (.src 2) (.src 1))
  | .rsrev f => some (shR 0x6D .M 0x07 f (.reg 1 1 true false) (.src 2) (.src 1))
  | .locate f => some (shR 0x6E .M 0x01 f (.dst 1) (.src 2) .zero)
  | .cache f => some (shR 0x6F .M 0x1F f (.reg 1 1 true false) (.src 2) .zero)
  | .lds f => some (shW 0x70 .M f (.dst (ldsRegs f.b)) (.src 1) (.src 1))
  | .sts f => let n := stRegs f.x; some (shR 0x71 .M 0x1F f (.reg n n true false) (.src 1) (.src 1))
  | .ldsc f => some (shW 0x72 .M f (.dst (ldsRegs f.b)) (.src 1) (.src 1))
  | .femk f => some (shR 0x73 .M 0x03 f .zero (.src 1) (.src 1))
  | .binit f => some (shR 0x74 .M 0x01 f (.reg 1 1 true false) (.src 1) (.src 1))
  | .barv f => some (shR 0x75 .M 0x01 f (.dst 1) (.src 1) (.src 1))
  | .bwait f => some (shW 0x76 .M f (.dst 1) (.src 1) (.src 1))
  | .baw f => some (shW 0x77 .M f (.dst 1) (.src 1) (.src 1))
  | .atom f => some { shDef 0x78 .M 0xFF f (.reg 1 1 true true) (.src 2) (.src 1) with ends := true }
  | .atox f =>
    let n := pairIf (f.x = 1 || f.x = 2)
    some { shDef 0x79 .M 0xFF f (.reg n n true true) (.src 2) (.src 1) with ends := true }
  | .cas f =>
    let n := if f.x = 1 then 4 else 2
    some { shDef 0x7A .M 0x03 f (.reg n n true true) (.src 2) (.src 1) with ends := true }
  | .redm f => some (shEnd 0x7B .M 0xFF f (.reg 1 1 true false) (.src 2) (.src 1))
  | .fence f => some (shW 0x7C .M f (.dst 1) (.lit (fenceOk f.a) 3) .zero)
  | .pgate f => some (shW 0x7D .X f (.dst 1) (.src 1) (.src 1))
  | .dbg f =>
    some (shR 0x7E .X 0x07 f (if f.x = 0 then .zero else if f.x = 1 then .dst 2 else .dst 1)
      (.src (if f.x = 2 then 2 else 1)) (if f.x = 0 then .src 1 else .zero))
  | .bundlePick _ => none
  | .deferredResultLanding _ _ => none
  | .waitConditionMet _ _ => none
  | .waitDeadlinePassed _ _ => none
  | .waitImmediateOutcome _ _ => none
  | .fibreTrapEntry _ => none
  | .supervisorTrap _ => none
  | .promiseMiss _ _ => none
  | .tickBudgetExhausted _ => none
  | .groupPlacement _ _ => none
  | .groupAllotmentReturn _ => none
  | .successorGroupLaunch _ _ => none
  | .migrArrival _ _ => none
  | .groupKill _ => none
  | .bbldLoadLand _ _ => none
  | .gathrRowLand _ _ => none
  | .mtileKstep _ _ => none
  | .obrelRangeReturn _ _ => none
  | .channelRecordRead _ _ => none
  | .churnTake _ _ => none
  | .targetFire _ _ => none
  | .recordComplete _ _ => none
  | .pageWalk _ _ => none
  | .capacityEviction _ _ => none
  | .evictionNotice _ => none
  | .goneReply _ _ => none
  | .ownershipRequest _ _ => none
  | .forcedPublish _ _ => none
  | .storeAcknowledge _ _ => none
  | .drainStall _ => none
  | .contextSave _ _ => none
  | .scrubPatrol _ => none
  | .scrubHoldEnd _ => none
  | .gateClose _ => none
  | .powerWindow => none
  | .thermalEmergency _ _ => none
  | .freezeStart _ => none
  | .traceDrain _ => none
  | .stackReset _ => none
  | .routeDrainDeadline _ => none
  | .routeLost _ => none
  | .movedRefusal _ _ _ => none
  | .loadImage _ _ => none
  | .unloadImage _ _ => none
  | .launch _ _ => none
  | .registerGraphQueue _ _ => none
  | .closeGraphQueue _ _ => none
  | .describeImage _ _ => none
  | .commandEntryArrival _ _ => none
  | .doorbell _ _ _ _ => none
  | .queueEnable _ _ _ => none
  | .queueStatusRead _ _ => none
  | .registerWrite _ _ _ _ => none
  | .resume _ _ _ _ => none
  | .deliver _ _ _ => none
  | .readContext _ _ _ => none
  | .writeRegisters _ _ _ _ => none
  | .kill _ _ => none
  | .preempt _ _ => none
  | .resumeGroup _ _ => none
  | .regionCreate _ _ _ => none
  | .regionEdit _ _ _ => none
  | .regionDelete _ _ => none
  | .remap _ _ _ _ => none
  | .invalidate _ _ _ _ => none
  | .resolved _ _ _ => none
  | .unresolvable _ _ _ => none
  | .attach _ _ _ _ => none
  | .detach _ _ => none
  | .unfreeze _ _ _ => none
  | .scrub _ _ => none
  | .setHandlerService _ _ => none
  | .watch _ _ _ _ => none
  | .traceCommand _ _ _ => none
  | .traceAcknowledge _ _ _ => none
  | .counters _ => none
  | .supervisorFreeze _ _ => none
  | .deviceFreeze _ => none
  | .freezeRelease _ _ => none
  | .measurementRequest _ => none
  | .hostMemAccess _ _ _ => none
  | .peerRequest _ _ _ _ => none
  | .peerRequestTimeout _ => none
  | .portLaneFailure _ => none
  | .packageReset => none
  | .globalTick => none
  | .moduleRetraining _ => none
  | .declareStoresLost _ _ => none
  | .forcedPublishDeadline _ _ => none
  | .remapSwitch _ _ _ => none
  | .stackRelease _ => none
  | .softError _ _ => none
  | .nameExitRing _ _ _ _ => none

/-- The register a code names for a fibre: inside a microprogram g56 to g63 are the caller's gN to
gN+7 (R80). -/
def mapReg (mp : Option Nat) (code : Nat) : Nat :=
  match mp with
  | some n => if 56 ≤ code then n + (code - 56) else code
  | none => code

/-- The causes of R83 that n registers from a code raise: past the window, or not a multiple. -/
def regCauses (mp : Option Nat) (window n al code : Nat) : List Nat :=
  let r := mapReg mp code
  (if window < r + n then [4] else []) ++ (if r % al ≠ 0 then [5] else [])

/-- The illegal-instruction causes a field raises in its role (R50, R51, R52, R74). A register that TRAIL names
raises cause 3 from code 64 on; the spec names no cause there (DESIGN CHOICE, log entry 124). -/
def Role.causes (mp : Option Nat) (window : Nat) (r : Role) (code : BitVec 7) : List Nat :=
  match r with
  | .zero => if code = 0 then [] else [3]
  | .src n => if code.toNat < 64 then regCauses mp window n n code.toNat else []
  | .dst n => if code.toNat < 64 then regCauses mp window n n code.toNat else []
  | .reg n al _ _ => if code.toNat < 64 then regCauses mp window n al code.toNat else [3]
  | .ps => if code.toNat < 96 then [] else [6]
  | .pd => if code.toNat < 96 then [] else [6]
  | .name _ => if code.toNat < 64 then regCauses mp window 1 1 code.toNat else [3]
  | .lit ok cause => if ok then [] else [cause]

/-- All causes that a word's fields raise under a window size and microprogram base. -/
def Shape.causes (mp : Option Nat) (window : Nat) (s : Shape) : List Nat :=
  (if s.xOk then [] else [2]) ++ (if s.kOk then [] else [3]) ++
    s.d.1.causes mp window s.d.2 ++ s.a.1.causes mp window s.a.2 ++ s.b.1.causes mp window s.b.2

/-- The lowest cause of a list; none when the list is empty (R83: the lowest value is reported). -/
def lowest : List Nat → Option Nat
  | [] => none
  | c :: cs => some (match lowest cs with | none => c | some k => min c k)

/-- The illegal-instruction cause an instruction's fields raise for a fibre with the given window. -/
def Instr.cause (mp : Option Nat) (window : Nat) (i : Instr) : Option Nat :=
  match i.shape with
  | some s => lowest (s.causes mp window)
  | none => none

/-- Whether an instruction is a word of the instruction set, not an event. -/
def Instr.isWord (i : Instr) : Bool := i.shape.isSome

/-- The registers a field reads. -/
def Role.reads (mp : Option Nat) (r : Role) (code : BitVec 7) : List Nat :=
  let regs (n : Nat) := (List.range n).map (mapReg mp code.toNat + ·)
  match r with
  | .src n => if code.toNat < 64 then regs n else []
  | .reg n _ true _ => if code.toNat < 64 then regs n else []
  | _ => []

/-- The registers a field writes; a code of 64 or more names none. -/
def Role.writes (mp : Option Nat) (r : Role) (code : BitVec 7) : List Nat :=
  let regs (n : Nat) := (List.range n).map (mapReg mp code.toNat + ·)
  match r with
  | .dst n => if code.toNat < 64 then regs n else []
  | .reg n _ _ true => if code.toNat < 64 then regs n else []
  | .name true => if code.toNat < 64 then regs 1 else []
  | _ => []

/-- Bits 23:21 of a word. -/
def Shape.x (s : Shape) : BitVec 3 := s.body.extractLsb' 21 3

/-- Registers that a word may read or write past those its encoding tells: sixteen from the first that QEMIT or
QRECV names, the most a record holds (R133); D+2 of MMAS and D+4 to D+6 of GATHR (R207, R212); four from D of an
LDS or LDSC whose control word is in a register (R254); the g0 to g3 that ERET restores (R350). The core reads
the run's words alone before it issues the run, so all of them count (DESIGN CHOICE, log entry 124). -/
def Shape.mayTouch (mp : Option Nat) (s : Shape) : List Nat :=
  let run (code : BitVec 7) (n : Nat) : List Nat :=
    if code.toNat < 64 then (List.range n).map (mapReg mp code.toNat + ·) else []
  if s.op = 0x5A then run s.b.2 16
  else if s.op = 0x5B then run s.d.2 16
  else if s.op = 0x27 then run s.d.2 3
  else if s.op = 0x2C then run s.d.2 7
  else if (s.op = 0x70 || s.op = 0x72) && s.b.2.toNat < 96 then run s.d.2 4
  else if s.op = 0x06 && !s.x.getLsbD 1 then List.range 4
  else []

/-- The registers a word reads or writes (R68, R69). MCALL counts as reading and writing gN to gN+7, which its
microprogram may (DESIGN CHOICE, log entry 124). -/
def Shape.touches (mp : Option Nat) (s : Shape) : List Nat :=
  s.d.1.reads mp s.d.2 ++ s.d.1.writes mp s.d.2 ++ s.a.1.reads mp s.a.2 ++ s.b.1.reads mp s.b.2 ++ s.mayTouch mp

/-- The registers a word writes. CAS reads two values and writes back one (R306); TRAIL, MCALL and
SYSC write none themselves. -/
def Shape.regWrites (mp : Option Nat) (s : Shape) : List Nat :=
  let ws := s.d.1.writes mp s.d.2
  if s.op = 0x7A then ws.take (ws.length / 2) else if s.op = 0x02 || s.op = 0x05 then [] else ws

/-- The predicates a word writes, for the check of R58: W words and ESCAL write p1 (R105, R108) and PWR its slice
(R143). -/
def Shape.predWrites (s : Shape) : List Nat :=
  (if s.d.1 = .pd && s.d.2.toNat < 96 then [s.d.2.toNat] else []) ++ (if s.waits || s.op = 0x4E then [1] else []) ++
    (if s.op = 0x1F then (List.range 32).map (32 * s.x.toNat + ·) else [])

end Sys2Proof
end

