-- ==== Sys2Proof/WellFormed.lean ====
section
/-!
DEFINITION. When an instruction is well formed: no field of a word raises an illegal-instruction cause
for the largest window (R50, R52, R65, R73, R74). Events carry no encoding and are well formed.
-/

namespace Sys2Proof

/-- The largest register window (R12, R140). -/
def maxWindow : Nat := 64

/-- A well-formed instruction: its variant is defined, its unused fields are zero, its registers,
pairs and predicate codes are legal. -/
def Instr.wf (i : Instr) : Bool := (i.cause none maxWindow).isNone

end Sys2Proof
end

