-- ==== Sys2Proof/Decode.lean ====
section
/-!
DEFINITION. Decoding a word (R44, R72, R73), the refusals by name, and the encoder.
-/

namespace Sys2Proof

/-- Why a word is no instruction, in the order of R83's illegal-instruction causes. -/
inductive Illegal where
  | reservedOpcode | undefinedVariant | unusedField | beyondWindow | oddRegister | predicateCode
  | specialCode
  deriving DecidableEq, Repr

/-- The refusal that stands for an illegal-instruction cause (R83). -/
def Illegal.ofCause (c : Nat) : Illegal :=
  if c = 2 then .undefinedVariant else if c = 3 then .unusedField else if c = 4 then .beyondWindow
  else if c = 5 then .oddRegister else if c = 6 then .predicateCode else .specialCode

/-- An opcode, a chain bit and bits 23:0 read as the opcode map says (R72): none for a reserved opcode (R73). -/
def decodeParts (op : Nat) (c : Bool) (b : BitVec 24) : Option Instr :=
  match op with
  | 0x00 => some (.nop (F3.ofBody c b))
  | 0x01 => some (.trail (F3.ofBody c b))
  | 0x02 => some (.mcall (FK.ofBody c b))
  | 0x03 => some (.csld (F3.ofBody c b))
  | 0x04 => some (.trap (FK.ofBody c b))
  | 0x05 => some (.sysc (FK.ofBody c b))
  | 0x06 => some (.eret (F3.ofBody c b))
  | 0x08 => some (.iadd (F3.ofBody c b))
  | 0x09 => some (.isub (F3.ofBody c b))
  | 0x0A => some (.ineg (F3.ofBody c b))
  | 0x0B => some (.iabs (F3.ofBody c b))
  | 0x0C => some (.imul (F3.ofBody c b))
  | 0x0D => some (.imulh (F3.ofBody c b))
  | 0x0E => some (.imad (F3.ofBody c b))
  | 0x0F => some (.idiv (F3.ofBody c b))
  | 0x10 => some (.imm (F3.ofBody c b))
  | 0x11 => some (.icmp (F3.ofBody c b))
  | 0x12 => some (.log (F3.ofBody c b))
  | 0x13 => some (.shf (F3.ofBody c b))
  | 0x14 => some (.bfx (F3.ofBody c b))
  | 0x15 => some (.bfi (F3.ofBody c b))
  | 0x16 => some (.bit (F3.ofBody c b))
  | 0x17 => some (.lea (F3.ofBody c b))
  | 0x18 => some (.sel (F3.ofBody c b))
  | 0x19 => some (.mov (F3.ofBody c b))
  | 0x1A => some (.movs (F3.ofBody c b))
  | 0x1B => some (.movt (F3.ofBody c b))
  | 0x1C => some (.idot4 (F3.ofBody c b))
  | 0x1D => some (.plog (F3.ofBody c b))
  | 0x1E => some (.prd (F3.ofBody c b))
  | 0x1F => some (.pwr (F3.ofBody c b))
  | 0x20 => some (.lim (FK.ofBody c b))
  | 0x21 => some (.limh (FK.ofBody c b))
  | 0x22 => some (.fmts (F3.ofBody c b))
  | 0x23 => some (.obres (F3.ofBody c b))
  | 0x24 => some (.obrel (F3.ofBody c b))
  | 0x25 => some (.bbld (F3.ofBody c b))
  | 0x26 => some (.mma (F3.ofBody c b))
  | 0x27 => some (.mmas (F3.ofBody c b))
  | 0x28 => some (.accz (F3.ofBody c b))
  | 0x29 => some (.accrd (F3.ofBody c b))
  | 0x2A => some (.accwr (F3.ofBody c b))
  | 0x2B => some (.compr (F3.ofBody c b))
  | 0x2C => some (.gathr (F3.ofBody c b))
  | 0x2D => some (.mtile (F3.ofBody c b))
  | 0x2E => some (.mtq (F3.ofBody c b))
  | 0x30 => some (.fadd (F3.ofBody c b))
  | 0x31 => some (.fsub (F3.ofBody c b))
  | 0x32 => some (.fmul (F3.ofBody c b))
  | 0x33 => some (.fma (F3.ofBody c b))
  | 0x34 => some (.fmin (F3.ofBody c b))
  | 0x35 => some (.fmax (F3.ofBody c b))
  | 0x36 => some (.fcmp (F3.ofBody c b))
  | 0x37 => some (.dcmp (F3.ofBody c b))
  | 0x38 => some (.fsgn (F3.ofBody c b))
  | 0x39 => some (.frnd (F3.ofBody c b))
  | 0x3A => some (.cvt (F3.ofBody c b))
  | 0x3B => some (.qcvt (F3.ofBody c b))
  | 0x3C => some (.fdiv (F3.ofBody c b))
  | 0x3D => some (.fsqrt (F3.ofBody c b))
  | 0x3E => some (.sfu (F3.ofBody c b))
  | 0x3F => some (.pk2 (F3.ofBody c b))
  | 0x40 => some (.upk2 (F3.ofBody c b))
  | 0x41 => some (.fdot2 (F3.ofBody c b))
  | 0x42 => some (.chgo (F3.ofBody c b))
  | 0x43 => some (.chst (F3.ofBody c b))
  | 0x44 => some (.chstp (F3.ofBody c b))
  | 0x45 => some (.cpy (F3.ofBody c b))
  | 0x46 => some (.cprom (F3.ofBody c b))
  | 0x48 => some (.tick (F3.ofBody c b))
  | 0x49 => some (.dlset (F3.ofBody c b))
  | 0x4A => some (.dlrel (F3.ofBody c b))
  | 0x4B => some (.dlbud (F3.ofBody c b))
  | 0x4C => some (.dlget (F3.ofBody c b))
  | 0x4D => some (.sleep (F3.ofBody c b))
  | 0x4E => some (.escal (FK.ofBody c b))
  | 0x50 => some (.br (FK.ofBody c b))
  | 0x51 => some (.brn (FK.ofBody c b))
  | 0x52 => some (.jmp (F3.ofBody c b))
  | 0x53 => some (.call (FK.ofBody c b))
  | 0x54 => some (.ret (F3.ofBody c b))
  | 0x55 => some (.fork (F3.ofBody c b))
  | 0x56 => some (.fend (F3.ofBody c b))
  | 0x57 => some (.fjoin (F3.ofBody c b))
  | 0x58 => some (.yield (F3.ofBody c b))
  | 0x59 => some (.gend (F3.ofBody c b))
  | 0x5A => some (.qemit (F3.ofBody c b))
  | 0x5B => some (.qrecv (F3.ofBody c b))
  | 0x5C => some (.migr (F3.ofBody c b))
  | 0x5D => some (.xshf (F3.ofBody c b))
  | 0x5E => some (.xpsh (F3.ofBody c b))
  | 0x5F => some (.xrdi (F3.ofBody c b))
  | 0x60 => some (.xrdf (F3.ofBody c b))
  | 0x61 => some (.xrmn (F3.ofBody c b))
  | 0x62 => some (.xrmx (F3.ofBody c b))
  | 0x63 => some (.xscn (F3.ofBody c b))
  | 0x64 => some (.xvot (F3.ofBody c b))
  | 0x65 => some (.xffs (F3.ofBody c b))
  | 0x66 => some (.vfpsh (F3.ofBody c b))
  | 0x67 => some (.vfpop (F3.ofBody c b))
  | 0x68 => some (.ld (F3.ofBody c b))
  | 0x69 => some (.st (F3.ofBody c b))
  | 0x6A => some (.lda (F3.ofBody c b))
  | 0x6B => some (.stl (F3.ofBody c b))
  | 0x6C => some (.ldwt (F3.ofBody c b))
  | 0x6D => some (.rsrev (F3.ofBody c b))
  | 0x6E => some (.locate (F3.ofBody c b))
  | 0x6F => some (.cache (F3.ofBody c b))
  | 0x70 => some (.lds (F3.ofBody c b))
  | 0x71 => some (.sts (F3.ofBody c b))
  | 0x72 => some (.ldsc (F3.ofBody c b))
  | 0x73 => some (.femk (F3.ofBody c b))
  | 0x74 => some (.binit (F3.ofBody c b))
  | 0x75 => some (.barv (F3.ofBody c b))
  | 0x76 => some (.bwait (F3.ofBody c b))
  | 0x77 => some (.baw (F3.ofBody c b))
  | 0x78 => some (.atom (F3.ofBody c b))
  | 0x79 => some (.atox (F3.ofBody c b))
  | 0x7A => some (.cas (F3.ofBody c b))
  | 0x7B => some (.redm (F3.ofBody c b))
  | 0x7C => some (.fence (F3.ofBody c b))
  | 0x7D => some (.pgate (F3.ofBody c b))
  | 0x7E => some (.dbg (F3.ofBody c b))
  | _ => none

/-- The word read by its parts (R44). -/
def decodeFields (w : Word) : Option Instr :=
  decodeParts (w.extractLsb' 24 7).toNat (w.getLsbD 31) (w.extractLsb' 0 24)

/-- The instruction a word encodes, or the reason it encodes none. -/
def decode (w : Word) : Except Illegal Instr :=
  match decodeFields w with
  | none => .error .reservedOpcode
  | some i =>
    match i.cause none maxWindow with
    | none => .ok i
    | some c => .error (.ofCause c)

/-- A little-endian number from bytes (R5). -/
def ofBytes : List Byte → Nat
  | [] => 0
  | b :: bs => b.toNat + 256 * ofBytes bs

/-- Decoding at the head of a list of bytes: the instruction or refusal and the bytes after the word;
none when fewer than four bytes are left. -/
def decodeBytes : List Byte → Option (Except Illegal Instr × List Byte)
  | b0 :: b1 :: b2 :: b3 :: rest => some (decode (BitVec.ofNat 32 (ofBytes [b0, b1, b2, b3])), rest)
  | _ => none

/-- The word of an instruction, from its line of the encoding tables; none for events. -/
def encode (i : Instr) : Option Word :=
  i.shape.map fun s => (BitVec.ofBool s.chain ++ BitVec.ofNat 7 s.op ++ s.body : BitVec 32)

/-- The host's question to the decoder: the instruction whose first word is w. Every Diwen
instruction is one 32-bit word (R44), so bits above 31 must be zero. -/
def decodeTableWord (_nbits w : Nat) : Option Instr :=
  if w < 2 ^ 32 then
    match decode (BitVec.ofNat 32 w) with
    | .ok i => some i
    | .error _ => none
  else none

end Sys2Proof
end

