-- ==== Sys2Proof/Machine/State.lean ====
section
/-!
DEFINITION. The state of the NHL-900A as plain data, the reasons a step can stop, and the state after
reset. Every list holds only the items that differ from their resting value; numbered stores are
sparse lists (Word.lean). A field marked 'the model's own' is no state of the spec.
-/

namespace Sys2Proof.Machine

/-- The eight bypass latches of a fibre, 64 bits each (R47, R59). -/
structure Latches where
  la0 : DWord := 0
  la1 : DWord := 0
  lf0 : DWord := 0
  lf1 : DWord := 0
  lm0 : DWord := 0
  lm1 : DWord := 0
  lx0 : DWord := 0
  lx1 : DWord := 0
  deriving DecidableEq, Repr

/-- The registers of a fibre that its own words read and write. -/
structure Ctx where
  /-- g0 to g63; an unlisted register is zero (R15, R128, R140). -/
  regs : Sparse Word := []
  /-- p0 to p95, p0 in bit 0; p0 reads as 1 whatever its bit (R142). -/
  preds : BitVec 96 := 0
  lat : Latches := {}
  /-- dl1 to dl7 (R87); dl0 holds no state. -/
  dl : Sparse DWord := []
  /-- Status of the last wait-capable word (R94). -/
  wstat : Word := 0
  /-- Consecutive non-OK waits and the packet they are counted at (R105). -/
  escnt : BitVec 16 := 0
  escpc : DWord := 0
  /-- Rounding, flush and sticky flags (R168). -/
  fpctl : Word := 0
  /-- Level reported by the last LOCATE (R234). -/
  loclvl : Word := 0
  /-- The promise special (R280). -/
  prom : DWord := 0
  /-- Fault information of the last trap entry (R343) and the resume packet (R345). -/
  finfo : Word := 0
  fval : Word := 0
  fvah : Word := 0
  epc : DWord := 0
  /-- Whether the fibre runs its handler, and g0 to g3 as they stood at entry (R345). -/
  inhandler : Bool := false
  shadow : Sparse Word := []
  deriving DecidableEq, Repr

/-- A deferrable result on its way to its register (R66, R67): registers, value, flags to merge on
landing (R170), and the address of the access when an uncorrectable data error came with it (R69). -/
structure Pend where
  reg : Nat
  n : Nat
  value : BitVec 128
  flags : BitVec 5 := 0
  bad : Option DWord := none
  deriving DecidableEq, Repr

/-- An arrival a wait has placed at a shared object (R101): at a barrier, with the phase it counts
toward and the bytes it added, or at a rendezvous. -/
inductive Arrival where
  | none
  | barrier (addr phase addb : Nat)
  | rendezvous
  deriving DecidableEq, Repr

/-- A wait in progress (R97, R98, R103). -/
structure Wait where
  /-- The waiting word and its packet. -/
  word : Word
  pkt : DWord
  /-- The captured deadline in the form of R87, and the issue tick. -/
  deadline : DWord
  issued : DWord
  /-- Operands captured at issue. -/
  a : DWord := 0
  b : DWord := 0
  d : DWord := 0
  arr : Arrival := .none
  /-- Members that wait as one (R97), 0 for a wait of its own; the lowest leads. -/
  mask : BitVec 32 := 0
  /-- The member mask of the bundle that issued it (R351). -/
  bundle : BitVec 32 := 0
  /-- What the word is bound to: a reservation and B-tile sequence, a gather, a target core. -/
  bound : Nat := 0
  bound2 : Nat := 0
  /-- What the word read at issue: the slots of a CSLD's image (R82), the registers of a QEMIT (R133). -/
  data : List (Nat × List Word) := []
  /-- The bytes of a CSLD's image as R19 lays it out (R397). -/
  image : List Byte := []
  /-- The microprogram base of the run that waited (R80). -/
  mp : Option Nat := none
  /-- Whether the wait has been resumed after pre-emption on this tick (R103). -/
  resumed : Bool := false
  /-- Of a wait that a handler interrupted and that ended meanwhile with the members it is shared
  with (R97): code, detail, registers and value of its result. -/
  ended : Option (Nat × Nat × Nat × Nat) := none
  deriving DecidableEq, Repr

/-- A trap of R344 before its entry, or held with its fibre at the supervisor. -/
structure Trap where
  kind : Nat
  cause : Nat := 0
  detail : Nat := 0
  fva : DWord := 0
  self : Bool := true
  escw : Bool := false
  esci : Bool := false
  epc : DWord := 0
  /-- Member mask and failing mask of the bundle (R351). -/
  mask : BitVec 32 := 0
  failing : BitVec 32 := 0
  /-- The model's own: its entry comes after the release of the freeze that the hit has started (R403). -/
  late : Bool := false
  deriving DecidableEq, Repr

/-- What the words of a run leave to be done when the run ends (R107, R129, R131, R135, R348, R349). -/
structure After where
  fend : Option Word := none
  gend : Option Word := none
  trap : Option Nat := none
  escal : Option Nat := none
  escw : Option Nat := none
  sysc : Option (Nat × Nat) := none
  mcall : Option (Nat × Nat) := none
  /-- An ERET: whether it keeps g0 to g3, and whether it abandons the interrupted place (R350). -/
  eret : Option (Bool × Bool) := none
  /-- A granted MIGR: the target core, none for home, and its D code, mapped inside a microprogram (R80). -/
  migr : Option (Option Nat × BitVec 7) := none
  deriving DecidableEq, Repr

/-- The state of a fibre slot (R120); blocked is derived from the scoreboard, away from where the
fibre is. -/
inductive FibreState where
  | free | ready | issuing | waiting
  deriving DecidableEq, Repr

/-- Where a fibre is (R135): in its home slot, in transit to a core (none: home) with the D code of the
MIGR and the tick it left, or landed. -/
inductive Place where
  | home
  | transit (core : Option Nat) (d : BitVec 7) (left : DWord)
  | landed (core : Nat)
  deriving DecidableEq, Repr

/-- A fibre slot of a group (R119, R120, R358). An unlisted slot is free with generation 0. -/
structure Fibre where
  fid : Nat
  st : FibreState := .free
  /-- Slot generation and kept exit value (R119, R129). -/
  gen : BitVec 16 := 0
  exitv : Word := 0
  ctx : Ctx := {}
  /-- The model's own: the registers as they stood before the chain group issued (R56), and the
  flags the chain group's words have raised. -/
  snap : Ctx := {}
  raised : BitVec 5 := 0
  /-- The model's own: the format table the fibre's words see, as it stood before the chain group. -/
  tsnap : Sparse Word := []
  /-- Program counter (R120); the next run where a control transfer has set it (R126), else the packet
  after the TRAIL. -/
  pc : DWord := 0
  npc : Option DWord := none
  /-- Tick at which the fibre last became ready, and its age kept by a save (R122, R358). -/
  rdy : DWord := 0
  age : DWord := 0
  /-- Resident ticks (R85). -/
  rtk : DWord := 0
  /-- Results in flight inside the run (R60, R66) and the scoreboard (R67). -/
  flight : List Pend := []
  board : List Pend := []
  /-- Poison mask (R69), and the address of each poisoned register's access (R344), which no context record
  keeps. -/
  poison : BitVec 64 := 0
  badAt : List (Nat × DWord) := []
  wait : Option Wait := none
  /-- The wait a handler interrupted (R345). -/
  saved : Option Wait := none
  after : After := {}
  /-- The code of an ESCAL of a run that has ended, or waits, whose trap is still to be taken (R107, R108), and the
  same of the run that a handler interrupted. -/
  owed : Option Nat := none
  sowed : Option Nat := none
  /-- A fibre-level entry to be taken at this boundary, and whether it restarts the run. -/
  entry : Option Trap := none
  /-- A trap that holds the fibre at the supervisor (R351), and whether its record has been sent. -/
  held : Option Trap := none
  sent : Bool := false
  /-- A supervisor call in service: code and first register (R349). -/
  sysc : Option (Nat × Nat) := none
  /-- Promise misses not entered yet (R290, R345). -/
  misses : List Trap := []
  /-- The next pass of the run is made without watchpoint checks (R402). -/
  exempt : Bool := false
  place : Place := .home
  /-- The core whose landing slot it still holds after it has left it by MIGR, until its stores are acknowledged
  (R135). -/
  slotOn : Option Nat := none
  /-- Landing slots that ended fibres of this slot still hold: the core, and the stores not yet acknowledged (R135). -/
  slots : List (Nat × Nat) := []
  /-- Its state record and window as they stood when it left its home slot (R356). -/
  leftAs : List Byte := []
  /-- The copy of the format table a fibre carries while away (R177). -/
  ftab : Option (Sparse Word) := none
  /-- Microprogram slot and base of a run inside the control store (R80, R81). -/
  mc : Option (Nat × Nat) := none
  /-- The same for the run that a handler interrupted. -/
  smc : Option (Nat × Nat) := none
  /-- Stores issued and not acknowledged (R360). -/
  unacked : Nat := 0
  /-- The frames that its run must write and that are being scrubbed: it restarts when the hold ends (R370). -/
  frames : List Nat := []
  /-- The model's own: the bytes, by line, that the fibre's own words have written since its last release at scope D,
  and whether a read, a wait or its start may have put another fibre's writes before its next word (R313). -/
  wrote : Sparse (BitVec 256) := []
  synced : Bool := false
  deriving DecidableEq, Repr

/-- Kernel header values that a group keeps (R12). -/
structure Kernel where
  entry : DWord := 0
  window : Nat := 8
  teams : Nat := 1
  fibres : Nat := 1
  barriers : Nat := 0
  chan : Nat := 0
  acc32 : Nat := 0
  acc16 : Nat := 0
  landing : Nat := 0
  relaunch : Bool := false
  spbytes : Nat := 0
  opbytes : Nat := 0
  argbytes : Nat := 0
  spsrc : Nat := 0
  spinit : Nat := 0
  fmttab : Sparse Word := []
  deriving DecidableEq, Repr

/-- The region fields a group takes when it is placed (R113). -/
structure Policy where
  prio : Nat := 0
  promise : Bool := true
  fair : Nat := 2048
  escal : Nat := 16
  resolve : Bool := false
  relaunch : Bool := false
  privileged : Bool := false
  deriving DecidableEq, Repr

/-- A reservation record (R200). -/
structure Reservation where
  base : Nat := 0
  drain : Bool := false
  rows : Nat := 0
  rowbytes : Nat := 0
  valid : Bool := false
  kind : Nat := 0
  cmp : Bool := false
  blk : Nat := 0
  sofs : Nat := 0
  gen : Nat := 0
  desc : Word := 0
  deriving DecidableEq, Repr

/-- One BBLD's contents of a B-buffer slot (R202, R203): its place in the slot's load sequence, whether
it has landed, its fault detail, whether that is an error of the slot itself (R195), and the tile's element and scale
codes. -/
structure BTile where
  slot : Nat
  seq : Nat
  ready : Bool := false
  fault : Option Nat := none
  flawed : Bool := false
  /-- The page whose translation fault its load waits for (R340). -/
  stuck : Option Nat := none
  addr : DWord := 0
  fmt : Word := 0
  desc : Word := 0
  elems : Sparse (BitVec 16) := []
  scales : Sparse (BitVec 16) := []
  deriving DecidableEq, Repr

/-- A gather in progress (R212). -/
structure Gather where
  id : Nat
  fid : Nat
  entry : Nat
  gen : Nat
  list : DWord
  base : DWord
  stride : Nat
  row0 : Nat
  count : Nat
  spad : Bool
  sbase : DWord
  sstride : Nat
  /-- Rows landed, and the fault found: step and index. -/
  done : Nat := 0
  fault : Option (Nat × Nat) := none
  /-- The page whose translation fault it waits for. -/
  stuck : Option Nat := none
  deriving DecidableEq, Repr

/-- A tile sequencer that holds a tile for the MTILE of a fibre (R214), and whether it has stopped: with
the last K-step done, or at an uncorrectable error. -/
structure Sequencer where
  tile : Nat
  fid : Nat
  done : Bool := false
  bad : Bool := false
  deriving DecidableEq, Repr

/-- What a Churn engine has read for a grid record (R295, R297): the descriptor, the table's header
fields and its rows of weights. -/
structure GridPlan where
  desc : BitVec 512
  taps : Nat
  nrows : Nat
  sep : Bool
  weights : List DWord
  deriving DecidableEq, Repr

/-- The progress of a transfer record a channel has taken (R281): its bytes, pointer, whether it is
accepted, the words or elements done, its flags, and whether its promise miss was taken. -/
structure Transfer where
  bytes : BitVec 512
  ptr : DWord
  accepted : Bool := false
  pos : Nat := 0
  flags : BitVec 5 := 0
  missed : Bool := false
  /-- Indices read so far, and the cause that ended the index list early (R284). -/
  idx : List Nat := []
  badIdx : Option Nat := none
  /-- Of a grid record that a Churn engine has taken. -/
  grid : Option GridPlan := none
  /-- Whether it has moved everything and waits only for the writes into its record (R286). -/
  closing : Bool := false
  deriving DecidableEq, Repr

/-- A copy channel (R267). -/
structure Channel where
  n : Nat
  st : Nat := 0
  cur : DWord := 0
  done : Nat := 0
  prom : DWord := 0
  lastf : DWord := 0
  /-- Paused for a deschedule (R268). -/
  paused : Bool := false
  frozen : Bool := false
  /-- The member that issued the CHGO or CPY, and its slot generation then (R290). -/
  issuer : Nat := 0
  issuerGen : BitVec 16 := 0
  /-- The page whose translation fault it waits for (R288). -/
  stuck : Option Nat := none
  /-- Writes into its records that it has not performed yet, in order: pointer, offset and value (R288). -/
  owed : List (DWord × Nat × Nat) := []
  job : Option Transfer := none
  deriving DecidableEq, Repr

/-- A gathering rendezvous (R137). -/
structure Rendezvous where
  team : Nat
  pkt : DWord
  op : Nat
  mask : BitVec 32
  arrived : BitVec 32
  vals : Sparse Word
  olds : Sparse Word
  deriving DecidableEq, Repr

/-- Where a group stands (R116, R131, R354). -/
inductive GroupState where
  | placed
  /-- Being descheduled: no new run starts (R354 steps 1 to 5). -/
  | stopping
  | descheduled
  /-- Ended; its allotments are returned once its stores are acknowledged (R131). -/
  | ended
  deriving DecidableEq, Repr

/-- A group (R112 to R119). Groups waiting for placement are in their launch. -/
structure Group where
  gid : Nat
  part : Nat := 0
  vf : Nat := 0
  launch : Nat := 0
  index : Nat := 0
  gridx : Nat := 1
  region : Nat := 0
  kern : Kernel := {}
  pol : Policy := {}
  st : GroupState := .placed
  core : Nat := 0
  placedAt : DWord := 0
  /-- Tick of its last placement, a resume among them (R354), and of its end (R410). -/
  lastPlaced : DWord := 0
  endedAt : Option DWord := none
  /-- Scratchpad window [spb, spl) in the cluster pool (R247). -/
  spb : Nat := 0
  spl : Nat := 0
  /-- Format table f0 to f15 (R177). -/
  fmttab : Sparse Word := []
  /-- Operand buffer: 32 reservation entries, and its bytes (R199, R200). -/
  res : Sparse Reservation := []
  ob : Memory := []
  btiles : List BTile := []
  /-- Accumulator columns as stored bits, at 1024 tile + 32 row + column (R194). -/
  acc : Sparse Word := []
  /-- Saved step of each tile (R214), and values set while a sequencer holds it (R215). -/
  saveq : Sparse Nat := []
  setq : Sparse Nat := []
  seqs : List Sequencer := []
  /-- Uncorrectable words of the operand buffer and uncorrectable accumulator columns, by number (R195). -/
  obBad : List Nat := []
  accBad : List Nat := []
  gathers : List Gather := []
  chans : List Channel := []
  rdvs : List Rendezvous := []
  /-- Stall-reason counters (R408). -/
  stall : Sparse DWord := []
  pinned : Bool := false
  undrained : Bool := false
  frozen : Bool := false
  /-- Set by a run of the group that issued in this cycle (R408). -/
  issued : Bool := false
  /-- Exit cause and code (R410), and the fetch fault of a kill (R216). -/
  exit : Option (Nat × Word) := none
  killAt : Option DWord := none
  /-- Start of the drain of a save (R360). -/
  drain : Option DWord := none
  stalled : Bool := false
  /-- Ended while it was descheduled: it holds nothing of a core (R355, R380). -/
  gone : Bool := false
  /-- The frame that holds its context record while it is descheduled (R356). -/
  frame : Option Nat := none
  /-- Descheduled by the tick budget of a region; to be resumed once a core fits (R112, R359). -/
  overBudget : Bool := false
  resume : Bool := false
  /-- A supervisor edit of its region waits for its next run boundary (R113). -/
  stale : Bool := false
  fibres : List Fibre := []
  deriving DecidableEq, Repr

/-- A run in progress on a core (R62, R64): the bundle (its group, and the fibres by fid), its first
packet, the packet and place of the next word, and the words counted so far. -/
structure Run where
  grp : Nat
  fids : List Nat
  start : DWord
  pkt : DWord
  idx : Nat := 0
  count : Nat := 0
  /-- Microprogram slot and base when the run is inside the control store (R80). -/
  mc : Option (Nat × Nat) := none
  /-- Whether the next word is chained to the word before it (R55). -/
  chained : Bool := false
  /-- Registers that the run's TRAIL names (R65), read before the run issued (R68). -/
  named : List Nat := []
  /-- The model's own: OBFREE of the group before the chain group issued (R56, R160). -/
  obFree : Nat := 0
  /-- Whether its group had issued in this cycle before the chain group was opened (R408). -/
  hadIssued : Bool := false
  /-- Whether the run-ending word has been issued, and whether it was a YIELD with its strength. -/
  yielded : Option Nat := none
  deriving DecidableEq, Repr

/-- What the picker remembers of the last bundle (R123, R125), with the tick its run ended at, and of its fibres those
that have entered a handler after the run, with the handler's packet (R422). -/
structure LastRun where
  grp : Nat
  team : Nat
  pc : DWord
  fids : List Nat
  sticky : Bool
  setBack : Bool
  prefer : Bool
  since : DWord := 0
  entered : List Nat := []
  hpc : DWord := 0
  deriving DecidableEq, Repr

/-- An entry of a vertical FIFO (R374). -/
structure FifoEntry where
  key : BitVec 16
  mask : BitVec 32
  lanes : Sparse Word
  deriving DecidableEq, Repr

/-- A power gate (R380). -/
inductive Gate where
  | opened | pending | closed
  deriving DecidableEq, Repr

/-- A trace record before it is laid out in 32 bytes (R406). -/
structure TraceRecord where
  tick : DWord
  core : Nat
  seq : BitVec 16
  kind : Nat
  slot : Nat
  fid : Nat
  mask : BitVec 32
  payload : BitVec 96
  deriving DecidableEq, Repr

/-- A core's trace unit (R405, R407). -/
structure Trace where
  cfg : TraceConfig := { on := false, ring := 0, lgRecords := 8, lossless := false, kinds := 0, vf := none }
  buf : List TraceRecord := []
  seq : BitVec 16 := 0
  head : Nat := 0
  tail : Nat := 0
  drops : DWord := 0
  dropRun : DWord := 0
  perturb : DWord := 0
  /-- The model's own: records of a lossless trace that came about while the buffer was full, in order (R405). -/
  late : List TraceRecord := []
  deriving DecidableEq, Repr

/-- A core (R2, R374, R380, R399, R405). An unlisted core rests. -/
structure Core where
  id : Nat
  run : Option Run := none
  last : Option LastRun := none
  /-- Tick of the last issue cycle (R55). -/
  issueAt : Option DWord := none
  /-- The outgoing FIFO and the spill area of the incoming one (R374, R382). -/
  fifo : List FifoEntry := []
  spill : List FifoEntry := []
  gate : Gate := .opened
  force : Bool := false
  watch : Sparse Comparator := []
  trace : Trace := {}
  /-- Corrected errors of its operand and B buffers and accumulators (R195). -/
  corrected : DWord := 0
  deriving DecidableEq, Repr

/-- A placement level of R219, and memory beyond the home L2. -/
inductive Level where
  | l1 (core : Nat)
  | ck (cluster : Nat)
  | l2 (stack : Nat)
  | home
  | hbm
  deriving DecidableEq, Repr

/-- A line with a declared reader set (R217): unlisted lines are home with the sticky bit clear. -/
structure LineState where
  line : Nat
  readers : List Nat
  sticky : Bool
  level : Level
  /-- The partition that placed it (R229). -/
  part : Nat
  deriving DecidableEq, Repr

/-- A cache's copy of a line (R324): which sectors it holds, its bytes, the bytes not yet performed further
out, and the sectors it owns exclusively (R325, R328). A sector's state is I, S, E or M by these. -/
structure Copy where
  unit : CacheId
  line : Nat
  sectors : BitVec 4
  data : BitVec 2048
  dirty : BitVec 256
  excl : BitVec 4 := 0
  /-- The partition whose access made the copy: an L2 copy lies in a slice of that partition (R362). -/
  part : Nat := 0
  deriving DecidableEq, Repr

/-- A core's fetched copy of a line of instructions (R334, R240). -/
structure FetchCopy where
  core : Nat
  line : Nat
  data : BitVec 2048
  deriving DecidableEq, Repr

/-- An eviction notice on its way to the parent directory (R329). -/
structure Notice where
  child : CacheId
  seq : Nat
  line : Nat
  data : BitVec 2048
  dirty : BitVec 256
  part : Nat := 0
  deriving DecidableEq, Repr

/-- Where a forced publish stands (R322, R323): sent to its holder, performed, or past the drain deadline. -/
inductive PublishStage where
  | sent | performed | late
  deriving DecidableEq, Repr

/-- A forced publish that a core's read of a line has made a holder owe (R322, R323), with the tick it was
sent at. -/
structure Publish where
  reader : Nat
  holder : CacheId
  line : Nat
  since : DWord
  stage : PublishStage := .sent
  deriving DecidableEq, Repr

/-- Who makes an access that is translated (R340): a fibre, a channel or another engine of a group (a gather, a
tile sequencer, the loads of a B slot, by its number), or the control die for a virtual function. -/
inductive Requester where
  | fibre (grp fid : Nat)
  | channel (grp n : Nat)
  | gather (grp id : Nat)
  | function (vf : Nat)
  deriving DecidableEq, Repr

/-- A translation held by a core's TLB, or by a stack's translation cache (R338). -/
structure TlbEntry where
  /-- The core of a TLB entry; none for an entry of the stack's translation cache. -/
  core : Option Nat
  stack : Nat
  vf : Nat
  /-- First page, and pages mapped, of the leaf (R335). -/
  page : Nat
  pages : Nat
  entry : DWord
  deriving DecidableEq, Repr

/-- A walk asked for (R338, R339): the stacks that wait for it, who asked first, and whether it holds one of
the walker pool's slots. -/
structure Walk where
  askers : List Nat
  part : Nat
  vf : Nat
  page : Nat
  write : Bool
  by_ : Requester
  started : Bool := false
  deriving DecidableEq, Repr

/-- A fault record (R340), with its first requester. One that is not open is the result of a walk that
failed at a tick, for its requesters to find. -/
structure FaultRecord where
  part : Nat
  vf : Nat
  page : Nat
  cause : Nat
  by_ : Requester
  tick : DWord := 0
  opened : Bool := false
  /-- Of a failed walk that found a malformed leaf, the leaf (R337). -/
  leaf : Option DWord := none
  deriving DecidableEq, Repr

/-- An INVALIDATE whose accesses are not all performed and acknowledged (R341). -/
structure Invalidation where
  part : Nat
  vf : Nat
  lo : Nat
  hi : Nat
  /-- Stores of fibres (group, fibre, number) and requests to peers that it still waits for. -/
  owed : List (Nat × Nat × Nat) := []
  peers : List Nat := []
  /-- Of a remap's switch: the first old frame and the frames, returned at its end (R333). -/
  frames : Option (Nat × Nat) := none
  deriving DecidableEq, Repr

/-- A dual-home window (R333): the leaf's first page and pages, and its old and new entry. -/
structure Remap where
  part : Nat
  vf : Nat
  page : Nat
  pages : Nat := 1
  old : DWord
  new : DWord
  deriving DecidableEq, Repr

/-- A watch, freeze or event record that the control die writes to the partition's supervisor, and
the status of a supervisor command (R351, R352, R368, R384). -/
inductive Report where
  | trap (grp fid : Nat) (vf : Nat) (t : Trap)
  /-- A supervisor call: the fibre, the code and the first of the eight registers it names (R349). -/
  | call (grp fid vf code reg : Nat)
  /-- A translation fault of a requester that no trap reports (R288, R337, R340). -/
  | fault (by_ : Requester) (vf page cause : Nat)
  | uncorrectable (addr : Nat)
  | status (refused : Bool)
  | context (bytes : List Byte)
  | counters (tick : DWord) (values : List DWord)
  /-- Violation and event records carry the tick of what they record (R368, R384, R385, R398). -/
  | violation (tick : DWord) (m : Master)
  | clock (tick : DWord) (steps : Nat)
  | emergency (tick : DWord) (stack : Nat)
  | budget (region : Nat)
  /-- A kill that no relaunch follows, to the region's fault domain: its block (R216). -/
  | killed (grp domain : Nat) (va : DWord)
  | publish (line : Nat)
  /-- The old frame of a remapped page, returned (R333). -/
  | returned (frame : Nat)
  /-- An error in a core's operand buffer, B buffer or accumulators, and whether it was corrected (R195). -/
  | operandError (core : Nat) (corrected : Bool)
  | dropped (request : Nat)
  /-- An incoming peer request outside every export window (R367, R393). -/
  | outside (window : Nat) (addr : DWord)
  | husk (image : List Byte)
  | frozen (result : Nat)
  deriving DecidableEq, Repr

/-- A bound control-store slot (R76, R77): its words and the images that bind it. -/
structure StoreSlot where
  slot : Nat
  words : List Word
  images : List Nat
  /-- The image, as R19 lays it out, that a CSLD has filled the slot from (R82, R397). -/
  loaded : Option (List Byte) := none
  deriving DecidableEq, Repr

/-- A freeze that is pending or in force (R411, R412). -/
structure Freeze where
  tick : DWord
  inForce : Bool := false
  deriving DecidableEq, Repr

/-- A peer aperture or export window of a configuration record (R393). -/
structure Window where
  base : Nat
  size : Nat
  vf : Nat
  ports : Nat
  device : Nat
  deriving DecidableEq, Repr

/-- The partition default of a root region's fields (R111). -/
structure RegionDefaults where
  fdom : DWord := 0
  handler : DWord := 0
  share : DWord := 0
  tickbud : DWord := 0
  spbud : Nat := 2 ^ 32 - 1
  obbud : Nat := 2 ^ 32 - 1
  cores : Nat := 1024
  chans : Nat := 65535
  escal : Nat := 16
  prio : Nat := 0
  flags : Nat := 1
  fair : Nat := 2048
  deriving DecidableEq, Repr

/-- A partition (R362). -/
structure Partition where
  id : Nat
  clusters : List Nat := []
  /-- L2 slices, 16 to a stack, pseudo-channels, 32 to an HBM stack, and fabric lanes, 8 to a port. -/
  slices : List Nat := []
  channels : List Nat := []
  lanes : List Nat := []
  defaults : RegionDefaults := {}
  unsigned : Bool := false
  keys : List (List Byte) := []
  cap : Nat := 0
  /-- Arithmetic clock in steps of 112.5 MHz, 8 to 16, and its phase (R384). -/
  clock : Nat := 16
  phase : Nat := 0
  apertures : List Window := []
  exports : List Window := []
  /-- PLC1 PLCK PLCS PLCH DEMO LCFT LCRS LCAD RSRV SECC SEUC, numbered from 0 (R244). -/
  counters : Sparse DWord := []
  /-- Stores to peers dropped unanswered (R394). -/
  dropped : DWord := 0
  freeze : Option Freeze := none
  reports : List Report := []
  store : List StoreSlot := []
  /-- The region blocks of the partition (R111, R352). -/
  regions : List Nat := []
  deriving DecidableEq, Repr

/-- A command entry fetched from a host queue and not finished (R389). -/
structure Command where
  pos : Nat
  cmd : Nat
  fence : Bool
  tag : DWord
  arg : DWord
  body : BitVec 512
  reserved : Bool
  started : Bool := false
  deriving DecidableEq, Repr

/-- A host queue's register block and the commands fetched (R387, R388). -/
structure HostQueue where
  q : Nat
  head : BitVec 32 := 0
  tail : BitVec 32 := 0
  cbase : DWord := 0
  base : DWord := 0
  vector : Nat := 0
  lgn : Nat := 4
  enabled : Bool := false
  refusedBell : Bool := false
  cmds : List Command := []
  deriving DecidableEq, Repr

/-- A registered graph queue (R132 to R134): states of its records by sequence number (1 claimed or
consumed), their append ticks, and the image a successor launch takes. -/
structure GraphQueue where
  vf : Nat
  desc : DWord
  image : Nat
  closed : Bool := false
  taken : Sparse Nat := []
  appended : Sparse DWord := []
  deriving DecidableEq, Repr

/-- A virtual function (R365). -/
structure VirtualFunction where
  id : Nat
  part : Option Nat := none
  tableRoot : DWord := 0
  root : Nat := 0
  queues : List HostQueue := []
  graphs : List GraphQueue := []
  /-- Exit ring: base, records, next (R410). -/
  exitRing : Option (Nat × Nat × Nat) := none
  frozen : Bool := false
  deriving DecidableEq, Repr

/-- A loaded image (R30, R389). -/
structure Image where
  handle : Nat
  vf : Nat
  /-- Per section-table entry: type, address (0 when not loadable) and size. -/
  sections : List (Nat × Nat × Nat)
  kernels : List Kernel
  unloading : Bool := false
  /-- Its control-store image as R19 lays it out (R397). -/
  store : List Byte := []
  deriving DecidableEq, Repr

/-- A launch (R114): groups not placed yet per stack, as ranges of linear indices, and how its groups
ended (R390, R216). -/
structure Launch where
  id : Nat
  part : Nat
  vf : Nat
  image : Nat
  khdr : Nat
  kern : Kernel
  gridx : Nat
  gridy : Nat
  args : Sparse Word
  region : Nat
  /-- Stack, next index, end index. -/
  ranges : List (Nat × Nat × Nat)
  /-- Indices to be placed again, with their stack (R216). -/
  again : List (Nat × Nat) := []
  ended : Nat := 0
  total : Nat
  code : Option (Nat × Word) := none
  killed : Bool := false
  kills : Sparse Nat := []
  /-- Queue and position of the launch command; the graph queue and records of a successor. -/
  origin : Option (Nat × Nat × DWord) := none
  claim : Option (DWord × Nat × Nat) := none
  deriving DecidableEq, Repr

/-- What a stack is doing (R371, R395). -/
inductive StackState where
  | released | held
  /-- Its groups have ended, and the supervisor moves what must survive (R371 steps 1 and 2). -/
  | emptied
  | draining (deadline : DWord)
  | resetting
  deriving DecidableEq, Repr

/-- An access of the host or a peer that is still to be performed (R340, R372): where it is held, and whether it was
refused. -/
structure Packet where
  id : Nat
  stack : Nat
  part : Nat
  /-- The physical address, or the virtual one of a peer's request. -/
  addr : Nat
  op : MemOp
  sender : Nat
  seq : Nat
  refused : Bool := false
  /-- Of a peer's request, the virtual function and the stack that its address is translated through each time it is
  tried (R333, R338, R393). -/
  through : Option (Nat × Nat) := none
  /-- The page whose translation fault it waits for (R340). -/
  stuck : Option Nat := none
  deriving DecidableEq, Repr

/-- A partition as a partition map states it (R362, R396). -/
structure MapEntry where
  id : Nat
  clusters : List Nat
  slices : List Nat
  channels : List Nat
  lanes : List Nat
  defaults : RegionDefaults := {}
  deriving DecidableEq, Repr

/-- What the firmware reads from a configuration record's body, by the record's kind; the spec gives the
bodies no layout (R396). -/
inductive ConfigBody where
  | keys (ids : List (List Byte))
  | map (parts : List MapEntry)
  | policy (unsigned : Bool) (keys : List (List Byte))
  /-- A partition's cap, and temperatures: stack, warning and emergency. -/
  | power (cap : Option Nat) (temps : List (Nat × Nat × Nat))
  | windows (apertures exports : List Window)
  | version (least : Nat)
  deriving DecidableEq, Repr

end Sys2Proof.Machine

namespace Sys2Proof.Config

/-- The bytes of a configuration record's body, which R396 gives no layout (log entry 107). -/
opaque recordBytes : Machine.ConfigBody → List Byte

end Sys2Proof.Config

namespace Sys2Proof.Machine

/-- A configuration record in flash (R396). -/
structure ConfigRecord where
  kind : Nat
  part : Nat
  seq : Nat
  bytes : List Byte
  body : ConfigBody
  keyId : List Byte
  signature : List Byte
  deriving DecidableEq, Repr

/-- A recovery image of the firmware: its version, its bytes, its signature by the root key (R395). -/
structure RecoveryImage where
  version : Nat
  bytes : List Byte
  signature : List Byte
  deriving DecidableEq, Repr

/-- What an access of the host or a peer, or a read of a queue's status, returns (R332, R387, R393): its
sender and number, its value, and whether it failed. -/
structure Answer where
  sender : Nat
  seq : Nat
  value : DWord × DWord := (0, 0)
  failed : Bool := false
  deriving DecidableEq, Repr

/-- An outstanding request to a peer (R394). -/
structure PeerWait where
  id : Nat
  part : Nat
  grp : Nat
  fid : Nat
  va : DWord := 0
  start : DWord
  store : Bool
  /-- The ports of its aperture, as a mask (R393). -/
  ports : Nat := 0
  /-- The channel whose record sent it; none for a word of a fibre. -/
  chan : Option Nat := none
  deriving DecidableEq, Repr

/-- One entry of the agenda, the model's own: a step of the table that comes next, or the core that
issues the next word. -/
inductive Act where
  | event (i : Instr)
  | issue (core : Nat)
  deriving DecidableEq, Repr

/-- The machine. -/
structure State where
  /-- The global tick (R3, R84). -/
  tick : DWord := 0
  /-- Core dies whose own copy of the tick stands one ahead of it (R84). Which dies, and how a copy drifts, the
  spec does not say; no step changes it (DESIGN CHOICE, log entry 125). -/
  ahead : List Nat := []
  /-- The model's own: which steps come next; when empty, the step picks by its fixed order. -/
  agenda : List Act := []
  /-- The model's own: the acts that the step has picked by itself on this tick; it picks each at most once a
  tick. -/
  did : List Instr := []
  /-- The model's own: how far the order of acts within the tick has come. -/
  turn : List Nat := []
  /-- The model's own: the core whose word is issuing. -/
  cur : Nat := 0
  /-- The model's own: the number of free values drawn so far. -/
  fresh : Nat := 0
  /-- The model's own: the next group, image, launch and gather number. -/
  serial : Nat := 1
  /-- The byte at the home of every physical address, cluster columns and whey included; caches may hold a newer
  one. -/
  mem : Memory := []
  /-- Column lines whose full bit is set, by pool line number (R253). -/
  full : Sparse Unit := []
  /-- The model's own: the widest scope of the records whose targets have fired at a column place, by firedBar or
  firedLine, since its barrier was initialised or its line last consumed (R293). -/
  fired : Sparse Nat := []
  /-- Soft errors by 32-byte word (R241): the bad bits, and above them the bytes written since. -/
  errors : Sparse (BitVec 288) := []
  lines : List LineState := []
  copies : List Copy := []
  fetched : List FetchCopy := []
  notices : List Notice := []
  /-- Notices sent so far by each child (R329). -/
  sent : List (CacheId × Nat) := []
  tlb : List TlbEntry := []
  walks : List Walk := []
  /-- The partition that the walker pool served last (R339). -/
  walkTurn : Nat := 0
  faults : List FaultRecord := []
  remaps : List Remap := []
  invalidations : List Invalidation := []
  publishes : List Publish := []
  /-- What a page-table entry says of its frames, protection and bias: first frame, frames, the entry (R241, R332). A
  frame of no entry is strong and of device bias. -/
  attrs : List (Nat × Nat × DWord) := []
  /-- Protection attributes of 64 KiB ranges of column, by number; strong when unlisted (R249). -/
  padAttrs : Sparse Nat := []
  scrubbing : List Nat := []
  /-- Frames being scrubbed that a write waits for, with the tick since when (R370). -/
  heldWrites : Sparse DWord := []
  stackStates : Sparse StackState := []
  /-- The model's own: commands of supervisors that wait for a stack under reset, to be retried (R373). -/
  retries : List Instr := []
  /-- Resident ticks by region block, not charged yet since the block's home is being reset (R110, R373). -/
  owedTicks : Sparse Nat := []
  packets : List Packet := []
  /-- The last atomic of each sender that the homes on a stack answered, with its old value, at 8 times the sender
  plus the stack (R309). -/
  answered : Sparse (Nat × DWord) := []
  /-- What has been returned to the host and the peers, in order. -/
  answers : List Answer := []
  flash : List ConfigRecord := []
  /-- The configuration records that stand since bring-up (R396). -/
  standing : List ConfigRecord := []
  /-- Warning and emergency temperatures by stack; an unlisted stack has 95 and 105 (R385). -/
  warning : Sparse Nat := []
  emergency : Sparse Nat := []
  /-- The firmware copy that runs (R395): none, 0 main, 1 alternate, 2 the recovery image. -/
  firmware : Option Nat := none
  /-- The recovery image that physical function 0 has been given, for the boot ROM to accept when both flash copies
  fail (R395, log entry 12). -/
  recovery : Option RecoveryImage := none
  /-- The boot, configuration and refusal log of the control die (R395, R396). -/
  log : List Nat := []
  parts : List Partition := []
  vfs : List VirtualFunction := []
  images : List Image := []
  launches : List Launch := []
  groups : List Group := []
  cores : List Core := []
  freeze : Option Freeze := none
  /-- Energy counters by partition and stack (R384). -/
  energy : Sparse DWord := []
  /-- Energy of the last window (R385). -/
  window : Sparse Nat := []
  hot : List Nat := []
  ports : Sparse Nat := []
  modules : Sparse Nat := []
  peers : List PeerWait := []
  /-- MSI-X vectors signalled: virtual function and vector (R390). -/
  msix : List (Nat × Nat) := []
  /-- Measurement records and device Husks returned to physical function 0 (R397, R413). -/
  toPf0 : List (List Byte) := []
  deriving DecidableEq, Repr

/-- Why the machine stops with no next state. -/
inductive Fault where
  /-- Raised by GLOBAL_TICK alone: the tick would pass 2^64 - 1, of which the spec says only that it does not
  wrap within the part's service life (R84). Safe: nothing is claimed of a machine that old. -/
  | tickExhausted
  deriving DecidableEq, Repr

/-- Why a step has no meaning. -/
inductive Refusal where
  /-- Raised by exec for an instruction that is not modelled yet. Safe: nothing is claimed of it. -/
  | notModelled (mnemonic : String)
  deriving DecidableEq, Repr

/-- The package right after reset (R84, R395): tick 0, all memory scrubbed to zero, nothing loaded,
and no configuration record in flash (log entry 5), so no partition. -/
def State.reset : State := {}

end Sys2Proof.Machine
end

