-- ==== Sys2Proof/Machine/Sparse.lean ====
section
/-!
DEFINITION. Reading and writing sparse lists and bytes of memory. A write keeps the canonical form:
indices strictly rising, no entry equal to the resting value.
-/

namespace Sys2Proof.Machine

/-- The value at an index; an unlisted index reads as the resting value d. -/
def sget {α : Type} (d : α) : Sparse α → Nat → α
  | [], _ => d
  | (i, v) :: m, k => if i = k then v else sget d m k

/-- A list without the entries of an index. -/
def sdel {α : Type} (k : Nat) : Sparse α → Sparse α
  | [] => []
  | (i, v) :: m => if i = k then sdel k m else (i, v) :: sdel k m

/-- An entry put before the first larger index. -/
def sins {α : Type} (k : Nat) (v : α) : Sparse α → Sparse α
  | [] => [(k, v)]
  | (i, w) :: m => if k < i then (k, v) :: (i, w) :: m else (i, w) :: sins k v m

/-- A list with a new value at an index. -/
def sset {α : Type} [DecidableEq α] (d : α) (m : Sparse α) (k : Nat) (v : α) : Sparse α :=
  if v = d then sdel k m else sins k v (sdel k m)

/-- The canonical form: strictly rising indices, no resting value. -/
def swf {α : Type} [DecidableEq α] (d : α) : Sparse α → Bool
  | [] => true
  | (i, v) :: m =>
    v ≠ d && (match m with | [] => true | (j, _) :: _ => decide (i < j)) && swf d m

/-- What an unlisted byte of memory reads as: bring-up scrubs all memory to zero (R395). -/
def restingByte : Byte := 0

/-- One byte of memory. -/
def mread (m : Memory) (a : Nat) : Byte := sget restingByte m a

/-- Memory with one byte changed. -/
def mwrite (m : Memory) (a : Nat) (v : Byte) : Memory := sset restingByte m a v

/-- The canonical form of memory. -/
def Memory.wf (m : Memory) : Bool := swf restingByte m

/-- n bytes from an address as a little-endian number (R5). -/
def mle (m : Memory) (a : Nat) : Nat → Nat
  | 0 => 0
  | n + 1 => (mread m a).toNat + 256 * mle m (a + 1) n

/-- Memory with the n low bytes of a number written little-endian from an address (R5). -/
def mwle (m : Memory) (a v : Nat) : Nat → Memory
  | 0 => m
  | n + 1 => mwle (mwrite m a (BitVec.ofNat 8 v)) (a + 1) (v / 256) n

/-- Memory with n bytes from an address set to zero. -/
def mzero (m : Memory) (a n : Nat) : Memory :=
  m.filter fun c => !(a ≤ c.1 && c.1 < a + n)

/-- Memory with a list of bytes written from an address. -/
def mwb (m : Memory) (a : Nat) : List Byte → Memory
  | [] => m
  | b :: bs => mwb (mwrite m a b) (a + 1) bs

/-- A list of n bytes from an address. -/
def mrb (m : Memory) (a : Nat) : Nat → List Byte
  | 0 => []
  | n + 1 => mread m a :: mrb m (a + 1) n

/-- Bits lo to lo + w - 1 of a number. -/
def bits (v lo w : Nat) : Nat := v / 2 ^ lo % 2 ^ w

/-- The first item that meets a test changed, or a new one made from the resting item appended. -/
def upsert {α : Type} (p : α → Bool) (d : α) (u : α → α) : List α → List α
  | [] => [u d]
  | x :: xs => if p x then u x :: xs else x :: upsert p d u xs

/-- Every item that meets a test changed. -/
def change {α : Type} (p : α → Bool) (u : α → α) (l : List α) : List α :=
  l.map fun x => if p x then u x else x

end Sys2Proof.Machine
end

