-- ==== Sys2Proof/Machine/Ops.lean ====
section
/-!
DEFINITION. Named operations over the state: the package's topology (R2), lookup and change of its
parts, regions (R110, R111), the trace unit (R405 to R407), results landing (R66 to R69), taking a
trap and returning from one (R345, R350, R351), the end of a fibre and of a group (R129, R131).
-/

namespace Sys2Proof.Machine

/-! ## Topology -/

/-- The core die of a core: a stack has two (R2). -/
def dieOf (core : Nat) : Nat := core / 64
/-- The stack of a core (R2). -/
def stackOf (core : Nat) : Nat := core / 128
/-- The cluster of a core (R2). -/
def clusterOf (core : Nat) : Nat := core / 128 * 16 + core % 64 / 8 / 2 * 4 + core % 8 / 2
/-- A core's index within its cluster (R2). -/
def indexOf (core : Nat) : Nat := core / 64 % 2 * 4 + core % 64 / 8 % 2 * 2 + core % 8 % 2
/-- The core of a cluster with a given index (R2). -/
def coreAt (cluster index : Nat) : Nat :=
  cluster / 16 * 128 + index / 4 * 64 + (cluster % 16 / 4 * 2 + index / 2 % 2) * 8 +
    (cluster % 4 * 2 + index % 2)
/-- The other core of a core pair (R374). -/
def partnerOf (core : Nat) : Nat := if core / 64 % 2 = 0 then core + 64 else core - 64
/-- The cores of a cluster, by index. -/
def clusterCores (cluster : Nat) : List Nat := (List.range 8).map (coreAt cluster)

/-- Where a cluster's column pool lies among the physical addresses of the model. -/
def poolBase (cluster : Nat) : Nat := 2 ^ 50 + cluster * 2 ^ 24
/-- Where the whey of a frame lies among the physical addresses of the model (R243). -/
def wheyBase (frame : Nat) : Nat := 2 ^ 52 + frame * 8192
/-- Bytes of a page (R335). -/
def pageBytes : Nat := 65536
/-- The stack that homes a physical address: half its HBM stack, stack 0 for host memory (R331). Whey
lies with its frame, a column with its cluster. -/
def homeStack (pa : Nat) : Nat :=
  if 2 ^ 52 ≤ pa then (pa - 2 ^ 52) / 8192 / 2 ^ 21 % 16 / 2
  else if 2 ^ 50 ≤ pa then (pa - 2 ^ 50) / 2 ^ 24 / 16
  else if pa / 2 ^ 49 % 2 = 1 then 0 else pa / 2 ^ 37 % 16 / 2

/-! ## Lookup and change -/

def State.group? (s : State) (g : Nat) : Option Group := s.groups.find? (·.gid == g)
def State.part? (s : State) (p : Nat) : Option Partition := s.parts.find? (·.id == p)
def State.vf? (s : State) (v : Nat) : Option VirtualFunction := s.vfs.find? (·.id == v)
def State.launch? (s : State) (l : Nat) : Option Launch := s.launches.find? (·.id == l)
def State.image? (s : State) (h : Nat) : Option Image := s.images.find? (·.handle == h)
def State.core (s : State) (c : Nat) : Core := (s.cores.find? (·.id == c)).getD { id := c }
def Group.fibre? (g : Group) (f : Nat) : Option Fibre := g.fibres.find? (·.fid == f)
def Group.fibre (g : Group) (f : Nat) : Fibre := (g.fibre? f).getD { fid := f }
def Group.chan? (g : Group) (n : Nat) : Option Channel := g.chans.find? (·.n == n)
def State.fibre? (s : State) (g f : Nat) : Option Fibre := (s.group? g).bind (·.fibre? f)

def State.modGroup (s : State) (g : Nat) (u : Group → Group) : State :=
  { s with groups := change (·.gid == g) u s.groups }
def State.modPart (s : State) (p : Nat) (u : Partition → Partition) : State :=
  { s with parts := change (·.id == p) u s.parts }
def State.modVf (s : State) (v : Nat) (u : VirtualFunction → VirtualFunction) : State :=
  { s with vfs := change (·.id == v) u s.vfs }
def State.modLaunch (s : State) (l : Nat) (u : Launch → Launch) : State :=
  { s with launches := change (·.id == l) u s.launches }
def State.modCore (s : State) (c : Nat) (u : Core → Core) : State :=
  { s with cores := upsert (·.id == c) { id := c } u s.cores }
def Group.modFibre (g : Group) (f : Nat) (u : Fibre → Fibre) : Group :=
  { g with fibres := upsert (·.fid == f) { fid := f } u g.fibres }
def State.modFibre (s : State) (g f : Nat) (u : Fibre → Fibre) : State :=
  s.modGroup g fun gr => gr.modFibre f u
def Group.modChan (g : Group) (n : Nat) (u : Channel → Channel) : Group :=
  { g with chans := change (·.n == n) u g.chans }
def State.modChan (s : State) (g n : Nat) (u : Channel → Channel) : State :=
  s.modGroup g fun gr => gr.modChan n u

/-- Every listed fibre of a group whose number is in a list changed. -/
def State.modFibres (s : State) (g : Nat) (fids : List Nat) (u : Fibre → Fibre) : State :=
  s.modGroup g fun gr => { gr with fibres := change (fun fb => fids.contains fb.fid) u gr.fibres }

/-- The tick as a core reads it, from the copy of its die (R84). -/
def State.tickAt (s : State) (core : Nat) : DWord := if s.ahead.contains (dieOf core) then s.tick + 1 else s.tick

/-- The next free value (log entry 3). -/
def State.draw (s : State) : BitVec 64 × State :=
  (Config.freeValue s.fresh, { s with fresh := s.fresh + 1 })

/-- A report to a partition's supervisor. -/
def State.report (s : State) (p : Nat) (r : Report) : State :=
  s.modPart p fun q => { q with reports := q.reports ++ [r] }

/-- The status of a supervisor's command (R352). -/
def State.status (s : State) (part : Nat) (refused : Bool) : State := s.report part (.status refused)

/-- The counters of R244. -/
inductive Counter where
  | plc1 | plck | plcs | plch | demo | lcft | lcrs | lcad | rsrv | secc | seuc
  deriving DecidableEq, Repr

def Counter.index : Counter → Nat
  | .plc1 => 0 | .plck => 1 | .plcs => 2 | .plch => 3 | .demo => 4 | .lcft => 5 | .lcrs => 6
  | .lcad => 7 | .rsrv => 8 | .secc => 9 | .seuc => 10

/-- A partition counter advanced by n (R244). -/
def State.count (s : State) (p : Nat) (c : Counter) (n : Nat := 1) : State :=
  s.modPart p fun q =>
    { q with counters := sset 0 q.counters c.index (sget 0 q.counters c.index + BitVec.ofNat 64 n) }

/-- The member index of a fibre in its team (R119). -/
def memberOf (fid : Nat) : Nat := fid % 32

/-- The member mask of a bundle (R47 bmk). -/
def maskOf (fids : List Nat) : BitVec 32 :=
  fids.foldl (fun m f => m ||| (1#32 <<< memberOf f)) 0

/-- The core a fibre of a group issues on: its landing core when away, else the group's core. -/
def Fibre.onCore (g : Group) (fb : Fibre) : Nat :=
  match fb.place with
  | .landed c => c
  | _ => g.core

/-- Tiles of a group (R194). -/
def Group.tiles (g : Group) : Nat := g.kern.acc32 + g.kern.acc16
/-- B slots, and accumulator units, of a group (R194). -/
def Group.units (g : Group) : Nat := 2 * g.kern.acc32 + g.kern.acc16
/-- The barrier area of a group's window (R13). -/
def Group.barriers (g : Group) : Nat := g.spb + g.kern.spbytes
/-- Slots of a group (R119). -/
def Group.slots (g : Group) : Nat := g.kern.teams * 32

/-- Whether a stack takes groups: it has been released and is not being reset (R371, R395). -/
def State.stackUp (s : State) (st : Nat) : Bool := sget .released s.stackStates st == .released

/-- Whether the stack that homes an address serves requests (R373). -/
def State.homeUp (s : State) (pa : Nat) : Bool :=
  match sget .released s.stackStates (homeStack pa) with
  | .draining _ => false
  | .resetting => false
  | _ => true

/-! ## Regions -/

/-- A field of a region control block: n bytes at an offset (R110). -/
def State.regionField (s : State) (block off n : Nat) : Nat := mle s.mem (block + off) n

/-- A region's field in effect (R111): the parent's while its ovr bit is clear, the partition's
default at a root, else own combined with the parent's. -/
def State.inEffect (s : State) (bit dflt : Nat) (own : Nat → Nat) (join : Nat → Nat → Nat) :
    Nat → Nat → Nat
  | 0, _ => dflt
  | fuel + 1, block =>
    let parent := s.regionField block 0 8
    let set := (s.regionField block 60 4).testBit bit
    if parent = 0 then (if set then own block else dflt)
    else
      let p := s.inEffect bit dflt own join fuel parent
      if set then join (own block) p else p

/-- Levels of a region tree (R111). -/
def regionDepth : Nat := 8

/-- The partition defaults of a group's virtual function (R111). -/
def State.defaultsOf (s : State) (p : Nat) : RegionDefaults :=
  ((s.part? p).map (·.defaults)).getD {}

/-- A plain field in effect: the block's own value when its ovr bit is set. -/
def State.plainField (s : State) (bit dflt off n block : Nat) : Nat :=
  s.inEffect bit dflt (fun b => s.regionField b off n) (fun o _ => o) regionDepth block

/-- A budget in effect: the smaller of the block's own and the parent's (R111). -/
def State.budgetField (s : State) (bit dflt off n block : Nat) : Nat :=
  s.inEffect bit dflt (fun b => s.regionField b off n) min regionDepth block

/-- The resident-tick budget in effect, where 0 means none (R111). -/
def State.tickBudget (s : State) (p block : Nat) : Nat :=
  s.inEffect 2 (s.defaultsOf p).tickbud.toNat (fun b => s.regionField b 32 8)
    (fun o q => if o = 0 then q else if q = 0 then o else min o q) regionDepth block

/-- The control-store share in effect, the AND along the tree (R76, R111). -/
def State.shareOf (s : State) (p block : Nat) : Nat :=
  s.inEffect 1 (s.defaultsOf p).share.toNat (fun b => s.regionField b 24 8) (· &&& ·)
    regionDepth block

/-- One flag bit of a region in effect: promise (0), resolve (1), relaunch (2) (R110). -/
def State.regionFlag (s : State) (p block k : Nat) : Bool :=
  (s.inEffect (9 + k) (bits (s.defaultsOf p).flags k 1) (fun b => bits (s.regionField b 55 1) k 1)
    (fun o _ => o) regionDepth block) = 1

/-- The fields a group takes from its region (R113), zero meaning the stated default (R110). -/
def State.policyOf (s : State) (p block : Nat) : Policy :=
  let d := s.defaultsOf p
  let fair := s.plainField 12 d.fair 56 4 block
  let escal := s.plainField 7 d.escal 52 2 block
  { prio := s.plainField 8 d.prio 54 1 block % 16
    promise := s.regionFlag p block 0
    fair := if fair = 0 then 2048 else fair
    escal := if escal = 0 then 16 else escal
    resolve := s.regionFlag p block 1
    relaunch := s.regionFlag p block 2
    privileged := (s.regionField block 55 1).testBit 3 }

/-- The fault-domain region of a region (R111). -/
def State.faultDomain (s : State) (p block : Nat) : Nat :=
  let f := s.plainField 0 (s.defaultsOf p).fdom.toNat 8 8 block
  if f = 0 then block else f

/-- The handler in effect for a region's fault domain (R111, R345). -/
def State.handlerOf (s : State) (p block : Nat) : Nat :=
  s.plainField 0 (s.defaultsOf p).handler.toNat 16 8 (s.faultDomain p block)

/-- The blocks of a region and its ancestors. -/
def State.ancestors (s : State) : Nat → Nat → List Nat
  | 0, _ => []
  | fuel + 1, block =>
    let parent := s.regionField block 0 8
    block :: (if parent = 0 then [] else s.ancestors fuel parent)

/-- Whether a region's block and those of its ancestors can be read and written: none is on a stack under reset (R373). -/
def State.regionUp (s : State) (block : Nat) : Bool := (s.ancestors regionDepth block).all s.homeUp

/-- A group whose region the supervisor has edited takes the fields of R113 at its run boundary, once no
block of theirs is on a stack under reset (R373). -/
def State.refreshPolicy (s : State) (gid : Nat) : State :=
  match s.group? gid with
  | some g =>
    if g.stale && s.regionUp g.region then s.modGroup gid fun h => { h with pol := s.policyOf g.part g.region, stale := false } else s
  | none => s

/-- n bytes of one line that the control die writes at their home, where the home L2 keeps no older copy. -/
def State.putHome (s : State) (pa n v : Nat) : State :=
  { s with
    mem := mwle s.mem pa v n
    copies := s.copies.filter fun c => !(c.unit == .l2 (homeStack pa) && c.line == pa / 256 && c.dirty = 0) }

/-- A counter of a region block changed, in memory (R110 bytes 127:64). -/
def State.charge (s : State) (block off n : Nat) (u : Nat → Nat) : State :=
  s.putHome (block + off) n (u (s.regionField block off n))

/-! ## Trace -/

/-- The slot number of a group on its core: its place among the groups placed there. -/
def State.slotOf (s : State) (g : Nat) (core : Nat) : Nat :=
  ((s.groups.filter fun h => h.core == core && h.st == .placed && h.gid < g).length) % 256

/-- Records that a core's trace buffer holds (R405). -/
def traceSize : Nat := 256

/-- Records put into a trace buffer; those that find it full come after it (log entry 139). -/
def Trace.put (t : Trace) (l : List TraceRecord) : Trace :=
  let all := t.buf ++ t.late ++ l
  { t with buf := all.take traceSize, late := all.drop traceSize }

/-- A record appended to a core's trace buffer when its unit is on and admits the kind (R405 to R407). In lossy mode a
record that finds the buffer full, or no room for the kind 6 record that has to come before it, is dropped and counted; in
lossless mode, where the core issues nothing then, what still comes about waits for room (log entry 139). -/
def State.traceRecord (s : State) (core vf g kind fid : Nat) (mask : BitVec 32)
    (payload : BitVec 96) : State :=
  let t := (s.core core).trace
  if !(t.cfg.on && t.cfg.kinds.getLsbD kind && (t.cfg.vf.isNone || t.cfg.vf == some vf)) then s
  else if !t.cfg.lossless && traceSize ≤ t.buf.length + (if t.dropRun ≠ 0 then 1 else 0) then
    s.modCore core fun c =>
      { c with trace := { c.trace with drops := c.trace.drops + 1, dropRun := c.trace.dropRun + 1 } }
  else
    let rec1 (k : Nat) (q : BitVec 16) (f : Nat) (m : BitVec 32) (p : BitVec 96) : TraceRecord :=
      { tick := s.tickAt core, core := core, seq := q, kind := k, slot := s.slotOf g core, fid := f
        mask := m, payload := p }
    let drop := t.dropRun ≠ 0
    let q := if drop then t.seq + 1 else t.seq
    let pre := if drop then [rec1 6 t.seq 0 0 (t.dropRun.setWidth 96)] else []
    s.modCore core fun c =>
      { c with trace := { (c.trace.put (pre ++ [rec1 kind q fid mask payload])) with seq := q + 1, dropRun := 0 } }

/-- The trace record of a run's start on a core (R406 kind 1). -/
def State.traceStart (s : State) (core vf grp : Nat) (fids : List Nat) (pkt : DWord) : State :=
  s.traceRecord core vf grp 1 (fids.headD 0) (maskOf fids) (pkt.setWidth 96)

/-- The trace record of a group placed or ended (R406 kind 8). -/
def State.traceGroup (s : State) (g : Group) (ended : Bool) : State :=
  s.traceRecord g.core g.vf g.gid 8 0 0
    (BitVec.ofNat 96 ((if ended then 1 else 0) + g.index % 2 ^ 32 * 2 ^ 32))

/-! ## Results -/

/-- One sticky flag of FPCTL as a bit of the five flags NX UF OF DZ NV, NV lowest (R168, R273). -/
def flagBits (fl : BitVec 5) : Word := fl.setWidth 32 <<< 8

/-- n registers written from the low word of a value upward; a code past g63 names none. -/
def writeRegs (m : Sparse Word) (r : Nat) (v : Nat) : Nat → Sparse Word
  | 0 => m
  | n + 1 => writeRegs (sset 0 m r (BitVec.ofNat 32 v)) (r + 1) (v / 2 ^ 32) n

/-- A result in flight written to its registers, its flags merged, its error recorded (R67 to R70). -/
def Fibre.land (fb : Fibre) (p : Pend) : Fibre :=
  { fb with
    ctx := { fb.ctx with
      regs := writeRegs fb.ctx.regs p.reg p.value.toNat p.n
      fpctl := fb.ctx.fpctl ||| flagBits p.flags }
    poison := if p.bad.isSome then fb.poison ||| (BitVec.ofNat 64 (2 ^ p.n - 1) <<< p.reg) else fb.poison
    badAt := match p.bad with
      | some a => fb.badAt.filter (fun q => q.1 < p.reg || p.reg + p.n ≤ q.1) ++ (List.range p.n).map fun k => (p.reg + k, a)
      | none => fb.badAt }

/-- The scoreboard landed (R68). -/
def Fibre.landBoard (fb : Fibre) : Fibre :=
  { fb.board.foldl Fibre.land fb with board := [] }

/-- Every outstanding result landed: what a context save, a trap, MOVS of FPCTL or FORK waits for. -/
def Fibre.landAll (fb : Fibre) : Fibre :=
  let fb := fb.landBoard
  { fb.flight.foldl Fibre.land fb with flight := [] }

/-! ## Traps -/

/-- FINFO (R343). -/
def Trap.finfo (t : Trap) : Word :=
  BitVec.ofNat 32 ((if t.self then 2 ^ 31 else 0) + t.kind % 16 * 2 ^ 27 +
    (if t.escw then 2 ^ 25 else 0) + (if t.esci then 2 ^ 24 else 0) + t.cause % 256 * 2 ^ 16 +
    t.detail % 65536)

/-- What a run leaves to be done dropped; the trap of an ESCAL before a wait that goes on stays owed (R107). -/
def Fibre.dropAfter (fb : Fibre) : Fibre :=
  { fb with after := {}, owed := if fb.wait.isSome && fb.after.escal.isSome then fb.after.escal else fb.owed }

/-- A fibre held by a supervisor trap, its results landed (R68, R351). -/
def Fibre.hold (fb : Fibre) (t : Trap) : Fibre :=
  let fb := fb.landAll.dropAfter
  { fb with held := some t, sent := false, entry := none, exempt := false
            st := if fb.st = .waiting then .waiting else .ready, npc := none }

/-- Fibre-level trap entry into a handler at h (R345). -/
def Fibre.enter (fb : Fibre) (h : DWord) (now : DWord) (t : Trap) : Fibre :=
  let fb := fb.landAll.dropAfter
  { fb with
    st := .ready
    rdy := now
    pc := h
    npc := none
    saved := if fb.wait.isSome then fb.wait else fb.saved
    wait := none
    smc := fb.mc
    mc := none
    sowed := fb.owed
    owed := none
    entry := none
    held := none
    exempt := false
    ctx := { fb.ctx with
      epc := t.epc
      shadow := (List.range 4).foldl (fun m k => sset 0 m k (sget 0 fb.ctx.regs k)) []
      finfo := t.finfo
      fval := t.fva.setWidth 32
      fvah := (t.fva >>> 32).setWidth 32
      inhandler := true
      lat := {} } }

/-- The fibres of the last run that have entered a handler stand at its packet, and a wait that the entry interrupts is
no end on its issue tick (R123, R422). -/
def LastRun.enter (l : LastRun) (g f : Nat) (h : DWord) (waited : Bool) : LastRun :=
  if l.grp = g ∧ l.fids.contains f then
    { l with
      fids := l.fids.filter (· ≠ f)
      entered := l.entered ++ [f]
      hpc := h
      sticky := l.sticky && !waited }
  else l

/-- Taking a fibre-level trap (R345): the handler of the fault domain is entered, or the trap turns
into a double trap of kind 15 that holds the fibre at the supervisor. A promise miss inside a
handler waits for ERET. -/
def State.enterTrap (s : State) (g f : Nat) (t : Trap) : State :=
  match s.group? g with
  | none => s
  | some gr =>
    let fb := gr.fibre f
    let h := s.handlerOf gr.part gr.region
    let double (c : Nat) : Trap :=
      { kind := 15, cause := c, epc := t.epc, self := t.self, mask := t.mask, failing := t.failing }
    if fb.ctx.inhandler && t.kind == 4 then
      s.modFibre g f fun fb => { fb with misses := fb.misses ++ [t], entry := none }
    else if fb.ctx.inhandler then s.modFibre g f (·.hold (double t.kind))
    else if h = 0 || h % 12 ≠ 0 then s.modFibre g f (·.hold (double 0))
    else
      ((s.modFibre g f (·.enter (BitVec.ofNat 64 h) s.tick t)).modCore (fb.onCore gr) fun c =>
          { c with last := c.last.map (·.enter g f (BitVec.ofNat 64 h) fb.wait.isSome) }).traceRecord (fb.onCore gr) gr.vf g 3 f
        (1#32 <<< memberOf f) ((t.epc ++ t.finfo : BitVec 96))

/-- The open fault record of a page (R340). -/
def State.record? (s : State) (part vf page : Nat) : Option FaultRecord :=
  s.faults.find? fun r => r.part == part && r.vf == vf && r.page == page && r.opened

/-- A fault record opened by its first requester, or joined when the page has one (R340). -/
def State.openRecord (s : State) (part vf page cause : Nat) (by_ : Requester) : State :=
  if (s.record? part vf page).isSome then s
  else { s with faults := s.faults ++
    [{ part := part, vf := vf, page := page, cause := cause, by_ := by_, tick := s.tick, opened := true }] }

/-- A translation fault that no trap reports: the page's record is opened and the supervisor told, or it joins
the record the page has (R288, R337, R340). -/
def State.reportFault (s : State) (part vf page cause : Nat) (by_ : Requester) : State :=
  if (s.record? part vf page).isSome then s
  else (s.openRecord part vf page cause by_).report part (.fault by_ vf page cause)

/-- Whether a freeze that gates a partition is in force or starts by the next tick (R403, R412). -/
def State.freezeNear (s : State) (p : Nat) : Bool :=
  let near (f : Freeze) : Bool := f.inForce || f.tick.toNat ≤ s.tick.toNat + 1
  s.freeze.any near || ((s.part? p).bind (·.freeze)).any near

/-- A synchronous fault of a bundle's run (R70): no later word takes effect, the after-run traps are
cancelled (R346), every member resumes at the run's first packet. Kinds 1 to 6 enter the handler
as one bundle (R345), one whose hit has started a freeze after its release (R403); the others hold the
bundle at the supervisor (R351). A translation fault opens or joins its page's record (R340). A bundle of a
region with the promise off stays sticky (R123, R422). -/
def State.raise (s : State) (core : Nat) (r : Run) (t : Trap) : State :=
  let t := { t with epc := if r.mc.isSome then r.pkt else r.start, mask := maskOf r.fids }
  let sticky := ((s.group? r.grp).map fun g => !g.pol.promise).getD false
  let s := s.modCore core fun c =>
    { c with
      run := none
      issueAt := some s.tick
      last := some
        { grp := r.grp, team := (r.fids.headD 0) / 32, pc := t.epc, fids := r.fids, sticky := sticky, setBack := false
          prefer := false, since := s.tick } }
  let part := ((s.group? r.grp).map (·.part)).getD 0
  let vf := ((s.group? r.grp).map (·.vf)).getD 0
  let s := if t.kind = 10 then
      s.openRecord part vf (t.fva.toNat / 65536) t.cause
        (.fibre r.grp ((r.fids.find? fun f => t.failing.getLsbD (memberOf f)).getD (r.fids.headD 0)))
    else s
  r.fids.foldl (init := s.refreshPolicy r.grp) fun s f =>
    let t := { t with self := t.failing.getLsbD (memberOf f) }
    let s := s.modFibre r.grp f fun fb =>
      { fb with pc := t.epc, after := {}, mc := r.mc, exempt := false, st := .ready, rdy := s.tick }
    if t.kind = 2 && t.late then s.modFibre r.grp f fun fb => { fb.landAll with entry := some t }
    else if t.kind ≤ 6 then s.enterTrap r.grp f t else s.modFibre r.grp f (·.hold t)

/-! ## The end of fibres and groups -/

/-- Fibres of a group that have not ended (R129). -/
def Group.live (g : Group) : List Fibre := g.fibres.filter (·.st != .free)

/-- A fibre that ends where it is: its landing slot, or the one it was leaving, is held until the stores that it has
issued are acknowledged (R135). -/
def Fibre.leaveSlot (fb : Fibre) : Fibre :=
  let held : Option Nat := match fb.place with
    | .landed c => some c
    | _ => fb.slotOn
  { fb with
    place := .home
    slotOn := none
    slots := match held with
      | some c => if fb.unacked = 0 then fb.slots else fb.slots ++ [(c, fb.unacked)]
      | none => fb.slots }

/-- A group marked as ended with a cause and code (R131, R410): every fibre ends, waits end without a
status, and no run of the group starts again. A fibre inside a run ends at its boundary. -/
def Group.finish (g : Group) (cause : Nat) (code : Word) : Group :=
  if g.exit.isSome then g
  else
    { g with
      exit := some (cause, code)
      st := .ended
      gone := g.st == .descheduled
      rdvs := []
      seqs := []
      gathers := []
      chans := g.chans.map fun c => { c with st := if c.st = 1 then 2 else c.st, paused := false }
      fibres := g.fibres.map fun fb =>
        if fb.st = .issuing then fb
        else if fb.st = .free then fb
        else { fb.landAll.leaveSlot with
          st := .free, gen := fb.gen + 1, wait := none, saved := none, held := none
          entry := none, after := {}, owed := none, sowed := none, ftab := none, npc := none
          misses := [], sysc := none, mc := none, smc := none } }

/-- Promise misses given to the lowest live fibre of a group (R290). -/
def Group.passMisses (g : Group) (l : List Trap) : Group :=
  if l.isEmpty then g
  else match g.live.map (·.fid) with
    | [] => g
    | x :: xs => g.modFibre (xs.foldl min x) fun fb => { fb with misses := fb.misses ++ l }

/-- The end of one fibre (R129): the results land, the generation advances, the exit value is kept, the promise
misses it has not entered go to the lowest live fibre (R290), and the group ends with code 0 when it was the
last. -/
def Group.endFibre (g : Group) (f : Nat) (value : Word) : Group :=
  let old := g.fibre f
  let left := old.misses ++ ((old.entry.filter (·.kind == 4)).map ([·])).getD []
  let g := g.modFibre f fun fb =>
    let fb := fb.landAll.leaveSlot
    { fb with st := .free, gen := fb.gen + 1, exitv := value, wait := none, saved := none
              held := none, entry := none, after := {}, owed := none, sowed := none, ftab := none, npc := none
              misses := [], sysc := none, mc := none, smc := none, poison := 0, badAt := [], wrote := [], synced := false }
  let g := g.passMisses left
  if g.live.isEmpty then g.finish 1 0 else g

end Sys2Proof.Machine
end

