-- ==== Sys2Proof/Machine/Operands.lean ====
section
/-!
DEFINITION. Operand forms: what a source code reads (R47 to R49), what a register, latch or predicate
result writes (R51, R52, R59), and the frame every instruction word runs in: legality, the effect on
each member of the bundle, and moving past the word.
-/

namespace Sys2Proof.Machine

/-- What a word reads besides its member's own registers (R47, R80). -/
structure Env where
  /-- The tick as the issuing core's die has it (R84). -/
  tick : DWord
  core : Nat
  index : Nat
  mask : BitVec 32
  mp : Option Nat
  window : Nat
  /-- The global tick itself. -/
  now : DWord := 0
  deriving DecidableEq, Repr

/-- A register of the snapshot the chain group reads (R56), as a code names it (R80). -/
def Fibre.reg (fb : Fibre) (mp : Option Nat) (code : Nat) : Word := sget 0 fb.snap.regs (mapReg mp code)

/-- Latch k of the four pipes in code order la0 la1 lf0 lf1 lm0 lm1 lx0 lx1 (R47). -/
def Latches.get (l : Latches) : Nat → DWord
  | 0 => l.la0 | 1 => l.la1 | 2 => l.lf0 | 3 => l.lf1 | 4 => l.lm0 | 5 => l.lm1 | 6 => l.lx0
  | _ => l.lx1

/-- A result entering a pipe's latch 0, whose old contents move to latch 1 (R59). -/
def Latches.push (l : Latches) (p : Pipe) (v : DWord) : Latches :=
  match p with
  | .A => { l with la0 := v, la1 := l.la0 }
  | .F => { l with lf0 := v, lf1 := l.lf0 }
  | .M => { l with lm0 := v, lm1 := l.lm0 }
  | .X => { l with lx0 := v, lx1 := l.lx0 }
  | .none => l

/-- The specials 72 to 79 as 32-bit values (R47). -/
def Env.special (e : Env) (fb : Fibre) (code : Nat) : Word :=
  if code = 72 then 0
  else if code = 73 then BitVec.ofNat 32 fb.fid
  else if code = 74 then BitVec.ofNat 32 (memberOf fb.fid)
  else if code = 75 then BitVec.ofNat 32 e.index
  else if code = 76 then e.tick.setWidth 32
  else if code = 77 then BitVec.ofNat 32 e.core
  else if code = 78 then e.mask
  else -1

/-- A 32-bit operand (R47, R48). -/
def Env.op32 (e : Env) (fb : Fibre) (code : BitVec 7) : Word :=
  let c := code.toNat
  if c < 64 then fb.reg e.mp c
  else if c < 72 then (fb.snap.lat.get (c - 64)).setWidth 32
  else if c < 80 then e.special fb c
  else BitVec.ofInt 32 (inlineValue code)

/-- A 64-bit operand (R48): a pair, a whole latch, a special zero-extended, a constant sign-extended. -/
def Env.op64 (e : Env) (fb : Fibre) (code : BitVec 7) : DWord :=
  let c := code.toNat
  if c < 64 then (sget 0 fb.snap.regs (mapReg e.mp c + 1) ++ fb.reg e.mp c : BitVec 64)
  else if c < 72 then fb.snap.lat.get (c - 64)
  else if c = 79 then -1
  else if c < 80 then (e.special fb c).setWidth 64
  else BitVec.ofInt 64 (inlineValue code)

/-- The k-th register from the one a code names. A list that runs on past g55 inside a microprogram counts on from its first
register, mapped alone (DESIGN CHOICE, log entry 142). -/
def Env.regAt (e : Env) (fb : Fibre) (code : BitVec 7) (k : Nat) : Word :=
  sget 0 fb.snap.regs (mapReg e.mp code.toNat + k)

/-- A pair named by a D field that is read (R208, R303). -/
def Env.pairAt (e : Env) (fb : Fibre) (code : BitVec 7) (k : Nat) : DWord :=
  (e.regAt fb code (k + 1) ++ e.regAt fb code k : BitVec 64)

/-- A predicate of the snapshot; p0 reads as 1 (R142). -/
def Fibre.pred (fb : Fibre) (p : Nat) : Bool := p == 0 || fb.snap.preds.getLsbD p

/-- A predicate word with one predicate written; a write to p0 is discarded (R52, R142). -/
def setPred (m : BitVec 96) (p : Nat) (v : Bool) : BitVec 96 :=
  if p = 0 then m else if v then m ||| (1#96 <<< p) else m &&& ~~~(1#96 <<< p)

/-- A predicate result (R52): it touches no latch. -/
def Fibre.putPred (fb : Fibre) (p : Nat) (v : Bool) : Fibre :=
  { fb with ctx := { fb.ctx with preds := setPred fb.ctx.preds p v } }

/-- Registers written from a code on, none when the suppress bit is set (R51). -/
def Fibre.putRegs (fb : Fibre) (mp : Option Nat) (code : BitVec 7) (n v : Nat) : Fibre :=
  if code.toNat < 64 then
    { fb with ctx := { fb.ctx with regs := writeRegs fb.ctx.regs (mapReg mp code.toNat) v n } }
  else fb

/-- A register result of n registers: the pipe's latch 0 and, unless suppressed, the registers
(R51, R59). A 128-bit result sends its low half to the latch. -/
def Fibre.put (fb : Fibre) (e : Env) (p : Pipe) (code : BitVec 7) (n v : Nat) : Fibre :=
  let v := v % 2 ^ (32 * n)
  let fb := { fb with ctx := { fb.ctx with lat := fb.ctx.lat.push p (BitVec.ofNat 64 v) } }
  fb.putRegs e.mp code n v

/-- A 32-bit register result. -/
def Fibre.put32 (fb : Fibre) (e : Env) (p : Pipe) (code : BitVec 7) (v : Word) : Fibre :=
  fb.put e p code 1 v.toNat

/-- A 64-bit register result. -/
def Fibre.put64 (fb : Fibre) (e : Env) (p : Pipe) (code : BitVec 7) (v : DWord) : Fibre :=
  fb.put e p code 2 v.toNat

/-- A deferrable result of n registers (R60, R66): the latch takes it at issue, the registers when it
lands. A suppressed one has no register to wait for, so its flags merge at once. -/
def Fibre.putLater (fb : Fibre) (e : Env) (p : Pipe) (code : BitVec 7) (n v : Nat)
    (flags : BitVec 5 := 0) (bad : Option DWord := none) : Fibre :=
  let v := v % 2 ^ (32 * n)
  let fb := { fb with ctx := { fb.ctx with lat := fb.ctx.lat.push p (BitVec.ofNat 64 v) } }
  if code.toNat < 64 then
    { fb with flight := fb.flight ++
        [{ reg := mapReg e.mp code.toNat, n := n, value := BitVec.ofNat 128 v, flags := flags, bad := bad }] }
  else { fb with ctx := { fb.ctx with fpctl := fb.ctx.fpctl ||| flagBits flags }, raised := fb.raised ||| flags }

/-- The environment of a bundle's words. -/
def State.env (s : State) (r : Run) : Env :=
  match s.group? r.grp with
  | some g =>
    { tick := s.tickAt s.cur, core := s.cur, index := g.index, mask := maskOf r.fids
      mp := r.mc.map (·.2), window := g.kern.window, now := s.tick }
  | none =>
    { tick := s.tickAt s.cur, core := s.cur, index := 0, mask := maskOf r.fids, mp := r.mc.map (·.2), window := 0
      now := s.tick }

/-- The run whose word is issuing. -/
def State.run? (s : State) : Option Run := (s.core s.cur).run

/-- The effect of a word on each member of its bundle (R45, R146). -/
def State.eachMember (s : State) (r : Run) (u : Env → Fibre → Fibre) : State :=
  s.modFibres r.grp r.fids (u (s.env r))

/-- The lowest member of a bundle (R197). -/
def State.lead (s : State) (r : Run) : Fibre :=
  match s.group? r.grp, r.fids with
  | some g, f :: _ => g.fibre f
  | _, f :: _ => { fid := f }
  | _, [] => { fid := 0 }

/-- The fibres of a bundle, by ascending member. -/
def State.members (s : State) (r : Run) : List Fibre :=
  match s.group? r.grp with
  | some g => r.fids.map g.fibre
  | none => []

/-- Bytes of a packet (R54). -/
def packetBytes : Nat := 12

/-- Moving past a word (R54, R55): the next place of the packet, the word count, the chain bit. A
chain group that has issued uses this tick's issue cycle. -/
def State.retire (s : State) (chain : Bool) : State :=
  s.modCore s.cur fun c =>
    match c.run with
    | none => c
    | some r =>
      let last := r.mc.isNone && r.idx = 2
      { c with
        run := some { r with
          pkt := if last then r.pkt + BitVec.ofNat 64 packetBytes else r.pkt
          idx := if last then 0 else r.idx + 1
          count := r.count + 1
          chained := chain }
        issueAt := if chain then c.issueAt else some s.tick }

/-- What stands between a word and its effect. -/
inductive Check where
  | ok
  /-- The word is tried again once a walk or a page scrub has ended. -/
  | again (s : State)
  | fault (t : Trap)
  deriving DecidableEq, Repr

/-- The illegal-instruction check of a word for the bundle that issues it (R50, R52, R74, R83). -/
def State.illegal (s : State) (r : Run) (i : Instr) : Check :=
  match i.cause (s.env r).mp (s.env r).window with
  | some c => .fault { kind := 7, cause := c, failing := maskOf r.fids }
  | none => .ok

/-- One word for the bundle that is issuing: its legality, its own further checks, then its effect.
Without a bundle in a run no word issues and nothing happens. -/
def State.issue (s : State) (i : Instr) (chain : Bool) (more : State → Run → Check)
    (eff : State → Run → State) : Host.Outcome State Fault Refusal :=
  match s.run? with
  | none => .next s
  | some r =>
    match s.illegal r i with
    | .fault t => .next (s.raise s.cur r t)
    | .again s' => .next s'
    | .ok =>
      match more s r with
      | .fault t => .next (s.raise s.cur r t)
      | .again s' => .next s'
      | .ok => .next ((eff s r).retire chain)

/-- A word without further checks. -/
def noCheck (_ : State) (_ : Run) : Check := .ok

/-- A word that acts on each member from the member's own registers (R146). -/
def State.issueEach (s : State) (i : Instr) (chain : Bool) (u : Env → Fibre → Fibre) :
    Host.Outcome State Fault Refusal :=
  s.issue i chain noCheck fun s r => s.eachMember r u

end Sys2Proof.Machine
end

