-- ==== Sys2Proof/Machine/Flags.lean ====
section
/-!
DEFINITION. The status words and flags: WSTAT (R94 to R96), FPCTL (R168 to R170) and deadlines
(R87, R89).
-/

namespace Sys2Proof.Machine

/-- The status codes (R96). -/
inductive Code where
  | ok | timeout | withdrawn | partly | mismatch | faulted | expired | noslot | deferred | closed
  | escalated
  deriving DecidableEq, Repr

/-- The number of a status code (R96). -/
def Code.num : Code → Nat
  | .ok => 0 | .timeout => 1 | .withdrawn => 2 | .partly => 3 | .mismatch => 4 | .faulted => 5
  | .expired => 6 | .noslot => 7 | .deferred => 8 | .closed => 9 | .escalated => 15

/-- The status code of a number (R96). -/
def Code.ofNum (n : Nat) : Code :=
  match n with
  | 0 => .ok | 1 => .timeout | 2 => .withdrawn | 3 => .partly | 4 => .mismatch | 5 => .faulted
  | 6 => .expired | 7 => .noslot | 8 => .deferred | 9 => .closed | _ => .escalated

/-- A status word (R94). -/
def statusWord (code : Code) (cls detail : Nat) : Word :=
  BitVec.ofNat 32 (code.num + cls % 16 * 16 + detail * 256)

/-- A fibre with WSTAT written. -/
def Fibre.status (fb : Fibre) (code : Code) (cls detail : Nat) : Fibre :=
  { fb with ctx := { fb.ctx with wstat := statusWord code cls detail } }

/-- Sticky flags (R168): NV is bit 0, then DZ, OF, UF, NX. -/
def flNV : BitVec 5 := 1
def flDZ : BitVec 5 := 2
def flOF : BitVec 5 := 4
def flUF : BitVec 5 := 8
def flNX : BitVec 5 := 16

/-- Flags merged into FPCTL by an F-pipe word, and kept for a MOVT of its own chain group (R56,
R170). -/
def Fibre.raiseFlags (fb : Fibre) (fl : BitVec 5) : Fibre :=
  { fb with
    ctx := { fb.ctx with fpctl := fb.ctx.fpctl ||| flagBits fl }
    raised := fb.raised ||| fl }

/-- What MOVT writes into FPCTL: the defined bits of its operand (R168). -/
def fpctlMask : Word := 0x1F07

/-- The rounding field and the flush bit of FPCTL as a word reads them (R168). -/
def Fibre.rm (fb : Fibre) : Nat := (fb.snap.fpctl.extractLsb' 0 2).toNat
def Fibre.fz (fb : Fibre) : Bool := fb.snap.fpctl.getLsbD 2

/-- A deadline of R87 from its mode and target. -/
def deadlineOf (budget : Bool) (target : DWord) : DWord :=
  (if budget then 1#1 else 0#1) ++ target.extractLsb' 0 63

/-- The deadline register that E names, captured at issue (R87, R98). -/
def Fibre.deadline (fb : Fibre) (e : BitVec 3) (now : DWord) : DWord :=
  if e = 0 then deadlineOf false now else sget 0 fb.snap.dl e.toNat

/-- Whether a deadline is in budget mode (R87). -/
def isBudget (d : DWord) : Bool := d.getLsbD 63

/-- Whether a captured deadline has passed (R89). -/
def passed (d now rtk : DWord) : Bool :=
  if isBudget d then (d.extractLsb' 0 63).toNat ≤ rtk.toNat
  else (d.extractLsb' 0 63).toNat ≤ now.toNat

/-- The longest time a deadline instruction sets (R89). -/
def maxAhead : Nat := 2 ^ 40

end Sys2Proof.Machine
end

