-- ==== Sys2Proof/Machine/Attrs.lean ====
section
/-!
DEFINITION. What is known of a physical address: the page-table entry of its frame (R336), whose it is (R362,
R363), its protection and bias (R241, R249, R332), and the soft errors of its 32-byte words (R241).
-/

namespace Sys2Proof.Machine

/-! ## Page-table entries -/

/-- The frame or table that a page-table entry names (R336). -/
def pteAddr (e : DWord) : Nat := (e.extractLsb' 14 36).toNat * 2 ^ 14

/-- Bit fields of a page-table entry (R336). -/
def pteV (e : DWord) : Bool := e.getLsbD 0
def pteLeaf (e : DWord) : Bool := e.getLsbD 2
def pteR (e : DWord) : Bool := e.getLsbD 3
def pteW (e : DWord) : Bool := e.getLsbD 4
def pteX (e : DWord) : Bool := e.getLsbD 5
def pteProt (e : DWord) : Nat := (e.extractLsb' 6 2).toNat
def pteHost (e : DWord) : Bool := e.getLsbD 8
def pteSide (e : DWord) : Bool := e.getLsbD 9
def pteA (e : DWord) : Bool := e.getLsbD 10
def pteD (e : DWord) : Bool := e.getLsbD 11

/-- Reserved bits 63:50, 13:12 and 1 (R336). -/
def pteReserved (e : DWord) : Bool := e.extractLsb' 50 14 ≠ 0 || e.extractLsb' 12 2 ≠ 0 || e.getLsbD 1

/-! ## Whose an address is -/

/-- Whether a frame lies in a partition's own pseudo-channels (R363), or an address in one of its peer apertures
(R393); other host memory needs a slice on stack 0 (R362). -/
def State.owns (s : State) (p pa : Nat) : Bool :=
  match s.part? p with
  | none => false
  | some q =>
    if pa / 2 ^ 49 % 2 = 1 then q.slices.any (· / 16 == 0) || q.apertures.any fun w => w.base ≤ pa && pa < w.base + w.size
    else
      let hbm := pa / 2 ^ 37 % 16
      ((List.range 32).all fun k => q.channels.contains (hbm * 32 + k)) ||
        q.channels.contains (hbm * 32 + Config.channelOf (pa % 2 ^ 37) % 32)

/-- Whether every frame that n bytes from an address meet is a partition's. -/
def State.ownsAll (s : State) (part pa n : Nat) : Bool :=
  n = 0 || (List.range ((pa + n - 1) / 65536 + 1 - pa / 65536)).all fun k => s.owns part ((pa / 65536 + k) * 65536)

/-- Whether a physical address is a partition's: in a cluster's pool, a frame, or a frame's whey (R362, R363). -/
def State.holdsAddr (s : State) (part pa : Nat) : Bool :=
  if 2 ^ 50 ≤ pa && pa < 2 ^ 52 then ((s.part? part).map (·.clusters)).getD [] |>.contains ((pa - 2 ^ 50) / 2 ^ 24)
  else s.owns part (if 2 ^ 52 ≤ pa then (pa - 2 ^ 52) / 8192 * 65536 else pa)

/-- The partition that owns a physical address. -/
def State.ownerOf (s : State) (pa : Nat) : Option Nat := (s.parts.find? fun q => s.holdsAddr q.id pa).map (·.id)

/-! ## Attributes -/

/-- The protection attribute of a column address, by 64 KiB of its pool (R249). -/
def State.padProt (s : State) (pa : Nat) : Nat := sget 0 s.padAttrs ((pa - 2 ^ 50) / 65536)

/-- The entry that was walked for a frame's address; none when there is none. -/
def State.attrOf (s : State) (pa : Nat) : Option DWord :=
  (s.attrs.find? fun q => q.1 ≤ pa / 65536 && pa / 65536 < q.1 + q.2.1).map (·.2.2)

/-- The protection attribute of a physical address: of its 64 KiB of column, or as the page-table entries walked
for its frame give it; strong by default (R241, R249). -/
def State.protOf (s : State) (pa : Nat) : Nat :=
  if 2 ^ 50 ≤ pa && pa < 2 ^ 52 then s.padProt pa else ((s.attrOf pa).map pteProt).getD 0

/-- Whether a page of host bias holds an address (R332). -/
def State.hostBiased (s : State) (pa : Nat) : Bool := (s.attrOf pa).any pteHost

/-! ## Soft errors -/

/-- A mask of n bits from bit i. -/
def maskBits (w i n : Nat) : BitVec w := BitVec.ofNat w ((2 ^ n - 1) <<< i)

/-- Bits that differ from their protected value in a 32-byte word, bytes written since left out. -/
def errorFlips (w : BitVec 288) : BitVec 256 :=
  (List.range 32).foldl (fun m k => if w.getLsbD (256 + k) then m &&& ~~~(maskBits 256 (8 * k) 8) else m)
    (w.extractLsb' 0 256)

/-- Bad bits that a word's protection attribute corrects (R241). -/
def correctable (prot : Nat) (w : BitVec 288) : Bool :=
  popCount256 (w.extractLsb' 0 256) ≤ (if prot = 0 then 2 else 1)
where
  /-- Number of one bits of a word. -/
  popCount256 (x : BitVec 256) : Nat := (List.range 256).foldl (fun n i => if x.getLsbD i then n + 1 else n) 0

/-- The 32-byte words that n bytes from an address meet. -/
def wordsOf (pa n : Nat) : List Nat := (List.range ((pa + n - 1) / 32 - pa / 32 + 1)).map (pa / 32 + ·)

/-- Whether a read of a page with an attribute meets an uncorrectable error at the home (R241). -/
def State.uncorrectable (s : State) (prot pa n : Nat) : Bool :=
  !s.errors.isEmpty && prot ≠ 2 && (wordsOf pa n).any fun k =>
    let w := sget 0 s.errors k
    w ≠ 0 && !correctable prot w

/-- One word's correctable error corrected in place, its bad bits counted (R241). -/
def State.correctWord (s : State) (part k : Nat) : State :=
  let w := sget 0 s.errors k
  let fl := errorFlips w
  let s := { s with
    mem := (List.range 32).foldl (fun m i =>
      mwrite m (32 * k + i) (mread m (32 * k + i) ^^^ fl.extractLsb' (8 * i) 8)) s.mem
    errors := sset 0 s.errors k 0 }
  s.count part .secc (correctable.popCount256 (w.extractLsb' 0 256))

end Sys2Proof.Machine
end

