-- ==== Sys2Proof/Machine/Lines.lean ====
section
/-!
DEFINITION. Lines, caches and directories (R217 to R230, R312, R322 to R330).

mem holds what has reached a line's home memory. A write to a line with a home set stays in the caches of
its cluster, marked in dirty masks, until a release, a forced publish or an eviction moves it outward; the
order in which dirty bytes reach the home is their coherence order (R326). Dirty bytes never overtake: a
cluster moves outward whole, after the notices it has in flight, so that what happens before a write is
performed wherever that write is (R315, R321; log entry 120). A placed line is coherent at its placement
level; a write to it reaches that level at once and stands in mem as well.
-/

namespace Sys2Proof.Machine

/-- Bytes of a line and of a sector (R217, R324). -/
def lineBytes : Nat := 256
def sectorBytes : Nat := 64

/-! ## One copy -/

/-- Whether a copy holds byte i of its line. -/
def Copy.has (c : Copy) (i : Nat) : Bool := c.sectors.getLsbD (i / 64) || c.dirty.getLsbD i

/-- Whether a copy holds n bytes from byte i. -/
def Copy.hasAll (c : Copy) (i n : Nat) : Bool := (List.range n).all fun k => c.has (i + k)

/-- n bytes of a copy from byte i, little-endian. -/
def Copy.get (c : Copy) (i n : Nat) : Nat := (c.data.toNat >>> (8 * i)) % 256 ^ n

/-- The state of a sector: 0 not held, 1 clean, 2 clean and held exclusively, 3 modified (R324). -/
def Copy.sectorState (c : Copy) (sec : Nat) : Nat :=
  if c.dirty &&& maskBits 256 (64 * sec) 64 ≠ 0 then 3
  else if !c.sectors.getLsbD sec then 0
  else if c.excl.getLsbD sec then 2
  else 1

/-- Line data with n bytes from byte i replaced. -/
def patch (data : BitVec 2048) (i n v : Nat) : BitVec 2048 :=
  (data &&& ~~~(maskBits 2048 (8 * i) (8 * n))) ||| BitVec.ofNat 2048 ((v % 256 ^ n) <<< (8 * i))

/-- Bits of a byte mask spread to bytes. -/
def spread (mask : BitVec 256) : BitVec 2048 :=
  (List.range 256).foldl (fun m i => if mask.getLsbD i then m ||| maskBits 2048 (8 * i) 8 else m) 0

/-- Line data with the masked bytes taken from other line data. -/
def overlay (data from_ : BitVec 2048) (mask : BitVec 256) : BitVec 2048 :=
  if mask = 0 then data
  else
    let m := spread mask
    (data &&& ~~~m) ||| (from_ &&& m)

/-- The bytes of the sectors of a mask. -/
def sectorMask (sectors : BitVec 4) : BitVec 256 :=
  (List.range 4).foldl (fun m k => if sectors.getLsbD k then m ||| maskBits 256 (64 * k) 64 else m) 0

/-- A copy with one sector filled; its dirty bytes keep their value. -/
def Copy.fill (c : Copy) (sec : Nat) (line : BitVec 2048) : Copy :=
  { c with
    data := overlay c.data line (maskBits 256 (64 * sec) 64 &&& ~~~c.dirty)
    sectors := c.sectors ||| (1#4 <<< sec) }

/-! ## Copies in the state -/

def State.copy? (s : State) (u : CacheId) (line : Nat) : Option Copy :=
  s.copies.find? fun c => c.unit == u && c.line == line

/-- Whether a copy holds nothing. -/
def Copy.empty (c : Copy) : Bool := c.sectors = 0 && c.dirty = 0

/-- A copy changed or made for a partition; one that holds nothing is dropped. -/
def State.modCopy (s : State) (u : CacheId) (line : Nat) (f : Copy → Copy) (part : Nat := 0) : State :=
  let l := upsert (fun c => c.unit == u && c.line == line)
    { unit := u, line := line, sectors := 0, data := 0, dirty := 0, part := part } f s.copies
  { s with copies := l.filter fun c => !c.empty }

/-- Every copy changed; one that holds nothing is dropped. -/
def State.mapCopies (s : State) (f : Copy → Copy) : State :=
  { s with copies := (s.copies.map f).filter fun c => !c.empty }

/-- The copies that meet a test dropped. -/
def State.dropCopies (s : State) (p : Copy → Bool) : State :=
  { s with copies := s.copies.filter fun c => !p c }

/-- The caches of a cluster, and those of a stack with its L2. -/
def unitCluster : CacheId → Option Nat
  | .l1 c => some (clusterOf c)
  | .ck k => some k
  | .l2 _ => none
def unitStack : CacheId → Nat
  | .l1 c => stackOf c
  | .ck k => k / 16
  | .l2 st => st

/-- The stack that homes a line. -/
def homeOf (line : Nat) : Nat := homeStack (line * 256)

def State.line? (s : State) (line : Nat) : Option LineState := s.lines.find? (·.line == line)

/-- The declared reader set of a line; none when it is home (R217). -/
def State.readers? (s : State) (line : Nat) : Option (List Nat) := (s.line? line).map (·.readers)

/-- The partition that holds a cluster (R362). -/
def State.clusterPart (s : State) (k : Nat) : Nat := ((s.parts.find? (·.clusters.contains k)).map (·.id)).getD 0

/-! ## A line where it is coherent -/

/-- The copy that holds a line nearest its coherence point: at its placement level when it is placed, else in
the home L2. -/
def State.holder? (s : State) (line : Nat) : Option Copy :=
  let home := s.copy? (.l2 (homeOf line)) line
  match s.line? line with
  | none => home
  | some l =>
    match l.level with
    | .l1 c => (s.copy? (.l1 c) line).orElse fun _ => home
    | .ck k => (s.copy? (.ck k) line).orElse fun _ => home
    | .l2 st => (s.copy? (.l2 st) line).orElse fun _ => home
    | _ => home

/-- One byte as it stands at its coherence point. -/
def State.homeByte (s : State) (pa : Nat) : Byte :=
  match s.holder? (pa / 256) with
  | some c => if c.has (pa % 256) then BitVec.ofNat 8 (c.get (pa % 256) 1) else mread s.mem pa
  | none => mread s.mem pa

/-- n bytes as they stand at their coherence point, little-endian. -/
def State.homeBytes (s : State) (pa : Nat) : Nat → Nat
  | 0 => 0
  | n + 1 => (s.homeByte pa).toNat + 256 * s.homeBytes (pa + 1) n

/-- A line as it stands at its coherence point. -/
def State.homeLine (s : State) (line : Nat) : BitVec 2048 :=
  let m := BitVec.ofNat 2048 (mle s.mem (line * 256) 256)
  match s.holder? line with
  | some c => overlay m c.data (sectorMask c.sectors)
  | none => m

/-- Whether a cache holds n bytes where they are coherent, so that memory is not read for them (R241). -/
def State.homeHeld (s : State) (pa n : Nat) : Bool :=
  match s.holder? (pa / 256) with
  | some c => c.hasAll (pa % 256) n
  | none => false

/-! ## Soft errors met where a line is read -/

/-- Whether a 32-byte word stands in a cache where it is coherent, so that its home memory is not read for it. -/
def State.heldWord (s : State) (k : Nat) : Bool := s.homeHeld (32 * k) 32

/-- The correctable errors in the sectors that a read of memory meets corrected (R241): a fill reads each sector
whole. Words that a cache holds where they are coherent are not read from memory. -/
def State.correctRead (s : State) (part prot pa n : Nat) : State :=
  if s.errors.isEmpty || prot = 2 then s
  else (wordsOf (pa / 64 * 64) ((pa % 64 + n + 63) / 64 * 64)).foldl (init := s) fun s k =>
    let w := sget 0 s.errors k
    if w ≠ 0 && correctable prot w && !s.heldWord k then s.correctWord part k else s

/-- An uncorrectable error met by a read: counted, and the supervisor notified (R241, R244). -/
def State.reportBadAt (s : State) (part pa : Nat) : State := (s.count part .seuc).report part (.uncorrectable pa)

/-- The addresses of n bytes whose words a read finds uncorrectable in memory (R241). -/
def State.brokenIn (s : State) (prot pa n : Nat) : List Nat :=
  if s.errors.isEmpty then []
  else (wordsOf pa n).filterMap fun k => if s.uncorrectable prot (32 * k) 32 && !s.heldWord k then some (32 * k) else none

/-- What a read of memory for a partition does about the soft errors it meets: it corrects what the attribute
corrects, and the supervisor is notified of what it does not (R241). -/
def State.meetErrors (s : State) (part prot pa n : Nat) : State :=
  let s := s.correctRead part prot pa n
  (s.brokenIn prot pa n).foldl (fun s a => s.reportBadAt part a) s

/-- A byte as a read delivers it that corrects what it can: of a word with an uncorrectable error, a free value
where no rule says what the reader takes (log entry 135). -/
def State.soundByte (s : State) (pa : Nat) : Byte :=
  let w := sget 0 s.errors (pa / 32)
  let prot := s.protOf pa
  if s.errors.isEmpty || w = 0 || prot = 2 || s.homeHeld pa 1 then s.homeByte pa
  else if correctable prot w then mread s.mem pa ^^^ (errorFlips w).extractLsb' (8 * (pa % 32)) 8
  else Config.brokenByte s.tick.toNat pa

/-- n such bytes, little-endian. -/
def State.soundBytes (s : State) (pa : Nat) : Nat → Nat
  | 0 => 0
  | n + 1 => (s.soundByte pa).toNat + 256 * s.soundBytes (pa + 1) n

/-- Whether a sector's words have errors outstanding in memory, so that no cache takes it (R241; log entry
122). -/
def State.tainted (s : State) (line sec : Nat) : Bool :=
  !s.errors.isEmpty && (sget 0 s.errors (8 * line + 2 * sec) ≠ 0 || sget 0 s.errors (8 * line + 2 * sec + 1) ≠ 0)

/-- A line about to be moved from its home memory by the sectors that no copy of it holds: their correctable errors
are corrected (R241). -/
def State.readSectors (s : State) (line : Nat) (held : BitVec 4) : State :=
  if s.errors.isEmpty then s
  else (List.range 4).foldl (init := s) fun s k =>
    let pa := 256 * line + 64 * k
    if held.getLsbD k then s else s.correctRead ((s.ownerOf pa).getD 0) (s.protOf pa) pa 64

/-! ## Writes reaching the home -/

/-- The record that a byte of a 32-byte word has been written: a word written in full is no longer
poisoned (R241). -/
def healByte (m : Sparse (BitVec 288)) (a : Nat) : Sparse (BitVec 288) :=
  let w := sget 0 m (a / 32)
  if w = 0 then m
  else
    let w := w ||| (1#288 <<< (256 + a % 32))
    sset 0 m (a / 32) (if w.extractLsb' 256 32 = -1 then 0 else w)

/-- Where a write at an address is performed: there, and at its image in the new frame, or its whey, of an open
dual-home window (R333). -/
def State.images_ (s : State) (pa : Nat) : List Nat :=
  pa :: s.remaps.filterMap fun r =>
    let old := pteAddr r.old
    let whey := wheyBase (old / 65536)
    if old ≤ pa && pa < old + 65536 * r.pages then some (pa - old + pteAddr r.new)
    else if whey ≤ pa && pa < whey + 8192 * r.pages then some (pa - whey + wheyBase (pteAddr r.new / 65536))
    else none

/-- n bytes of one line written at its home, with the home L2's copy kept equal. -/
def State.homeWrite (s : State) (pa n v : Nat) : State :=
  let s := { s with
    mem := (s.images_ pa).foldl (fun m a => mwle m a v n) s.mem
    errors := if s.errors.isEmpty then s.errors
      else (s.images_ pa).foldl (fun m a => (List.range n).foldl (fun m k => healByte m (a + k)) m) s.errors }
  s.mapCopies fun c =>
    if c.unit == .l2 (homeStack pa) && c.line == pa / 256 then
      { c with data := patch c.data (pa % 256) n v }
    else c

/-- n bytes of one line written at its coherence point, in memory and in every copy of the line. -/
def State.writeThrough (s : State) (pa n v : Nat) : State :=
  (s.homeWrite pa n v).mapCopies fun c =>
    if c.line == pa / 256 then { c with data := patch c.data (pa % 256) n v } else c

/-- The masked bytes of a line written at the home. -/
def State.homeMerge (s : State) (line : Nat) (data : BitVec 2048) (mask : BitVec 256) : State :=
  if mask = 0 then s
  else (List.range 256).foldl (init := s) fun s i =>
    if mask.getLsbD i then s.homeWrite (line * 256 + i) 1 (data.toNat >>> (8 * i) % 256) else s

/-! ## Eviction notices (R329) -/

/-- A child's next numbered notice about a copy it has dropped, with the copy's dirty bytes (R329). -/
def State.sendNotice (s : State) (c : Copy) : State :=
  let sent := ((s.sent.find? (·.1 == c.unit)).map (·.2)).getD 0
  { s with
    sent := upsert (·.1 == c.unit) (c.unit, 0) (fun q => (q.1, q.2 + 1)) s.sent
    notices := s.notices ++
      [{ child := c.unit, seq := sent + 1, line := c.line, data := c.data, dirty := c.dirty, part := c.part }] }

/-! ## The stack L2 -/

/-- A stack L2's notices of a partition applied in their order. -/
def State.drainL2 (s : State) (st part : Nat) : State :=
  let mine (n : Notice) : Bool := n.child == .l2 st && n.part == part
  let l := s.notices.filter mine
  if l.isEmpty then s
  else l.foldl (fun s n => s.homeMerge n.line n.data n.dirty) { s with notices := s.notices.filter fun n => !mine n }

/-- A stack L2's dirty bytes of a partition, for the lines that meet a test, performed at their home. -/
def State.publishL2 (s : State) (st part : Nat) (p : Nat → Bool := fun _ => true) : State :=
  let s := s.drainL2 st part
  let mine (c : Copy) : Bool := c.unit == .l2 st && c.part == part && c.dirty ≠ 0 && p c.line
  let out := s.copies.filter mine
  if out.isEmpty then s
  else out.foldl (fun s c => s.homeMerge c.line c.data c.dirty)
    (s.mapCopies fun c => if mine c then { c with dirty := 0 } else c)

/-- L2 slices that a partition holds on a stack (R362). -/
def State.slicesOn (s : State) (p st : Nat) : Nat :=
  ((s.part? p).map (fun q => (q.slices.filter (· / 16 == st)).length)).getD 0

/-- Lines that a cache holds for a partition (R1, R363). -/
def State.capacity (s : State) (u : CacheId) (part : Nat) : Nat :=
  match u with
  | .l1 _ => 1024
  | .ck _ => 32768
  | .l2 st => 32768 * s.slicesOn part st

/-- The copies that compete with a new one of a partition in a cache. -/
def State.rivals (s : State) (u : CacheId) (part : Nat) : List Copy :=
  s.copies.filter fun c => c.unit == u && (match u with | .l2 _ => c.part == part | _ => true)

/-- The line that a full cache gives up for a new one: which, the spec leaves open, a free value (log entry
121). -/
def State.victimFor (s : State) (u : CacheId) (part line : Nat) : Option Nat × State :=
  let l := s.rivals u part
  if (s.copy? u line).isSome || l.length < s.capacity u part then (none, s)
  else
    let d := s.draw
    ((l[d.1.toNat % l.length]?).map (·.line), d.2)

/-- One level outward on the path of R219, for a line homed on a stack. -/
def Level.outward (home : Nat) : Level → Level
  | .l1 c => .ck (clusterOf c)
  | .ck k => .l2 (k / 16)
  | .l2 st => if st = home then .hbm else .home
  | .home => .hbm
  | .hbm => .hbm

/-- The caches that hold a line placed at a level; the cluster cache includes its L1s (R325). -/
def Level.units (home : Nat) : Level → List CacheId
  | .l1 c => [.l1 c, .ck (clusterOf c)]
  | .ck k => [.ck k]
  | .l2 st => [.l2 st]
  | .home => [.l2 home]
  | .hbm => []

/-- The level of a placed line after a cache that holds it has evicted it (R230). -/
def Level.after (home : Nat) (v : Level) (u : CacheId) : Level :=
  match v, u with
  | .l1 a, .l1 b => if a = b then .ck (clusterOf a) else v
  | .l1 a, .ck k => if clusterOf a = k then .l2 (k / 16) else v
  | .ck a, .ck k => if a = k then .l2 (k / 16) else v
  | .l2 a, .l2 b => if a = b then v.outward home else v
  | .home, .l2 b => if home = b then .hbm else v
  | v, _ => v

/-- A line's level changed, its state field kept (R230). -/
def State.relevel (s : State) (line : Nat) (v : Level) : State :=
  { s with lines := change (·.line == line) (fun l => { l with level := v }) s.lines }

/-- A copy that holds every sector of a line but those that stand in memory alone, with an error outstanding there
(R241): held are the sectors that the caches had. -/
def State.fullCopy (s : State) (line : Nat) (held : BitVec 4) (data : BitVec 2048) (c : Copy) : Copy :=
  let sectors := if s.errors.isEmpty then 0xF
    else (List.range 4).foldl (fun m k => if !held.getLsbD k && s.tainted line k then m else m ||| (1#4 <<< k)) 0
  { c with sectors := sectors, data := data, dirty := 0, excl := 0 }

/-- The sectors of a line that the copy nearest its coherence point holds. -/
def State.heldSectors (s : State) (line : Nat) : BitVec 4 := ((s.holder? line).map (·.sectors)).getD 0

/-- Room made for a line in a stack L2's slices of a partition: where they are full, a line leaves as a function
says (R1). -/
def State.freeL2 (s : State) (part st line : Nat) (leave : State → Nat → State) : State :=
  let r := s.victimFor (.l2 st) part line
  match r.1 with
  | some w => leave r.2 w
  | none => r.2

/-- A placed line's data in memory alone. -/
def State.sinkLine (s : State) (l : LineState) (held : BitVec 4) (data : BitVec 2048) : State :=
  (s.homeMerge l.line data (sectorMask held)).relevel l.line .hbm

/-- A stack L2 gives up a line: its dirty bytes travel with its notice, after what else the slices hold dirty has
been performed at home (R329). A placed line that it held where it is coherent goes on as a function says, with
the sectors that caches held and its data. -/
def State.leaveL2 (s : State) (st line : Nat) (move : State → LineState → BitVec 4 → BitVec 2048 → State) : State :=
  match s.copy? (.l2 st) line with
  | none => s
  | some c =>
    let held := s.heldSectors line
    let data := s.homeLine line
    let s := if c.dirty = 0 then s else s.publishL2 st c.part (· ≠ line)
    let s := (s.dropCopies fun d => d.unit == .l2 st && d.line == line).sendNotice c
    match s.line? line with
    | none => s
    | some l => if l.level.after (homeOf line) (.l2 st) = l.level then s else move s l held data

/-- A line that leaves a stack L2 for its memory. -/
def State.dropL2 (s : State) (st line : Nat) : State := s.leaveL2 st line State.sinkLine

/-- A stack L2 evicts a line: a placed line's data moves one level outward (R230), whatever its share there holds
(log entry 136). Where a chain of such moves comes back to full slices, it ends in memory (log entry 121). -/
def State.evictL2 (s : State) (st line : Nat) : Nat → State
  | 0 => s.dropL2 st line
  | fuel + 1 => s.leaveL2 st line fun s l held data =>
    let home := homeOf line
    if l.level.after home (.l2 st) ≠ .home || s.capacity (.l2 home) l.part = 0 then s.sinkLine l held data
    else
      let s := s.freeL2 l.part home line fun s w => s.evictL2 home w fuel
      let s := (s.freeL2 l.part home line fun s w => s.dropL2 home w).readSectors line held
      (s.modCopy (.l2 home) line (s.fullCopy line held data) l.part).relevel line .home

/-- A stack L2's copy changed or made, a line evicted where the slices are full (R1, R230). A partition without a
slice on the stack keeps nothing there. -/
def State.putL2 (s : State) (part st line : Nat) (f : Copy → Copy) : State :=
  if s.capacity (.l2 st) part = 0 then s
  else
    let s := s.freeL2 part st line fun s w => s.evictL2 st w 2
    let s := s.freeL2 part st line fun s w => s.dropL2 st w
    s.modCopy (.l2 st) line f part

/-! ## The clusters (R312, R326) -/

/-- A cluster's dirty bytes of one line moved to its stack's L2, or to the home when that is the same
slice. -/
def State.pushOut (s : State) (k line : Nat) (data : BitVec 2048) (dirty : BitVec 256) : State :=
  if dirty = 0 then s
  else if k / 16 = homeOf line || s.capacity (.l2 (k / 16)) (s.clusterPart k) = 0 then s.homeMerge line data dirty
  else s.putL2 (s.clusterPart k) (k / 16) line fun d =>
    { d with data := overlay d.data data dirty, dirty := d.dirty ||| dirty }

/-- The directory of a child's parent applies a notice: the dirty bytes it carries move outward. An L1's have
stood in the cluster cache since they were written (R325). -/
def State.applyNotice (s : State) (n : Notice) : State :=
  match n.child with
  | .l1 _ => s
  | .ck k => s.pushOut k n.line n.data n.dirty
  | .l2 _ => s.homeMerge n.line n.data n.dirty

/-- The notices that meet a test applied in their order (R329). -/
def State.drain (s : State) (p : Notice → Bool) : State :=
  let l := s.notices.filter p
  if l.isEmpty then s else l.foldl State.applyNotice { s with notices := s.notices.filter fun n => !p n }

/-- A cluster's dirty bytes of the lines that meet a test performed at scope S, after the notices it has in
flight; its copies stay, clean. -/
def State.publishCluster (s : State) (k : Nat) (p : Nat → Bool := fun _ => true) : State :=
  let s := s.drain fun n => unitCluster n.child == some k
  let out := s.copies.filter fun c => c.unit == .ck k && c.dirty ≠ 0 && p c.line
  if !(s.copies.any fun c => unitCluster c.unit = some k && c.dirty ≠ 0 && p c.line) then s
  else out.foldl (fun s c => s.pushOut k c.line c.data c.dirty)
    (s.mapCopies fun c => if unitCluster c.unit = some k && p c.line then { c with dirty := 0 } else c)

/-- The clusters of a stack. -/
def stackClusters (st : Nat) : List Nat := (List.range 16).map (st * 16 + ·)

/-- The clusters that hold dirty bytes of the lines that meet a test, or have sent them in a notice. -/
def State.dirtyClusters (s : State) (p : Nat → Bool) : List Nat :=
  (List.range 128).filter fun k =>
    (s.copies.any fun c => c.unit == .ck k && c.dirty ≠ 0 && p c.line) ||
      s.notices.any fun n => n.child == .ck k && n.dirty ≠ 0 && p n.line

/-- The stack L2s, by stack and partition, that hold dirty bytes of the lines that meet a test, or have sent them in a
notice. -/
def State.dirtyL2 (s : State) (p : Nat → Bool) : List (Nat × Nat) :=
  let of (u : CacheId) (line part : Nat) (dirty : BitVec 256) : Option (Nat × Nat) := match u with
    | .l2 st => if dirty ≠ 0 && p line then some (st, part) else none
    | _ => none
  s.copies.filterMap (fun c => of c.unit c.line c.part c.dirty) ++
    s.notices.filterMap fun n => of n.child n.line n.part n.dirty

/-- A cluster's writes performed at scope D, of every line: what its stack's L2 holds for the partition goes first
(R322). -/
def State.performCluster (s : State) (k : Nat) : State :=
  (s.publishCluster k).publishL2 (k / 16) (s.clusterPart k)

/-- Every dirty byte of the lines that meet a test brought to the home, with all that must go before it in its
holders (R322): what stands further out first. -/
def State.publishLines (s : State) (p : Nat → Bool) : State :=
  if s.copies.any (fun c => c.dirty ≠ 0 && p c.line) || s.notices.any fun n => n.dirty ≠ 0 && p n.line then
    let ks := s.dirtyClusters p
    ks.foldl State.performCluster ((s.dirtyL2 p).foldl (fun s q => s.publishL2 q.1 q.2) s)
  else s

/-- Whatever a partition's caches and notices hold brought to the homes (R312, R322). -/
def State.quiesce (s : State) (part : Nat) : State :=
  let s := s.drain fun n => n.part == part
  let ks := (s.dirtyClusters fun _ => true).filter fun k => s.clusterPart k == part
  let s := ks.foldl (fun s k => s.publishCluster k) s
  (List.range 8).foldl (fun s st => s.publishL2 st part) s

/-- Whatever stands in caches and notices brought to the homes, of every partition. -/
def State.quiesceAll (s : State) : State := (s.drain fun _ => true).publishLines fun _ => true

/-- A release at a scope by a core (R312, R313, R321): scopes C and K hold at once; S empties the cluster's
dirty masks and notices into its stack, D and Y the stack's into the homes. -/
def State.release (s : State) (core scope : Nat) : State :=
  if scope ≤ 2 then s
  else
    let s := s.publishCluster (clusterOf core)
    if scope = 3 then s else s.publishL2 (stackOf core) (s.clusterPart (clusterOf core))

/-- What a core's cluster holds dirty besides some bytes, by line, performed at scope S, and for a wider scope what its
stack's L2 then holds besides them at the homes (R313, R321; log entry 123). -/
def State.releaseOthers (s : State) (core scope : Nat) (own : Sparse (BitVec 256)) : State :=
  if scope ≤ 2 then s
  else
    let k := clusterOf core
    let st := stackOf core
    let part := s.clusterPart k
    let keep (c : Copy) : Copy := { c with dirty := c.dirty &&& sget 0 own c.line }
    let rest (c : Copy) : BitVec 256 := c.dirty &&& ~~~(sget 0 own c.line)
    let s := s.drain fun n => unitCluster n.child == some k
    let s := (s.copies.filter (·.unit == .ck k)).foldl (fun s c => s.pushOut k c.line c.data (rest c))
      (s.mapCopies fun c => if unitCluster c.unit = some k then keep c else c)
    if scope = 3 then s
    else
      let s := s.drainL2 st part
      let mine (c : Copy) : Bool := c.unit == .l2 st && c.part == part
      (s.copies.filter mine).foldl (fun s c => s.homeMerge c.line c.data (rest c)) (s.mapCopies fun c => if mine c then keep c else c)

/-- Whether a release at a scope by a core has nothing to move of some bytes, by line: none of them is dirty in a cache
on the way or in a notice. -/
def State.released (s : State) (core scope : Nat) (own : Sparse (BitVec 256)) : Bool :=
  let near (u : CacheId) (part : Nat) : Bool :=
    unitCluster u == some (clusterOf core) ||
      (scope != 3 && u == .l2 (stackOf core) && part == s.clusterPart (clusterOf core))
  scope ≤ 2 ||
    ((s.copies.all fun c => !(c.dirty &&& sget 0 own c.line ≠ 0 && near c.unit c.part)) &&
      s.notices.all fun n => !(n.dirty &&& sget 0 own n.line ≠ 0 && near n.child n.part))

/-- The sectors of a line that a cluster owns exclusively (R325, R328). -/
def State.ownedBy (s : State) (k line : Nat) : BitVec 4 := ((s.copy? (.ck k) line).map (·.excl)).getD 0

/-- The clean sectors of unplaced lines dropped from the copies that meet a test; dirty bytes stay, and so do
the sectors that the cluster owns (R312). -/
def State.discard (s : State) (p : Copy → Bool) : State :=
  s.mapCopies fun c =>
    if p c && (s.line? c.line).isNone then
      let keep := match unitCluster c.unit with
        | some k => s.ownedBy k c.line
        | none => 0
      { c with sectors := c.sectors &&& keep, excl := c.excl &&& keep }
    else c

/-- What the clusters of a stack hold dirty for a partition performed at scope S. -/
def State.publishStack (s : State) (st part : Nat) : State :=
  let mine (k : Nat) : Bool := k / 16 == st && s.clusterPart k == part
  ((s.dirtyClusters fun _ => true).filter mine).foldl (fun s k => s.publishCluster k) s

/-- An acquire at a scope by a core (R312). What the cores of its partition within the scope hold dirty is performed
there first: among it are the writes that happen before the acquire's own release, which a later release by this
core makes cumulative (R315, R321; log entry 120). -/
def State.acquire (s : State) (core scope : Nat) : State :=
  let part := s.clusterPart (clusterOf core)
  if scope ≤ 2 then s
  else (if scope = 3 then s.publishStack (stackOf core) part else s.quiesce part).discard fun c =>
    unitCluster c.unit = some (clusterOf core) ||
      (4 ≤ scope && c.unit == .l2 (stackOf core) && homeOf c.line ≠ stackOf core) ||
      (scope = 5 && c.unit == .l2 0 && c.line * 256 / 2 ^ 49 % 2 = 1)

/-- An edge from one core to another at scope D, where both cores are not the same (R320). -/
def State.handOver (s : State) (from_ to_ : Nat) : State :=
  if from_ = to_ then s else (s.release from_ 4).acquire to_ 4

/-! ## Evictions and crossings (R329, R330) -/

/-- The notices of a list that come up to the last one about a line. -/
def upToLine (line : Nat) : List Notice → List Notice
  | [] => []
  | n :: ns => if n.line = line || !(upToLine line ns).isEmpty then n :: upToLine line ns else []

/-- A request for a line waits until the notices in flight about it have been applied (R330). -/
def State.settle (s : State) (line : Nat) : State :=
  let l := upToLine line s.notices
  if l.isEmpty then s
  else l.foldl State.applyNotice { s with notices := s.notices.drop l.length }

/-- A cache of a cluster evicts a line: a cluster cache first evicts it from its L1s; what else the cluster
holds dirty is performed at scope S before dirty bytes leave (log entry 120). A placed line's data moves
one level outward (R230, R329), whatever its share there holds (log entry 136). -/
def State.evictNear (s : State) (u : CacheId) (k line : Nat) : State :=
  match s.copy? u line with
  | none => s
  | some c =>
    let whole := u == .ck k
    let held := c.sectors ||| s.heldSectors line
    let data := overlay (s.homeLine line) c.data (sectorMask c.sectors)
    let s := if whole && c.dirty ≠ 0 then s.publishCluster k (· ≠ line) else s
    let inner := if whole then s.copies.filter fun d => d.unit != u && unitCluster d.unit == some k && d.line == line else []
    let s := s.dropCopies fun d => d.line == line && (d.unit == u || (whole && unitCluster d.unit == some k))
    let s := (inner.foldl State.sendNotice s).sendNotice c
    match s.line? line with
    | none => s
    | some l =>
      let v := l.level.after (homeOf line) u
      if v = l.level then s
      else
        let s := s.relevel line v
        let s := s.readSectors line held
        match v with
        | .ck j => s.modCopy (.ck j) line (s.fullCopy line held data) l.part
        | .l2 st =>
          if s.capacity (.l2 st) l.part = 0 then s.homeMerge line data (sectorMask held)
          else s.putL2 l.part st line (s.fullCopy line held data)
        | _ => s

/-- A copy evicted for capacity (R230, R329). -/
def State.evict (s : State) (u : CacheId) (line : Nat) : State :=
  match u with
  | .l1 c => s.evictNear u (clusterOf c) line
  | .ck k => s.evictNear u k line
  | .l2 st => s.evictL2 st line 2

/-- A copy changed or made, a line evicted where the cache is full (R1, R230). -/
def State.put (s : State) (part : Nat) (u : CacheId) (line : Nat) (f : Copy → Copy) : State :=
  match u with
  | .l2 st => s.putL2 part st line f
  | _ =>
    let r := s.victimFor u part line
    let s := match r.1 with
      | some w => r.2.evict u w
      | none => r.2
    s.modCopy u line f part

/-! ## Directories (R327) -/

/-- Whether a cache, or a notice of it still in flight, is a holder of a line for its directory. -/
def State.holds (s : State) (p : CacheId → Bool) (line : Nat) : Bool :=
  (s.copies.any fun c => p c.unit && c.line == line) || s.notices.any fun n => p n.child && n.line == line

/-- Whether a cache holds writes of a line not yet performed further out. -/
def State.holdsDirty (s : State) (p : CacheId → Bool) (line : Nat) : Bool :=
  s.copies.any fun c => c.dirty ≠ 0 && c.line == line && p c.unit

/-- What a die directory tracks of a line: the clusters that hold it, those with a modified sector, and the
stack L2's copy. -/
def State.dieClusters (s : State) (st line : Nat) : List Nat :=
  (stackClusters st).filter fun k => s.holds (fun u => unitCluster u == some k) line
def State.dieModified (s : State) (st line : Nat) : List Nat :=
  (stackClusters st).filter fun k => s.holdsDirty (· == .ck k) line

/-- What the package directory tracks of a line besides its set: the stacks that hold it, and those that may
hold writes not performed at scope D. -/
def State.packageStacks (s : State) (line : Nat) : List Nat :=
  (List.range 8).filter fun st => s.holds (fun u => unitStack u == st) line
def State.packageDirty (s : State) (line : Nat) : List Nat :=
  (List.range 8).filter fun st => s.holdsDirty (fun u => unitStack u == st) line

/-! ## Forced publishes (R322, R323) -/

/-- Whether the forced publish that a read of a line sent to a holder has passed the drain deadline. -/
def State.overdue (s : State) (core : Nat) (u : CacheId) (line : Nat) : Bool :=
  s.publishes.any fun q => q.reader == core && q.holder == u && q.line == line && q.stage == .late

/-- The cluster's writes performed at scope S for a read of a line by a core; past the drain deadline the read
is served nonetheless, with the line's own bytes (R323). -/
def State.publishFor (s : State) (core line k : Nat) : State :=
  if s.overdue core (.ck k) line then s.publishCluster k (· == line) else s.publishCluster k

/-- Other clusters of a core's stack that hold dirty bytes of a line: each performs its writes at scope S before
the read is served (R322). -/
def State.promoteStack (s : State) (core line : Nat) : State :=
  ((s.dieModified (stackOf core) line).filter (· ≠ clusterOf core)).foldl (fun s k => s.publishFor core line k) s

/-- Other stacks hold writes to a line not yet at its home; each performs its writes at scope D before the read
is served (R322). -/
def State.promoteDevice (s : State) (core line : Nat) : State :=
  ((s.packageDirty line).filter (· ≠ stackOf core)).foldl (init := s) fun s st =>
    let part := s.clusterPart (clusterOf core)
    let s := (s.dieModified st line).foldl (fun s k => s.publishFor core line k) s
    if s.overdue core (.l2 st) line then s.publishL2 st part (· == line) else s.publishL2 st part

/-- The holders that a read of n bytes by a core would take a value from that they have not performed at a
scope common to both (R322). An atomic takes its value where the line is coherent, whatever clean copies stand nearer
(R307). -/
def State.publishersOf (s : State) (core pa : Nat) (atomic : Bool) : List CacheId :=
  let line := pa / 256
  let sec := pa % 256 / 64
  let served (u : CacheId) : Bool := match s.copy? u line with
    | some c => c.sectors.getLsbD sec
    | none => false
  if !atomic && (served (.l1 core) || served (.ck (clusterOf core))) then []
  else
    let near := ((s.dieModified (stackOf core) line).filter (· ≠ clusterOf core)).map CacheId.ck
    if !atomic && stackOf core ≠ homeOf line && served (.l2 (stackOf core)) then near
    else
      near ++ ((s.packageDirty line).filter (· ≠ stackOf core)).flatMap fun st =>
        (s.dieModified st line).map CacheId.ck ++ (if s.holdsDirty (· == .l2 st) line then [CacheId.l2 st] else [])

/-- The forced publishes that a read of a line waited for are over once it is served. -/
def State.endPublishes (s : State) (core line : Nat) : State :=
  { s with publishes := s.publishes.filter fun q => !(q.reader == core && q.line == line) }

/-! ## Loads -/

/-- One sector of a line filled into a cache (R324). -/
def State.fillSector (s : State) (part : Nat) (u : CacheId) (line sec : Nat) (data : BitVec 2048) : State :=
  if s.tainted line sec then s else s.put part u line (·.fill sec data)

/-- The exclusive ownership of a sector by any other cluster, or by another L1 of the cluster, ends when a core
takes a copy (R324, R325). -/
def State.share (s : State) (core line sec : Nat) : State :=
  s.mapCopies fun c =>
    let other := match c.unit with
      | .l1 k => k ≠ core
      | .ck k => k ≠ clusterOf core
      | .l2 _ => true
    if other && c.line == line then { c with excl := c.excl &&& ~~~(1#4 <<< sec) } else c

/-- The line data with the dirty bytes a copy holds. -/
def State.dirtyOver (s : State) (u : CacheId) (line : Nat) (data : BitVec 2048) : BitVec 2048 :=
  match s.copy? u line with
  | some c => overlay data c.data c.dirty
  | none => data

/-- A line as a stack's L2 serves it to a core, the sector filled there (R219, R322). -/
def State.stackLine (s : State) (core line sec : Nat) : BitVec 2048 × State :=
  let st := stackOf core
  let part := s.clusterPart (clusterOf core)
  let s := (s.settle line).promoteStack core line
  let held := match s.copy? (.l2 st) line with
    | some c => if st ≠ homeOf line && c.sectors.getLsbD sec then some c.data else none
    | none => none
  match held with
  | some d => (d, s)
  | none =>
    let s := s.promoteDevice core line
    let home := s.homeLine line
    let data := s.dirtyOver (.l2 st) line home
    let s := s.fillSector part (.l2 (homeOf line)) line sec home
    let s := if st = homeOf line then s else s.fillSector part (.l2 st) line sec data
    (data, s)

/-- A line as a core's cluster cache serves it, the sector filled there (R325). -/
def State.clusterLine (s : State) (core line sec : Nat) : BitVec 2048 × State :=
  let u := CacheId.ck (clusterOf core)
  let part := s.clusterPart (clusterOf core)
  match s.copy? u line with
  | some c =>
    if c.sectors.getLsbD sec then (c.data, s)
    else
      let r := s.stackLine core line sec
      (r.2.dirtyOver u line r.1, r.2.fillSector part u line sec r.1)
  | none =>
    let r := s.stackLine core line sec
    (r.1, r.2.fillSector part u line sec r.1)

/-- n bytes of a line from the cluster cache, the sector filled into the core's L1. -/
def State.loadFar (s : State) (core pa n : Nat) : Nat × State :=
  let line := pa / 256
  let i := pa % 256
  let r := s.clusterLine core line (i / 64)
  (r.1.toNat >>> (8 * i) % 256 ^ n,
    ((r.2.share core line (i / 64)).fillSector (r.2.clusterPart (clusterOf core)) (.l1 core) line (i / 64) r.1).endPublishes
      core line)

/-- n bytes at a physical address as a load by a core reads them, filling the caches on the way. The bytes lie
in one sector. A page of host bias is read at the home and cached no nearer (R332). -/
def State.loadBytes (s : State) (core pa n : Nat) (hostBias : Bool) : Nat × State :=
  let line := pa / 256
  let i := pa % 256
  if hostBias then (s.homeBytes pa n, s)
  else
    match (s.copy? (.l1 core) line), (s.copy? (.ck (clusterOf core)) line) with
    | some c, _ => if c.hasAll i n then (c.get i n, s) else s.loadFar core pa n
    | none, some c => if c.hasAll i n && !c.sectors.getLsbD (i / 64) then (c.get i n, s) else s.loadFar core pa n
    | none, none => s.loadFar core pa n

/-- The clean copies of an unplaced line near a core dropped, so that the next load reads it afresh; what the
cluster owns exclusively stays, since nobody else writes it (R307, R312). A placed line is coherent where it is
(R228). -/
def State.refresh (s : State) (core line : Nat) : State :=
  s.discard fun c => c.line == line && (unitCluster c.unit = some (clusterOf core) ||
    (c.unit == .l2 (stackOf core) && homeOf line ≠ stackOf core))

/-! ## Placement (R219, R229, R416) -/

/-- The placement level that a declared set fixes (R219). -/
def levelFor (set : List Nat) : Level :=
  match set with
  | [] => .home
  | c :: cs =>
    if cs.isEmpty then .l1 c
    else if cs.all (clusterOf · == clusterOf c) then .ck (clusterOf c)
    else if cs.all (stackOf · == stackOf c) then .l2 (stackOf c)
    else .home

/-- The stack whose L2 slices a level occupies, for a line homed on a stack. -/
def Level.l2Stack (home : Nat) : Level → Option Nat
  | .l2 st => some st
  | .home => some home
  | _ => none

/-- Whether a partition may place one more line at a level (R229). -/
def State.room (s : State) (p line : Nat) (v : Level) : Bool :=
  let others := s.lines.filter fun l => l.part == p && l.line != line
  match v with
  | .l1 _ => (others.filter (·.level == v)).length < 256
  | .ck _ => (others.filter (·.level == v)).length < 16384
  | .hbm => true
  | _ =>
    match v.l2Stack (homeOf line) with
    | some st =>
      (others.filter fun l => l.level.l2Stack (homeOf l.line) == some st).length < 16384 * s.slicesOn p st
    | none => true

/-- The level where a placement lands, and whether it was demoted (R229). -/
def State.landing (s : State) (p line : Nat) : Nat → Level → Level × Bool
  | 0, v => (v, false)
  | fuel + 1, v =>
    if s.room p line v then (v, false) else ((s.landing p line fuel (v.outward (homeOf line))).1, true)

/-- The counter of placements at a level (R244). -/
def Level.counter : Level → Option Counter
  | .l1 _ => some .plc1 | .ck _ => some .plck | .l2 _ => some .plcs | .home => some .plch | .hbm => none

/-- A line's data, complete at its coherence point, put at the level of its set under R219 and R229, and
dropped everywhere else; the placement is counted under R416. Host-bias lines go no nearer than the home L2
(R332). -/
def State.place (s : State) (p line : Nat) (set : List Nat) (sticky hostBias : Bool) : State :=
  let want := levelFor set
  let wantB := if hostBias && want ≠ .home then Level.home else want
  let land := s.landing p line 5 wantB
  let old := s.line? line
  let moved := match old with
    | some l => l.level != land.1
    | none => true
  let held := s.heldSectors line
  let s := if land.1 = .hbm then s else s.readSectors line held
  let data := s.homeLine line
  let s := s.dropCopies (·.line == line)
  let s := if land.1 = .hbm then s.homeMerge line data (sectorMask held) else s
  let s := (land.1.units (homeOf line)).foldr (fun u s => s.put p u line (s.fullCopy line held data)) s
  let s := { s with
    lines := upsert (·.line == line)
      { line := line, readers := [], sticky := false, level := .home, part := p }
      (fun l => { l with readers := set, sticky := sticky, level := land.1, part := p }) s.lines }
  let s := if land.2 || wantB ≠ want then s.count p .demo else s
  match land.1.counter with
  | some k => if moved then s.count p k else s
  | none => s

/-- A line becomes home again: its data stays where it is (R237). What a cache held for the set stands in memory
too, where soft errors met since are written over with it. -/
def State.unplace (s : State) (line : Nat) : State :=
  let s := if s.errors.isEmpty then s else s.homeMerge line (s.homeLine line) (sectorMask (s.heldSectors line))
  { s with lines := s.lines.filter (·.line != line) }

/-! ## Reader-set descriptors (R225, R226) -/

/-- Cores of a partition. -/
def State.coresOf (s : State) (p : Nat) : List Nat :=
  (((s.part? p).map (·.clusters)).getD []).flatMap clusterCores

/-- Bits of a mask as numbers. -/
def maskList (n : Nat) (m : Nat) : List Nat := (List.range n).filter fun i => m.testBit i

/-- A descriptor's access-fault cause for a partition: 3 illegal, 4 outside the partition (R226). -/
def State.descCause (s : State) (p : Nat) (d : Word) : Option Nat :=
  let kind := (d.extractLsb' 29 3).toNat
  let sel := (d.extractLsb' 0 16).toNat
  let resv := d.extractLsb' 19 8 ≠ 0 || (kind ≠ 3 && d.extractLsb' 16 3 ≠ 0)
  let clusters := ((s.part? p).map (·.clusters)).getD []
  let st := (d.extractLsb' 16 3).toNat
  match kind with
  | 0 => if d = 0 then none else some 3
  | 1 =>
    if resv || 1024 ≤ sel then some 3
    else if clusters.contains (clusterOf sel) then none else some 4
  | 2 =>
    if resv || 2 ^ 15 ≤ sel || sel % 256 = 0 then some 3
    else if clusters.contains (sel / 256) then none else some 4
  | 3 =>
    if resv || sel = 0 then some 3
    else if (maskList 16 sel).all fun i => clusters.contains (st * 16 + i) then none else some 4
  | 4 =>
    if resv || 256 ≤ sel || sel = 0 then some 3
    else if (maskList 8 sel).all fun i => clusters.any (· / 16 == i) then none else some 4
  | _ => some 3

/-- A list of cores in rising order without repeats. -/
def coreSet (l : List Nat) : List Nat := (List.range 1024).filter l.contains

/-- The set a legal descriptor resolves to for a writer (R226); none for home. -/
def State.resolveSet (s : State) (p core : Nat) (d : Word) : Option (List Nat) :=
  let sel := (d.extractLsb' 0 16).toNat
  let st := (d.extractLsb' 16 3).toNat
  let own := s.coresOf p
  let base := match (d.extractLsb' 29 3).toNat with
    | 1 => [sel % 1024]
    | 2 => (maskList 8 (sel % 256)).map (coreAt (sel / 256))
    | 3 => own.filter fun c => stackOf c == st && sel.testBit (clusterOf c % 16)
    | _ => own.filter fun c => sel.testBit (stackOf c)
  if d = 0 then none else some (coreSet (if d.getLsbD 28 then core :: base else base))

/-! ## Stores (R223, R227) -/

/-- Whether a cluster other than a core's owns a line exclusively. -/
def State.ownedElsewhere (s : State) (core line : Nat) : Bool :=
  s.copies.any fun c => c.line == line && c.excl ≠ 0 && (match c.unit with | .ck k => k ≠ clusterOf core | _ => false)

/-- A write to a line that another cluster owns exclusively: the owner's dirty bytes are written outward first,
and it owns the line no longer (R328; log entry 120). -/
def State.claim (s : State) (core line : Nat) : State :=
  if s.ownedElsewhere core line then
    (s.publishLines (· == line)).mapCopies fun c => if c.line == line then { c with excl := 0 } else c
  else s

/-- A store with a home set to an unplaced line: it stays in the writer's L1 and cluster cache, whose other L1s
lose the sector before the cluster cache grants it to the writer (R219, R325). -/
def State.storeNear (s : State) (core pa n v : Nat) : State :=
  let line := pa / 256
  let i := pa % 256
  let part := s.clusterPart (clusterOf core)
  let w (c : Copy) : Copy :=
    { c with data := patch c.data i n v, dirty := c.dirty ||| maskBits 256 i n }
  let s := (s.claim core line).mapCopies fun c =>
    match c.unit with
    | .l1 k =>
      if k ≠ core && clusterOf k = clusterOf core && c.line = line then
        { c with
          sectors := c.sectors &&& ~~~(1#4 <<< (i / 64))
          excl := c.excl &&& ~~~(1#4 <<< (i / 64))
          dirty := c.dirty &&& ~~~(maskBits 256 (i / 64 * 64) 64) }
      else c
    | _ => c
  let s := s.put part (.ck (clusterOf core)) line w
  let owned := s.ownedBy (clusterOf core) line
  s.put part (.l1 core) line fun c => { w c with excl := c.excl ||| (owned &&& (1#4 <<< (i / 64))) }

/-- ApplySet with the store's bytes (R227): n bytes at a physical address and the set they carry. -/
def State.storeBytes (s : State) (p core pa n v : Nat) (desc : Word) (hostBias : Bool) : State :=
  let line := pa / 256
  let s := s.settle line
  match s.resolveSet p core desc with
  | some set =>
    let s := s.publishLines (· == line)
    (s.writeThrough pa n v).place p line set (desc.getLsbD 27) hostBias
  | none =>
    match s.line? line with
    | some l =>
      if l.sticky then (s.writeThrough pa n v).place p line l.readers true hostBias
      else
        let s := s.unplace line
        if hostBias then s.writeThrough pa n v else s.storeNear core pa n v
    | none => if hostBias then s.writeThrough pa n v else s.storeNear core pa n v

/-! ## Atomics (R307, R308) -/

/-- Exclusive ownership of sectors of an unplaced line for a core: every dirty byte of the line is written
outward, every other copy is invalidated at every level, and the core's caches take the sectors (R328). -/
def State.own (s : State) (core line : Nat) (secs : BitVec 4) : State :=
  let s := (s.settle line).publishLines (· == line)
  let data := s.homeLine line
  let part := s.clusterPart (clusterOf core)
  let s := s.dropCopies fun c => c.line == line
  let take (s : State) (u : CacheId) : State :=
    (List.range 4).foldl (fun s k => if secs.getLsbD k then s.fillSector part u line k data else s) s
  (take (take s (.ck (clusterOf core))) (.l1 core)).mapCopies fun c =>
    if c.line == line && unitCluster c.unit = some (clusterOf core) then { c with excl := c.sectors } else c

/-- Whether a core's cluster owns the sector of n bytes exclusively and holds them (R325, R328). -/
def State.ownsBytes (s : State) (core pa n : Nat) : Bool :=
  match s.copy? (.ck (clusterOf core)) (pa / 256) with
  | some c => c.excl.getLsbD (pa % 256 / 64) && c.hasAll (pa % 256) n
  | none => false

/-- The bytes that a core's cluster cache holds, else those at the home. -/
def State.nearBytes (s : State) (core pa n : Nat) : Nat :=
  match s.copy? (.ck (clusterOf core)) (pa / 256) with
  | some c => if c.hasAll (pa % 256) n then c.get (pa % 256) n else s.homeBytes pa n
  | none => s.homeBytes pa n

/-- One indivisible read-modify-write of n bytes by a core: the old value and the state after. A function that
gives no new value writes nothing (R306, R307). -/
def State.rmw (s : State) (core pa n : Nat) (hostBias : Bool) (f : Nat → Option Nat) : Nat × State :=
  let line := pa / 256
  if hostBias || (s.line? line).isSome then
    let s := s.settle line
    let old := s.homeBytes pa n
    match f old with
    | some v => (old, s.writeThrough pa n v)
    | none => (old, s)
  else
    let s := (if s.ownsBytes core pa n then s else s.own core line (1#4 <<< (pa % 256 / 64))).endPublishes core line
    let old := s.nearBytes core pa n
    match f old with
    | some v => (old, s.storeNear core pa n v)
    | none => (old, s)

/-! ## Lookups that change nothing -/

/-- One byte as a core sees it now, without filling a cache: what a fetch of instructions reads, which
is not coherent with stores (R334), its soft errors corrected where they can be (R241). -/
def State.peekByte (s : State) (core pa : Nat) : Byte :=
  let line := pa / 256
  let i := pa % 256
  let from_ (u : CacheId) : Option Byte :=
    (s.copy? u line).bind fun c => if c.has i then some (BitVec.ofNat 8 (c.get i 1)) else none
  ((from_ (.ck (clusterOf core))).orElse fun _ => from_ (.l2 (stackOf core))).getD (s.soundByte pa)

/-- The distance of a byte's line from a core, as LOCATE reports it (R234). -/
def State.distance (s : State) (core pa : Nat) : Nat :=
  let line := pa / 256
  let i := pa % 256
  let held (p : CacheId → Bool) : Bool := s.copies.any fun c => p c.unit && c.line == line && c.has i
  if (s.line? line).isNone then 6
  else if held (· == .l1 core) then 1
  else if held fun u => unitCluster u = some (clusterOf core) then 2
  else if held fun u => unitStack u == stackOf core then 3
  else if held fun _ => true then 4
  else 5

end Sys2Proof.Machine
end

