-- ==== Sys2Proof/Machine/Translate.lean ====
section
/-!
DEFINITION. Address translation (R331 to R341): page-table entries, walks, the translations held, fault
records, and whether a frame is the partition's (R363, R367).
-/

namespace Sys2Proof.Machine

/-- What an access needs of its page. A revision is checked as a write and leaves D alone (R237); any
needs only a valid leaf (R239). An atomic reads and writes (R307). -/
inductive Access where
  | read | write | fetch | revise | any | rmw
  deriving DecidableEq, Repr

/-- Whether an access stores, so that the page needs D set (R336). -/
def Access.stores (a : Access) : Bool := a == .write || a == .rmw

/-- Pages that a leaf maps at a level (R335). -/
def leafPages (level : Nat) : Nat := 2048 ^ level

/-- Whether an entry is malformed (cause 4 of R337) at a level; leaves stand at levels 0 to 2. -/
def pteMalformed (e : DWord) (level : Nat) : Bool :=
  pteReserved e || pteProt e = 3 || (level = 0 && !pteLeaf e) || (level = 3 && pteLeaf e) ||
    (pteLeaf e && pteAddr e % (65536 * leafPages level) ≠ 0) || (pteLeaf e && pteSide e && pteProt e = 0) ||
    (!pteLeaf e && pteSide e)

/-- Whether a physical frame address lies outside memory (cause 5 of R337). -/
def outsideMemory (pa : Nat) : Bool :=
  pa / 2 ^ 49 % 2 = 0 && (pa / 2 ^ 41 ≠ 0 || 80000000000 ≤ pa % 2 ^ 37)

/-! ## Memory at scope D -/

/-- Bytes of memory at scope D, for an engine, the command processor, a walker or firmware: writes still in
caches and notices are brought home first (R322, R330), and soft errors met are seen to for the partition whose memory
it is (R241). -/
def State.readCoherent (s : State) (pa n : Nat) : Nat × State :=
  let lo := pa / 256
  let hi := (pa + n - 1) / 256
  let s := ((List.range (hi - lo + 1)).foldl (fun s k => s.settle (lo + k)) s).publishLines fun line => lo ≤ line && line ≤ hi
  if s.errors.isEmpty then (s.homeBytes pa n, s)
  else
    let s := s.meetErrors ((s.ownerOf pa).getD 0) (s.protOf pa) pa n
    (s.soundBytes pa n, s)

/-- n bytes of a line written by an engine, the host or a peer at its home (R219, R332): a placed line
stays where it is, other copies are dropped. -/
def State.writeCoherent (s : State) (pa n v : Nat) : State :=
  let line := pa / 256
  let s := (s.settle line).publishLines (· == line)
  if (s.line? line).isSome then s.writeThrough pa n v
  else (s.homeWrite pa n v).dropCopies fun c => c.line == line && c.unit != .l2 (homeOf line)

/-! ## Walks -/

/-- A leaf found for a page: the entry, its first page and its pages, and where it stands. -/
structure Leaf where
  entry : DWord
  page : Nat
  pages : Nat
  at_ : Nat
  deriving DecidableEq, Repr

/-- What a walk finds; held where a table's stack is being reset (R373). -/
inductive WalkResult where
  | leaf (l : Leaf)
  /-- The cause, and the leaf when it is a malformed one. -/
  | fault (cause : Nat) (bad : Option DWord)
  | violation
  | held
  deriving DecidableEq, Repr

/-- The walk from a table at a level down, its entries read at scope D (R335, R337, R338, R367). -/
def State.walkFrom (s : State) (p page : Nat) : Nat → Nat → WalkResult × State
  | 0, _ => (.fault 4 none, s)
  | level + 1, table =>
    if !s.owns p table then (.violation, s)
    else if !s.homeUp table then (.held, s)
    else
      let idx := page / 2048 ^ level % 2048
      let r := s.readCoherent (table + 8 * idx) 8
      let e := BitVec.ofNat 64 r.1
      if !pteV e then (.fault 1 none, r.2)
      else if pteMalformed e level then (.fault 4 (if pteLeaf e then some e else none), r.2)
      else if pteLeaf e then
        (.leaf { entry := e, page := page / leafPages level * leafPages level, pages := leafPages level
                 at_ := table + 8 * idx }, r.2)
      else r.2.walkFrom p page level (pteAddr e)

/-- The physical frame that a leaf entry maps a page to. -/
def frameOf (e : DWord) (first page : Nat) : Nat := pteAddr e + (page - first) * 65536

/-- The causes of R337 that a leaf gives an access to a page; a side window that lies outside its
capacity is an access fault and no concern of this one. -/
def leafCauses (e : DWord) (first page : Nat) (acc : Access) : List Nat :=
  (match acc with
    | .write => if pteW e then [] else [2]
    | .revise => if pteW e then [] else [2]
    | .read => if pteR e then [] else [3]
    | .fetch => if pteX e then [] else [3]
    | .any => []
    | .rmw => (if pteW e then [] else [2]) ++ if pteR e then [] else [3]) ++
    (if outsideMemory (frameOf e first page) then [5] else [])

/-- The virtual page of an address (R335). -/
def pageOf (va : Nat) : Nat := va / 65536

/-- A translation that a core's TLB or its stack's translation cache holds (R338). A store takes one with D set
where there is one: a core's entry from before the first write stands beside its stack's newer one (R336). -/
def State.held? (s : State) (core : Option Nat) (stack vf page : Nat) (stores : Bool := false) : Option TlbEntry :=
  let covers (t : TlbEntry) : Bool :=
    t.vf == vf && t.page ≤ page && page < t.page + t.pages &&
      (t.core == none && t.stack == stack || (core.isSome && t.core == core))
  if stores then (s.tlb.find? fun t => covers t && pteD t.entry).orElse fun _ => s.tlb.find? covers
  else s.tlb.find? covers

/-- The result of the last walk of a page that failed (R337). -/
def State.note? (s : State) (part vf page : Nat) : Option FaultRecord :=
  s.faults.find? fun r => r.part == part && r.vf == vf && r.page == page && !r.opened

/-- The cause that a failed walk gives an access: of a malformed leaf the lowest that the access meets (R231, R337). -/
def FaultRecord.causeFor (r : FaultRecord) (acc : Access) : Nat :=
  match r.leaf with
  | none => r.cause
  | some e => (lowest (r.cause :: leafCauses e r.page r.page acc)).getD r.cause

/-- What a translation gives. -/
inductive Trans where
  /-- The physical address, the entry, and whether it is whey past its capacity. -/
  | ok (pa : Nat) (entry : DWord) (pastWhey : Bool)
  | miss
  | fault (cause : Nat)
  | violation
  deriving DecidableEq, Repr

/-- Capacity of a side window by its attribute (R243). -/
def wheyCapacity (e : DWord) : Nat := if pteProt e = 1 then 4096 else 8192

/-- Translation of one address through what is held (R338). A write needs D set, so a first write
misses and is walked (R336); the access that a failed walk was made for finds its result within 16
ticks, a later one walks again. -/
def State.translate (s : State) (core : Option Nat) (stack part vf va : Nat) (acc : Access) : Trans :=
  let page := pageOf va
  match s.held? core stack vf page acc.stores with
  | none =>
    match s.note? part vf page with
    | some r => if s.tick.toNat ≤ r.tick.toNat + 16 then .fault (r.causeFor acc) else .miss
    | none => .miss
  | some t =>
    match lowest (leafCauses t.entry t.page page acc) with
    | some c => .fault c
    | none =>
      let frame := frameOf t.entry t.page page
      if !s.owns part frame then .violation
      else if acc.stores && !pteD t.entry then .miss
      else if pteSide t.entry then
        .ok (wheyBase (frame / 65536) + va % 65536) t.entry (wheyCapacity t.entry ≤ va % 65536)
      else .ok (frame + va % 65536) t.entry false

/-- Walks that the walker pool keeps in flight (R338). -/
def walkSlots : Nat := 512

/-- The number of a partition that the pool serves next, round-robin after the one it served last: of those with
walks waiting, one that holds fewer slots than its share before any other (R339). -/
def State.walkNext (s : State) : Option Nat :=
  let waiting := (s.walks.filter (!·.started)).map (·.part)
  let count (p : Nat) : Nat := (s.walks.filter fun w => w.started && w.part == p).length
  let below := waiting.filter fun p => count p < walkSlots / waiting.dedup.length
  let pool := if below.isEmpty then waiting else below
  (lowest (pool.filter (s.walkTurn < ·))).orElse fun _ => lowest pool

/-- The first item that meets a test changed. -/
def changeFirst {α : Type} (p : α → Bool) (u : α → α) : List α → List α
  | [] => []
  | x :: xs => if p x then u x :: xs else x :: changeFirst p u xs

/-- The pool's free slots given to waiting walks, each partition's in the order they arrived (R339). -/
def State.startWalks (s : State) : Nat → State
  | 0 => s
  | fuel + 1 =>
    if walkSlots ≤ (s.walks.filter (·.started)).length then s
    else
      match s.walkNext with
      | none => s
      | some p =>
        State.startWalks
          { s with
            walkTurn := p
            walks := changeFirst (fun w => !w.started && w.part == p) (fun w => { w with started := true }) s.walks } fuel

/-- A walk asked for; misses for one page of one virtual function merge (R339). -/
def State.askWalk (s : State) (stack part vf va : Nat) (write : Bool) (by_ : Requester) : State :=
  let page := pageOf va
  if s.walks.any fun w => w.vf == vf && w.page == page then
    State.startWalks
      { s with
        walks := change (fun w => w.vf == vf && w.page == page)
          (fun w =>
            { w with
              write := w.write || write
              askers := if w.askers.contains stack then w.askers else w.askers ++ [stack] }) s.walks } 1
  else
    State.startWalks
      { s with walks := s.walks ++ [{ askers := [stack], part := part, vf := vf, page := page, write := write, by_ := by_ }] } 1

/-- The result of a failed walk kept for its page, with a malformed leaf that it found. -/
def State.noteWalk (s : State) (part vf page cause : Nat) (bad : Option DWord) (by_ : Requester) : State :=
  { s with
    faults := upsert (fun r => r.part == part && r.vf == vf && r.page == page && !r.opened)
      { part := part, vf := vf, page := page, cause := cause, by_ := by_ }
      (fun r => { r with tick := s.tick, cause := cause, leaf := bad, by_ := by_ }) s.faults }

/-- Entries of a core's TLB and of a stack's translation cache (R338). -/
def tlbEntries (core : Option Nat) : Nat := if core.isSome then 256 else 65536

/-- A translation put into a core's TLB or a stack's translation cache, once; a full one gives up an entry, which
one a free value (R338, log entry 121). -/
def State.holdEntry (s : State) (t : TlbEntry) : State :=
  let l := s.tlb.filter fun u => !(u.core == t.core && u.stack == t.stack && u.vf == t.vf && u.page == t.page)
  let mine := l.filter fun u => u.core == t.core && u.stack == t.stack
  if mine.length < tlbEntries t.core then { s with tlb := l ++ [t] }
  else
    let d := s.draw
    let gone := mine[d.1.toNat % mine.length]?
    { d.2 with tlb := (l.filter fun u => some u != gone) ++ [t] }

/-- The core's TLB takes the entry its stack's translation cache served (R338). -/
def State.fillTlb (s : State) (core vf page : Nat) : State :=
  match s.held? none (stackOf core) vf page with
  | some t => if s.tlb.contains { t with core := some core } then s else s.holdEntry { t with core := some core }
  | none => s

/-- The translations of a page range of a virtual function dropped, with its walks, whose slots waiting walks take, and
what failed walks left (R339, R341). -/
def State.dropPages (s : State) (vf lo hi : Nat) : State :=
  State.startWalks
    { s with
      tlb := s.tlb.filter fun t => !(t.vf == vf && t.page < hi && lo < t.page + t.pages)
      walks := s.walks.filter fun w => !(w.vf == vf && lo ≤ w.page && w.page < hi)
      faults := s.faults.filter fun r => !(r.vf == vf && !r.opened && lo ≤ r.page && r.page < hi) } walkSlots

/-- The master that a requester belongs to (R368). -/
def Requester.master : Requester → Master
  | .fibre g _ => .group g
  | .channel g c => .channel g c
  | .gather g _ => .group g
  | .function vf => .vf vf

/-- A master frozen for a violation, with the record to its partition's supervisor (R368). -/
def State.violate (s : State) (part : Nat) (m : Master) : State :=
  let s : State := match m with
    | .group g => s.modGroup g fun gr => { gr with frozen := true }
    | .channel g c => s.modChan g c fun ch => { ch with frozen := true }
    | .vf n => s.modVf n fun v => { v with frozen := true }
  s.report part (.violation s.tick m)

/-! ## Engines and instruction fetch -/

/-- A read of a virtual address that no locate check guards: translation through the stack's cache
(R338, R288). -/
def State.engineTrans (s : State) (stack part vf va : Nat) (acc : Access) : Trans :=
  s.translate none stack part vf va acc

end Sys2Proof.Machine
end

