-- ==== Sys2Proof/Machine/Access.lean ====
section
/-!
DEFINITION. The checks that every M-pipe word makes for every member before any member performs
(R231 to R233), watchpoints (R399 to R403), soft errors met by a read (R241, R69), page scrubs (R370)
and accesses to peers (R393, R394).
-/

namespace Sys2Proof.Machine

/-- One member's access: its address and its reader-set descriptor. -/
structure Req where
  fid : Nat
  va : DWord
  desc : Word := 0
  /-- Bytes of the range the request is part of, and of its last byte past va in this page, for RSREV and CACHE
  (R235, R243). -/
  len : Nat := 0
  span : Nat := 0
  deriving DecidableEq, Repr

/-- What a word's accesses need. -/
structure AccSpec where
  /-- Bytes accessed, which is also the alignment (R218). -/
  size : Nat
  acc : Access
  watchRead : Bool := false
  watchWrite : Bool := false
  /-- Whether the locate check of R232 applies. -/
  locate : Bool := false
  /-- Whether B is a reader-set descriptor (R225). -/
  sets : Bool := false
  /-- Whether an uncorrectable error raises a trap unless its result is deferred (R241, R69). -/
  ecc : Bool := false
  /-- The register of a deferrable result (R66). -/
  dest : Option Nat := none
  deriving DecidableEq, Repr

/-- The mask of the members that some requests name. -/
def reqMask (l : List Req) : BitVec 32 := maskOf (l.map (·.fid))

/-- A failed check (R231): its kind, the lowest cause, the failing mask, the lowest member's address. -/
def failTrap (kind cause : Nat) (l : List Req) : Trap :=
  { kind := kind, cause := cause, failing := reqMask l, fva := ((l.head?).map (·.va)).getD 0 }

/-- The core's issue slot of this tick used up without a chain group opened. -/
def State.idleIssue (s : State) : State := s.modCore s.cur fun c => { c with issueAt := some s.tick }

/-- The run's group has not issued in this cycle by the chain group that was opened (R408). -/
def State.unissue (s : State) : State :=
  match s.run? with
  | some r => s.modGroup r.grp fun g => { g with issued := r.hadIssued }
  | none => s

/-- A word that waits in place: the core's issue slot of this tick used up without the chain group taking effect. -/
def State.stallIssue (s : State) : State := s.unissue.idleIssue

/-- A write held while its frame is scrubbed, noted with the tick of the first (R370). -/
def State.noteHold (s : State) (frame : Nat) : State :=
  if s.heldWrites.any (·.1 == frame) then s else { s with heldWrites := sins frame s.tick s.heldWrites }

/-- A bundle's run stopped at its start without a trap: its fibres are ready at the run again, once some frames have
been scrubbed (R370). -/
def State.stopRun (s : State) (r : Run) (frames : List Nat) : State :=
  let s := s.modCore s.cur fun c => { c with run := none, issueAt := some s.tick }
  s.modFibres r.grp r.fids fun fb =>
    { fb with pc := r.start, after := {}, mc := r.mc, st := .ready, rdy := s.tick, flight := [], frames := frames }

/-- The requests that fail a check, by their causes. -/
def failing (f : Req → Option Nat) (l : List Req) : Option (Nat × List Req) :=
  let bad := l.filter fun q => (f q).isSome
  match lowest (bad.filterMap f) with
  | some c => some (c, bad)
  | none => none

/-- The longest range of RSREV and CACHE (R235). -/
def maxRange : Nat := 2 ^ 24

/-- The address form (R218), and the length of a range (R235), for which R231 names no step (DESIGN CHOICE, log entry
137). -/
def formCause (size : Nat) (q : Req) : Option Nat :=
  if q.va.toNat % size ≠ 0 then some 1
  else if 2 ^ 60 ≤ q.va.toNat then some 2
  else if maxRange < q.len then some 5
  else none

/-- Translation of one request for the group's words. -/
def State.transReq (s : State) (g : Group) (acc : Access) (q : Req) : Trans :=
  s.translate (some s.cur) (stackOf s.cur) g.part g.vf q.va.toNat acc

/-- The physical address, entry and whey overrun of a request that translates. -/
def Trans.paOf : Trans → Nat
  | .ok pa _ _ => pa
  | _ => 0
def Trans.entryOf : Trans → DWord
  | .ok _ e _ => e
  | _ => 0
def Trans.past : Trans → Bool
  | .ok _ _ w => w
  | _ => false

/-- The descriptor and whey checks (R226, R243). -/
def State.setCause (s : State) (g : Group) (spec : AccSpec) (q : Req) : Option Nat :=
  let t := s.transReq g spec.acc q
  let d := if spec.sets then s.descCause g.part q.desc else none
  match d with
  | some c => some c
  | none =>
    let past := t.past || (pteSide t.entryOf && wheyCapacity t.entryOf ≤ q.va.toNat % 65536 + q.span)
    if past || (pteSide t.entryOf && spec.sets && q.desc ≠ 0) then some 6 else none

/-- Whether a comparator matches a request (R400). -/
def comparatorHits (c : Comparator) (g : Group) (spec : AccSpec) (q : Req) : Bool :=
  c.ctl.getLsbD 0 && c.base.toNat < c.limit.toNat && q.va.toNat < c.limit.toNat &&
    c.base.toNat < q.va.toNat + spec.size &&
    ((spec.watchRead && c.ctl.getLsbD 1) || (spec.watchWrite && c.ctl.getLsbD 2)) &&
    (!c.ctl.getLsbD 26 || (c.ctl.extractLsb' 16 10).toNat == g.vf)

/-- A comparator that is not enabled. -/
def comparatorOff : Comparator := { base := 0, limit := 0, ctl := 0 }

/-- The comparators of a core that match a request, lowest first. -/
def State.matches_ (s : State) (g : Group) (spec : AccSpec) (q : Req) : List Nat :=
  let w := (s.core s.cur).watch
  (List.range 4).filter fun k => comparatorHits (sget comparatorOff w k) g spec q

/-- Whether the issuing core lies outside a request's declared set (R232). -/
def State.outsideSet (s : State) (g : Group) (spec : AccSpec) (q : Req) : Bool :=
  let pa := (s.transReq g spec.acc q).paOf
  match s.readers? (pa / 256) with
  | some l => !l.contains s.cur
  | none => false

/-- A freeze of a partition asked for at a tick (R411): the result code and the state. A hit is never
refused and may only bring a pending freeze forward. -/
def State.askFreeze (s : State) (scope : Option Nat) (at_ : DWord) (onHit : Bool) : Nat × State :=
  let partFreeze := scope.bind fun p => (s.part? p).bind (·.freeze)
  let anyPart := scope.isNone && s.parts.any fun q => q.freeze.isSome
  let busy := s.freeze.isSome || partFreeze.isSome || anyPart
  if onHit then
    if busy then
      let sooner (f : Freeze) : Freeze := if at_.toNat < f.tick.toNat && !f.inForce then { f with tick := at_ } else f
      let s := { s with freeze := s.freeze.map sooner }
      (0, match scope with
        | some p => s.modPart p fun q => { q with freeze := q.freeze.map sooner }
        | none => s)
    else (0, match scope with
      | some p => s.modPart p fun q => { q with freeze := some { tick := at_ } }
      | none => { s with freeze := some { tick := at_ } })
  else if at_.toNat < s.tick.toNat + 2048 then (1, s)
  else if busy then (2, s)
  else (0, match scope with
    | some p => s.modPart p fun q => { q with freeze := some { tick := at_ } }
    | none => { s with freeze := some { tick := at_ } })

/-- Whether a cache serves a core's read, so that memory is not read (R241). -/
def State.servedNear (s : State) (core pa n : Nat) : Bool :=
  s.homeHeld pa n ||
    [CacheId.l1 core, .ck (clusterOf core), .l2 (stackOf core)].any fun u =>
      match s.copy? u (pa / 256) with
      | some c => c.hasAll (pa % 256) n
      | none => false

/-- Whether a cache serves an access's read: an atomic reads where the line is coherent (R241, R307). -/
def State.served (s : State) (acc : Access) (core pa n : Nat) : Bool :=
  if acc == .rmw then s.homeHeld pa n || s.ownsBytes core pa n else s.servedNear core pa n

/-- Whether a frame is still being scrubbed, so that writes to it are held (R370). -/
def State.scrubbingAt (s : State) (pa : Nat) : Bool := s.scrubbing.contains (pa / 65536)

/-- The peer aperture of a partition that an address lies in (R393). -/
def State.aperture? (s : State) (part pa : Nat) : Option Window :=
  if pa / 2 ^ 49 % 2 = 1 && pa < 2 ^ 50 then
    (s.part? part).bind fun q => q.apertures.find? fun w => w.base ≤ pa && pa < w.base + w.size
  else none

/-- Whether a partition owns a lane of some port of a mask (R362). -/
def Partition.reaches (q : Partition) (ports : Nat) : Bool :=
  (List.range 16).any fun p => ports.testBit p && q.lanes.any fun l => l / 8 == p

/-- Whether an address lies in an aperture whose ports the partition has no lane of: its packet would travel on
lanes of others (R367). -/
def State.strayLanes (s : State) (part pa : Nat) : Bool :=
  (s.aperture? part pa).any fun w => !((s.part? part).any (·.reaches w.ports))

/-- Whether a request is the reading one of a fibre. -/
def PeerWait.reads (w : PeerWait) (g f : Nat) : Bool := w.grp == g && w.fid == f && !w.store && w.chan.isNone

/-- The outstanding request of a fibre to a peer. -/
def State.peer? (s : State) (g f : Nat) : Option PeerWait := s.peers.find? (·.reads g f)

/-- A request of a member to a peer through the ports of an aperture (R393). -/
def State.askPeer (s : State) (g : Group) (q : Req) (store : Bool) (pa : Nat) : PeerWait :=
  { id := s.serial, part := g.part, grp := g.gid, fid := q.fid, va := q.va, start := s.tick, store := store
    ports := ((s.aperture? g.part pa).map (·.ports)).getD 0 }

/-- Requests to peers that a reading word or an atomic still waits for: each is sent once, and answered after the
ticks its number gives (R394). -/
def State.peerCheck (s : State) (g : Group) (spec : AccSpec) (l : List Req) : Option State :=
  let far := l.filter fun q => (s.aperture? g.part (s.transReq g spec.acc q).paOf).isSome
  if far.isEmpty || spec.acc == .write then none
  else
    let fresh := far.filter fun q => (s.peer? g.gid q.fid).isNone
    let waiting := far.any fun q => match s.peer? g.gid q.fid with
      | some w => s.tick.toNat < w.start.toNat + Config.peerTicks w.id
      | none => true
    let s := fresh.foldl (init := s) fun s q =>
      { s with
        peers := s.peers ++ [s.askPeer g q false (s.transReq g spec.acc q).paOf]
        serial := s.serial + 1 }
    if waiting then some s.stallIssue else none

/-- The forced publishes that a bundle's reads still wait for, each sent to its holder once (R322, R323). -/
def State.publishCheck (s : State) (g : Group) (spec : AccSpec) (l : List Req) : Option State :=
  if !(spec.watchRead || spec.acc == .rmw) then none
  else
    let owed := l.flatMap fun q =>
      let t := s.transReq g spec.acc q
      if pteHost t.entryOf || (s.aperture? g.part t.paOf).isSome then []
      else (s.publishersOf s.cur t.paOf (spec.acc == .rmw)).map fun u => (t.paOf / 256, u)
    let sent (q : Nat × CacheId) : Option Publish :=
      s.publishes.find? fun p => p.reader == s.cur && p.line == q.1 && p.holder == q.2
    let fresh := (owed.filter fun q => (sent q).isNone).dedup
    if owed.all fun q => (sent q).any (·.stage != .sent) then none
    else
      let news := fresh.map fun q => ({ reader := s.cur, holder := q.2, line := q.1, since := s.tick } : Publish)
      some { s with publishes := s.publishes ++ news }

/-- Whether a comparator that a hit matches has freeze on hit set (R403). -/
def State.hitFreezes (s : State) (g : Group) (spec : AccSpec) (hit : List Req) : Bool :=
  hit.any fun q => (s.matches_ g spec q).any fun k => (sget comparatorOff (s.core s.cur).watch k).ctl.getLsbD 3

/-- The checks of R231 in order, for every member of a bundle. An uncorrectable error in a load whose D the TRAIL names is
left to the poison mask also when a later word of the run reads the result (DESIGN CHOICE, log entry 144). -/
def State.check (s : State) (r : Run) (spec : AccSpec) (l : List Req) : Check :=
  match s.group? r.grp with
  | none => .ok
  | some g =>
    match failing (formCause spec.size) l with
    | some (c, bad) => .fault (failTrap 9 c bad)
    | none =>
      let misses := l.filter fun q => s.transReq g spec.acc q == .miss
      if !misses.isEmpty then
        .again (misses.foldl (fun s q =>
          s.askWalk (stackOf s.cur) g.part g.vf q.va.toNat spec.acc.stores (.fibre g.gid q.fid)) s).stallIssue
      else
        match failing (fun q => match s.transReq g spec.acc q with | .fault c => some c | _ => none) l with
        | some (c, bad) => .fault (failTrap 10 c bad)
        | none =>
          if l.any fun q => s.transReq g spec.acc q == .violation || s.strayLanes g.part (s.transReq g spec.acc q).paOf then
            .again ((s.unissue.violate g.part (.group g.gid)).stopRun r [])
          else
            match failing (s.setCause g spec) l with
            | some (c, bad) => .fault (failTrap 9 c bad)
            | none =>
              let hit := l.filter fun q =>
                !(g.fibre q.fid).exempt && !(s.matches_ g spec q).isEmpty
              match lowest (hit.flatMap (s.matches_ g spec)) with
              | some c =>
                let first := hit.filter fun q => (s.matches_ g spec q).contains c
                .fault { failTrap 2 c hit with fva := ((first.head?).map (·.va)).getD 0, late := s.hitFreezes g spec hit }
              | none =>
                let out := if spec.locate then l.filter (s.outsideSet g spec) else []
                if !out.isEmpty && !g.pol.resolve then .fault (failTrap 1 0 out)
                else if l.any fun q => !s.homeUp (s.transReq g spec.acc q).paOf then .again s.stallIssue
                else if spec.acc.stores && l.any fun q => s.scrubbingAt (s.transReq g spec.acc q).paOf then
                  let frames := (l.map fun q => (s.transReq g spec.acc q).paOf / 65536).filter s.scrubbing.contains
                  .again ((frames.foldl State.noteHold s.unissue).stopRun r frames)
                else
                  match (s.peerCheck g spec l).orElse fun _ => (s.publishCheck g spec l).map State.stallIssue with
                  | some s' => .again s'
                  | none =>
                    let bad := l.filter fun q =>
                      let t := s.transReq g spec.acc q
                      spec.ecc && s.uncorrectable (pteProt t.entryOf) t.paOf spec.size &&
                        !s.served spec.acc s.cur t.paOf spec.size
                    if !bad.isEmpty && !(match spec.dest with | some d => r.named.contains d | none => false)
                      then .fault (failTrap 12 1 bad)
                    else .ok

/-- What a failed check changes besides the trap itself: it counts (R244) and traces (R406), and a hit
with freeze on hit starts a freeze (R403). -/
def State.noteFault (s : State) (r : Run) (t : Trap) : State :=
  match s.group? r.grp with
  | none => s
  | some g =>
    if t.kind = 1 then s.count g.part .lcft
    else if t.kind = 12 then s.reportBadAt g.part t.fva.toNat
    else if t.kind = 2 then
      let s := s.traceRecord s.cur g.vf g.gid 5 ((r.fids.head?).getD 0) t.failing
        (BitVec.ofNat 96 (t.cause + t.fva.toNat * 2 ^ 32))
      if t.late then (s.askFreeze (some g.part) (s.tick + 1) true).2 else s
    else s

/-- A word of global memory for the bundle that is issuing: legality, the checks of R231, the effect. -/
def State.issueMem (s : State) (i : Instr) (chain : Bool) (spec : Env → AccSpec) (req : Env → Fibre → List Req)
    (eff : State → Run → Group → List Req → State) : Host.Outcome State Fault Refusal :=
  match s.run? with
  | none => .next s
  | some r =>
    match s.illegal r i with
    | .fault t => .next (s.raise s.cur r t)
    | .again s' => .next s'
    | .ok =>
      let e := s.env r
      let sp := spec e
      let l := (s.members r).flatMap (req e)
      match s.check r sp l, s.group? r.grp with
      | .fault t, _ => .next ((s.noteFault r t).raise s.cur r t)
      | .again s', _ => .next s'
      | .ok, some g => .next ((eff s r g l).retire chain)
      | .ok, none => .next (s.retire chain)

end Sys2Proof.Machine
end

