-- ==== Sys2Proof/Machine/Columns.lean ====
section
/-!
DEFINITION. Scratchpad columns (R246 to R258) and barrier objects (R259 to R263) as operations on the
bytes of a cluster's pool.
-/

namespace Sys2Proof.Machine

/-- Where a group's scratchpad address lies: in the pool of the group's home cluster (R246, R248). -/
def Group.padAddr (g : Group) (a : Nat) : Nat := poolBase (clusterOf g.core) + a

/-- Whether the line that holds a pool address is full (R253). -/
def State.isFull (s : State) (pa : Nat) : Bool := s.full.any (·.1 == pa / 128)

/-- A line's full bit set or cleared. -/
def State.setFull (s : State) (pa : Nat) (v : Bool) : State :=
  { s with full := if v then sins (pa / 128) () (sdel (pa / 128) s.full) else sdel (pa / 128) s.full }

/-- Where fired keeps the barrier object, and the line, of a pool address. -/
def firedBar (pa : Nat) : Nat := 2 * (pa / 32)
def firedLine (pa : Nat) : Nat := 2 * (pa / 128) + 1

/-- A target of a record of a scope fired at a place (R293). -/
def State.noteFired (s : State) (key scope : Nat) : State :=
  { s with fired := sset 0 s.fired key (max (sget 0 s.fired key) scope) }

/-- A place at which no record's target has fired. -/
def State.unfire (s : State) (key : Nat) : State := { s with fired := sdel key s.fired }

/-- What a fibre on a core observes with the outcome of a wait at a place: it acquires the records that have fired
there, at their scope (R293, R320). -/
def State.acquireFired (s : State) (core key : Nat) : State := s.acquire core (sget 0 s.fired key)

/-- Bytes of a column written. -/
def State.padWrite (s : State) (pa n v : Nat) : State := s.homeWrite pa n v

/-! ## Address checks (R252) -/

/-- Whether an address range meets the barrier area of a group's window (R13). -/
def Group.inBarriers (g : Group) (a n : Nat) : Bool :=
  a < g.barriers + 32 * g.kern.barriers && g.barriers < a + n

/-- Whether an address starts one of a group's barrier objects. -/
def Group.isBarrier (g : Group) (a : Nat) : Bool :=
  g.barriers ≤ a && a < g.barriers + 32 * g.kern.barriers && (a - g.barriers) % 32 = 0

/-- Whether a fibre is landed outside its home cluster (R248). -/
def Fibre.outside (g : Group) (fb : Fibre) : Bool :=
  match fb.place with
  | .landed c => clusterOf c != clusterOf g.core
  | _ => false

/-- Causes 1, 2 and 6, which every word shares (R252). -/
def padCauses (g : Group) (fb : Fibre) (a : Word) (n : Nat) : List Nat :=
  (if a.toNat < g.spb || g.spl < a.toNat + n then [1] else []) ++
    (if 2 ^ 24 ≤ a.toNat then [2] else []) ++ (if fb.outside g then [6] else [])

/-- A scratchpad fault for the members whose causes are not empty (R252). -/
def padFault (l : List (Nat × Word × List Nat)) : Option Trap :=
  let bad := l.filter fun q => !q.2.2.isEmpty
  match lowest (bad.flatMap (·.2.2)), bad.head? with
  | some c, some q =>
    some { kind := 11, cause := c, failing := maskOf (bad.map (·.1)), fva := q.2.1.setWidth 64 }
  | _, _ => none

/-! ## Barrier objects -/

/-- A barrier object (R259). -/
structure Bar where
  phase : Nat
  count : Nat
  arrived : Nat
  ebytes : Nat
  landed : Nat
  rcount : Nat
  setter : Nat
  rbytes : Nat
  flags : Nat
  deriving DecidableEq, Repr

/-- The object at a physical address. -/
def readBar (m : Memory) (pa : Nat) : Bar :=
  { phase := mle m pa 4, count := mle m (pa + 4) 2, arrived := mle m (pa + 6) 2
    ebytes := mle m (pa + 8) 4, landed := mle m (pa + 12) 4, rcount := mle m (pa + 16) 2
    setter := mle m (pa + 18) 2, rbytes := mle m (pa + 20) 4, flags := mle m (pa + 24) 1 }

/-- Its 32 bytes, reserved ones zero. -/
def Bar.bytes (b : Bar) : Nat :=
  b.phase + b.count * 2 ^ 32 + b.arrived % 2 ^ 16 * 2 ^ 48 + b.ebytes * 2 ^ 64 + b.landed * 2 ^ 96 +
    b.rcount * 2 ^ 128 + b.setter * 2 ^ 144 + b.rbytes * 2 ^ 160 + b.flags * 2 ^ 192

def State.putBar (s : State) (pa : Nat) (b : Bar) : State := s.padWrite pa 32 b.bytes

/-- Whether a barrier admits no arrivals (R259). -/
def Bar.bytesOnly (b : Bar) : Bool := b.rcount = 0xFFFF

/-- Whether a reload count fixes the count of each phase (R260). -/
def Bar.fixed (b : Bar) : Bool := 1 ≤ b.rcount && b.rcount ≤ 65534

/-- Whether the current phase is complete (R260). -/
def Bar.complete (b : Bar) : Bool :=
  (b.bytesOnly || (b.count ≠ 0 && b.arrived = b.count)) && b.ebytes ≤ b.landed

/-- The phases after the current one that complete in the same step, once it has (R260): only an
object that admits no arrivals has any, and a phase with nothing to wait for ends the chain. -/
def Bar.chainLength (b : Bar) : Nat :=
  if !b.bytesOnly || b.ebytes = 0 then 0
  else if b.rbytes = 0 then 1
  else (b.landed - b.ebytes) / b.rbytes

/-- The completion test of R260. -/
def Bar.settle (b : Bar) : Bar :=
  if !b.complete then b
  else
    let k := b.chainLength
    { b with
      phase := (b.phase + 1 + k) % 2 ^ 31
      landed := b.landed - b.ebytes - k * b.rbytes
      ebytes := b.rbytes
      arrived := 0
      count := if b.bytesOnly then 0 else b.rcount
      setter := if b.fixed then 0xC000 else 0 }

/-- BINIT's object, before its completion test (R261). -/
def Bar.initial (rcount rbytes : Nat) : Bar :=
  { phase := 0, arrived := 0, landed := 0, rcount := rcount, rbytes := rbytes, flags := 1, ebytes := rbytes
    count := if rcount = 0xFFFF then 0 else rcount
    setter := if 1 ≤ rcount && rcount ≤ 65534 then 0xC000 else 0 }

/-- An arrival (R262): the object after it and the phase it counts toward, or the reason of a refusal. -/
def Bar.arrive (b : Bar) (fid addb n : Nat) : Except Nat (Bar × Nat) :=
  if b.flags % 2 = 0 then .error 3
  else if b.bytesOnly then .error 2
  else if n = 65535 || (n ≠ 0 && b.count ≠ 0 && n ≠ b.count) then .error 1
  else if 2 ^ 32 ≤ b.ebytes + addb then .error 4
  else if b.count = 0 && n = 0 then .error 5
  else
    let b1 := if b.count = 0 then { b with count := n, setter := 0x8000 + fid } else b
    .ok (({ b1 with arrived := b1.arrived + 1, ebytes := b1.ebytes + addb } : Bar).settle, b.phase)

/-- A withdrawal of an arrival (R263). -/
def Bar.withdraw (b : Bar) (fid addb : Nat) : Bar :=
  let free := b.setter = 0x8000 + fid && b.arrived = 1 && !b.fixed
  ({ b with
    arrived := b.arrived - 1
    ebytes := b.ebytes - addb
    count := if free then 0 else b.count
    setter := if free then 0 else b.setter } : Bar).settle

/-- An engine's credit (R260), saturating. -/
def Bar.credit (b : Bar) (n : Nat) : Bar := ({ b with landed := min (b.landed + n) (2 ^ 32 - 1) } : Bar).settle

/-- Whether a phase has completed (R265). -/
def Bar.done (b : Bar) (phase : Nat) : Bool := (b.phase + 2 ^ 32 - phase % 2 ^ 31 - 1) % 2 ^ 31 < 2 ^ 30

/-- Whether n bytes of column cannot be read correctly under their range's attribute (R249). -/
def State.padBroken (s : State) (pa n : Nat) : Bool := s.uncorrectable (s.padProt pa) pa n

/-- The partition whose cluster a column address lies in. -/
def State.padPart (s : State) (pa : Nat) : Nat := s.clusterPart ((pa - 2 ^ 50) / 2 ^ 24)

/-- The correctable errors in n bytes of column that are read, corrected (R241, R249). -/
def State.padCorrect (s : State) (pa n : Nat) : State := s.correctRead (s.padPart pa) (s.padProt pa) pa n

/-- The object at a physical address changed by an operation that reads it (R260). One that cannot be read
correctly stays as it is (R265; DESIGN CHOICE, log entry 126). -/
def State.changeBar (s : State) (pa : Nat) (u : Bar → Bar) : State :=
  if s.padBroken pa 32 then s
  else
    let s := s.padCorrect pa 32
    s.putBar pa (u (readBar s.mem pa))

/-- An engine's byte credit to the object at a physical address. -/
def State.creditBar (s : State) (pa n : Nat) : State := s.changeBar pa (·.credit n)

end Sys2Proof.Machine
end

