-- ==== Sys2Proof/Machine/Walk.lean ====
section
/-!
DEFINITION. A page walk (R335 to R340), and accesses by virtual address that the control die and the
engines make through it.
-/

namespace Sys2Proof.Machine

/-- The stack whose translation cache serves the control die. -/
def controlStack : Nat := 0

/-- A leaf entry with A set, and D set for a write (R336). -/
def pteTouch (e : DWord) (write : Bool) : DWord :=
  let e := e ||| (1#64 <<< 10)
  if write then e ||| (1#64 <<< 11) else e

/-- The attribute and bias of the frames a leaf maps, as its entry gives them (R241, R332). -/
def State.noteAttr (s : State) (e : DWord) (pages : Nat) : State :=
  if pteSide e then s
  else
    let frame := pteAddr e / 65536
    { s with attrs := (s.attrs.filter fun q => !(q.1 == frame && q.2.1 == pages)) ++ [(frame, pages, e)] }

/-- One page walk of a virtual function for a stack: the tables are read at scope D, A and D are set in the leaf,
and the stack's translation cache takes it; a failed walk is noted for its page, a table or frame of another
partition is a violation of the master that asked (R338, R367, R368). The flag tells whether the walk has
ended; one whose tables lie on a stack under reset is held (R373). -/
def State.walk (s : State) (stack vf page : Nat) (write : Bool) (by_ : Requester) : Bool × State :=
  match (s.vf? vf).bind fun v => v.part.map fun p => (p, v.tableRoot.toNat) with
  | none => (true, s)
  | some (p, root) =>
    let r := s.walkFrom p page 4 root
    let s := r.2
    match r.1 with
    | .held => (false, s)
    | .fault c bad => (true, s.noteWalk p vf page c bad by_)
    | .violation => (true, s.violate p by_.master)
    | .leaf l =>
      let e := pteTouch l.entry (write && pteW l.entry)
      let s := (if e = l.entry then s else s.writeCoherent l.at_ 8 e.toNat).noteAttr e l.pages
      let s := { s with faults := s.faults.filter fun r => !(r.part == p && r.vf == vf && r.page == page && !r.opened) }
      (true, s.holdEntry { core := none, stack := stack, vf := vf, page := l.page, pages := l.pages, entry := e })

/-- The entry that a stack's translation cache has taken given to the other stacks that wait for it (R339). -/
def State.shareEntry (s : State) (vf page first : Nat) (l : List Nat) : State :=
  match s.held? none first vf page with
  | none => s
  | some t => l.foldl (fun s st => s.holdEntry { t with stack := st }) s

/-- A walk run for a stack and for every other that waits for the page, and its slot freed (R338, R339). -/
def State.runWalk (s : State) (stack vf page : Nat) (write : Bool) (by_ : Requester) : State :=
  let mine (w : Walk) : Bool := w.vf == vf && w.page == page
  let first := s.walks.find? mine
  let r := s.walk stack vf page (write || (first.map (·.write)).getD false) ((first.map (·.by_)).getD by_)
  if r.1 then
    let rest := ((first.map (·.askers)).getD []).filter (· ≠ stack)
    (({ r.2 with walks := r.2.walks.filter fun w => !mine w } : State).startWalks 1).shareEntry vf page stack rest
  else r.2

/-- A walk asked for on behalf of a virtual function, which runs at once where the pool has a slot for it (R338,
R339). -/
def State.walkNow (s : State) (stack part vf va : Nat) (write : Bool) : State :=
  let s := s.askWalk stack part vf va write (.function vf)
  if s.walks.any fun w => w.vf == vf && w.page == pageOf va && w.started then
    s.runWalk stack vf (pageOf va) write (.function vf)
  else s

/-- The physical address of a virtual address for a master of the fabric or the control die, through the
translation cache of a stack. A miss is walked for, together with whoever waits for the page; a failed
translation is a fault that its requester reports to the supervisor (R337 to R340), a violation freezes the
virtual function (R368). None when it does not translate, lies past its whey's capacity (R243), waits for a walk,
or while its home is being reset (R373). -/
def State.virtOn (s : State) (stack part vf va : Nat) (acc : Access) : Option Nat × State :=
  let look (s : State) : Trans := s.translate none stack part vf va acc
  let s := match look s with
    | .miss => s.walkNow stack part vf va acc.stores
    | _ => s
  match look s with
  | .ok pa _ past => (if s.homeUp pa && !past then some pa else none, s)
  | .fault c => (none, s.reportFault part vf (pageOf va) c (.function vf))
  | .violation => (none, s.violate part (.vf vf))
  | .miss => (none, s)

/-- The same for the control die (R338). -/
def State.virt (s : State) (part vf va : Nat) (acc : Access) : Option Nat × State :=
  s.virtOn controlStack part vf va acc

/-- Whether an access that virt did not give an address for is to be tried again: its walk waits for a slot (R339), or
its home, or a table of its walk, is on a stack under reset (R373). -/
def State.away (s : State) (part vf va : Nat) (acc : Access) : Bool :=
  match s.translate none controlStack part vf va acc with
  | .ok pa _ _ => !s.homeUp pa
  | .miss => true
  | _ => false

/-- The same for the first of n bytes that virtBytes could not read. -/
def State.awayIn (s : State) (part vf va n : Nat) : Bool :=
  let good (a : Nat) : Bool := match s.translate none controlStack part vf a .read with
    | .ok pa _ _ => s.homeUp pa
    | _ => false
  (((List.range n).map (va + ·)).find? (!good ·)).any fun a => s.away part vf a .read

/-- n bytes read at a virtual address, byte by byte through the page tables, at scope D. -/
def State.virtBytes (s : State) (part vf va : Nat) : Nat → Option (List Byte) × State
  | 0 => (some [], s)
  | n + 1 =>
    let r := s.virt part vf va .read
    match r.1 with
    | none => (none, r.2)
    | some pa =>
      let c := r.2.readCoherent pa 1
      let t := c.2.virtBytes part vf (va + 1) n
      (t.1.map (BitVec.ofNat 8 c.1 :: ·), t.2)

/-- n bytes within one page read at a virtual address, little-endian. -/
def State.virtRead (s : State) (part vf va n : Nat) : Option Nat × State :=
  let r := s.virt part vf va .read
  match r.1 with
  | none => (none, r.2)
  | some pa =>
    let c := r.2.readCoherent pa n
    (some c.1, c.2)

/-- n bytes within one line written at a virtual address; none when it does not translate. -/
def State.virtWrite (s : State) (part vf va n v : Nat) : Option State × State :=
  let r := s.virt part vf va .write
  match r.1 with
  | none => (none, r.2)
  | some pa => (some (r.2.writeCoherent pa n v), r.2)

end Sys2Proof.Machine
end

