-- ==== Sys2Proof/Machine/Engine.lean ====
section
/-!
DEFINITION. What the engines of a core and a stack access (R283, R288): global memory through the page
tables, and columns of the group's window.
-/

namespace Sys2Proof.Machine

/-- What an engine finds at an address. -/
inductive Hit where
  | ok (pa : Nat) (entry : DWord)
  /-- Not translated yet. -/
  | miss
  /-- To be tried again: a write to a frame that is being scrubbed (R370), or an address whose home is being reset
  (R373). -/
  | busy (frame : Option Nat)
  | fault (cause : Nat)
  /-- Bits 63:60 are set, so it cannot translate (R283), or it is whey past its capacity (R243). -/
  | far
  | violation
  /-- Outside the scratchpad window. -/
  | outside
  /-- An uncorrectable error (R241). -/
  | bad (pa : Nat)
  deriving DecidableEq, Repr

/-- An engine's global address (R283). -/
def State.reach (s : State) (g : Group) (va : Nat) (acc : Access) : Hit :=
  if 2 ^ 60 ≤ va then .far
  else
    match s.engineTrans (stackOf g.core) g.part g.vf va acc with
    | .miss => .miss
    | .fault c => .fault c
    | .violation => .violation
    | .ok pa e past =>
      if s.strayLanes g.part pa then .violation
      else if past then .far
      else if acc.stores && s.scrubbingAt pa then .busy (some (pa / 65536))
      else if !s.homeUp pa then .busy none
      else .ok pa e

/-- An engine's scratchpad address of n bytes (R287), with the attribute of its column range as an entry's (R249).
The barrier area is written by the barrier words and credits alone (R259). -/
def State.reachPad (s : State) (g : Group) (a n : Nat) (write : Bool) : Hit :=
  if a < g.spb || g.spl < a + n || (write && g.inBarriers a n) then .outside
  else .ok (g.padAddr a) (BitVec.ofNat 64 (s.padProt (g.padAddr a) * 2 ^ 6))

/-- An engine's address of n bytes. -/
def State.reachAny (s : State) (g : Group) (spad : Bool) (va n : Nat) (acc : Access) : Hit :=
  if spad then s.reachPad g va n acc.stores else s.reach g va acc

/-- Whether a read of one byte meets an uncorrectable error in memory (R241). -/
def State.badByte (s : State) (prot pa : Nat) : Bool := s.uncorrectable prot pa 1 && !s.homeHeld pa 1

/-- A byte as a read that corrects what it can delivers it (R241). -/
def State.trueByte (s : State) (prot pa : Nat) : Byte :=
  let w := sget 0 s.errors (pa / 32)
  if w = 0 || prot = 2 || !correctable prot w || s.homeHeld pa 1 then s.homeByte pa
  else mread s.mem pa ^^^ (errorFlips w).extractLsb' (8 * (pa % 32)) 8

/-- One byte that an engine reads. -/
def State.engineByte (s : State) (g : Group) (spad : Bool) (va : Nat) : Except Hit Byte :=
  match s.reachAny g spad va 1 .read with
  | .ok pa e =>
    if s.badByte (pteProt e) pa then .error (.bad pa)
    else if (s.aperture? g.part pa).isSome then .ok (Config.peerByte s.tick.toNat va)
    else .ok (s.trueByte (pteProt e) pa)
  | h => .error h

/-- n bytes that an engine reads, little-endian, or the address and the reason why not. -/
def State.engineRead (s : State) (g : Group) (spad : Bool) (va : Nat) : Nat → Except (Nat × Hit) Nat
  | 0 => .ok 0
  | n + 1 =>
    match s.engineByte g spad va, s.engineRead g spad (va + 1) n with
    | .ok b, .ok v => .ok (b.toNat + 256 * v)
    | .error h, _ => .error (va, h)
    | _, .error e => .error e

/-- The correctable errors in n bytes that an engine is about to read corrected in place (R241). -/
def State.engineFix (s : State) (g : Group) (spad : Bool) (va n : Nat) : State :=
  if s.errors.isEmpty then s
  else (List.range n).foldl (init := s) fun s k =>
    match s.reachAny g spad (va + k) 1 .read with
    | .ok pa e => if s.homeHeld pa 1 then s else s.correctRead g.part (pteProt e) pa 1
    | _ => s

/-- n bytes within one page written by an engine (R292): a placed line keeps its set and place. A peer
takes what is written to its window. -/
def State.engineWrite (s : State) (g : Group) (spad : Bool) (va n v : Nat) : Except Hit State :=
  match s.reachAny g spad va n .write with
  | .ok pa _ =>
    .ok (if spad then s.padWrite pa n v else if (s.aperture? g.part pa).isSome then s else s.writeCoherent pa n v)
  | h => .error h

/-- What an engine of a group does about an address it could not reach, and the page it then waits for: a walk is
asked for, a fault goes to the supervisor as its own unless it joins an open record (R288, R340), a violation
freezes its master. -/
def State.engineStop (s : State) (g : Group) (va : Nat) (by_ : Requester) (write : Bool) : Hit → Option Nat × State
  | .miss => (none, s.askWalk (stackOf g.core) g.part g.vf va write by_)
  | .fault c => (some (pageOf va), s.reportFault g.part g.vf (pageOf va) c by_)
  | .violation => (none, s.violate g.part by_.master)
  | .busy (some f) => (none, s.noteHold f)
  | _ => (none, s)

end Sys2Proof.Machine
end

