-- ==== Sys2Proof/Machine/Arith.lean ====
section
/-!
DEFINITION. The integer functions of chapter 05: exact values, wrap and saturation (R146 to R163).
-/

namespace Sys2Proof.Machine

/-- Sat of R146. -/
def sat (x lo hi : Int) : Int := if x < lo then lo else if hi < x then hi else x

/-- The low n bits of an integer. -/
def wrap (n : Nat) (x : Int) : Nat := (x % 2 ^ n).toNat

/-- The result column of R147: which bits an exact value leaves. -/
def addResult (v : BitVec 3) (x : Int) : Nat :=
  if v = 0 then wrap 32 x
  else if v = 1 then wrap 32 (sat x (-2 ^ 31) (2 ^ 31 - 1))
  else if v = 2 then wrap 32 (sat x 0 (2 ^ 32 - 1))
  else wrap 64 x

/-- IDIV (R150). -/
def idiv (v : BitVec 3) (a b : Word) : Word :=
  let sgn := v = 0 || v = 2
  let quotient := v.toNat < 2
  if b = 0 then (if quotient then -1 else a)
  else if sgn then (if quotient then BitVec.sdiv a b else BitVec.srem a b)
  else if quotient then a / b else a % b

/-- IMM (R151). -/
def imm (v : BitVec 3) (a b : Word) : Word :=
  if v = 0 then (if a.toInt ≤ b.toInt then a else b)
  else if v = 1 then (if a.toInt ≤ b.toInt then b else a)
  else if v = 2 then (if a.toNat ≤ b.toNat then a else b)
  else (if a.toNat ≤ b.toNat then b else a)

/-- The condition of ICMP (R152). -/
def icmp (v : BitVec 3) (a b : Word) : Bool :=
  match v.toNat with
  | 0 => a == b
  | 1 => a != b
  | 2 => a.toInt < b.toInt
  | 3 => a.toInt ≤ b.toInt
  | 4 => a.toNat < b.toNat
  | 5 => a.toNat ≤ b.toNat
  | 6 => a &&& b != 0
  | _ => a &&& b == 0

/-- The functions of LOG and PLOG (R153). -/
def logic {n : Nat} (v : BitVec 3) (a b : BitVec n) : BitVec n :=
  match v.toNat with
  | 0 => a &&& b
  | 1 => a ||| b
  | 2 => a ^^^ b
  | 3 => a &&& ~~~b
  | 4 => a ||| ~~~b
  | 5 => ~~~(a &&& b)
  | 6 => ~~~(a ||| b)
  | _ => ~~~(a ^^^ b)

/-- SHF (R154). -/
def shf (v : BitVec 3) (a b : Word) : Word :=
  let n := b.toNat
  match v.toNat with
  | 0 => if 32 ≤ n then 0 else a <<< n
  | 1 => if 32 ≤ n then 0 else a >>> n
  | 2 => a.sshiftRight (min n 31)
  | 3 => a.rotateLeft (n % 32)
  | _ => a.rotateRight (n % 32)

/-- The field of R155: its position and its effective length. -/
def fieldPos (b : Word) : Nat := (b.extractLsb' 0 5).toNat
def fieldLen (b : Word) : Nat := min (min (b.extractLsb' 8 6).toNat 32) (32 - fieldPos b)

/-- BFX (R155). -/
def bfx (v : BitVec 3) (a b : Word) : Word :=
  let l := fieldLen b
  let x := a.toNat / 2 ^ fieldPos b % 2 ^ l
  if v = 1 && 0 < l && x.testBit (l - 1) then BitVec.ofInt 32 (x - 2 ^ l) else BitVec.ofNat 32 x

/-- BFI (R155). -/
def bfi (d a b : Word) : Word :=
  let mask := BitVec.ofNat 32 ((2 ^ fieldLen b - 1) * 2 ^ fieldPos b)
  (d &&& ~~~mask) ||| ((a <<< fieldPos b) &&& mask)

/-- Number of one bits. -/
def popCount (n : Nat) (x : Nat) : Nat :=
  (List.range n).foldl (fun k i => if x.testBit i then k + 1 else k) 0

/-- BIT (R156). -/
def bitCount (v : BitVec 3) (a : Word) : Word :=
  if v = 0 then BitVec.ofNat 32 (popCount 32 a.toNat)
  else if v = 1 then (if a = 0 then 32 else BitVec.ofNat 32 (31 - Nat.log2 a.toNat))
  else a.reverse

/-- Byte k of a word as IDOT4 reads it (R162). -/
def dotByte (sgn : Bool) (a : Word) (k : Nat) : Int :=
  let b := a.extractLsb' (8 * k) 8
  if sgn then b.toInt else b.toNat

/-- IDOT4 (R162). -/
def idot4 (v : BitVec 3) (d a b : Word) : Word :=
  let sa := v = 0 || v = 2
  let sb := v = 0
  BitVec.ofInt 32 ((List.range 4).foldl (fun s k => s + dotByte sa a k * dotByte sb b k) d.toInt)

/-- LIMH (R161). -/
def limh (k : BitVec 17) (la0 : DWord) : Word :=
  (k ++ 0#15 : BitVec 32) ||| (la0.extractLsb' 0 15).setWidth 32

/-- A slice of 32 predicates (R163). -/
def slice (v : BitVec 3) (preds : BitVec 96) : Word := preds.extractLsb' (32 * v.toNat) 32

/-- The predicates with the slice v changed where the mask is set (R163). -/
def setSlice (v : BitVec 3) (preds : BitVec 96) (a mask : Word) : BitVec 96 :=
  let sh := 32 * v.toNat
  let m := mask.setWidth 96 <<< sh
  (preds &&& ~~~m) ||| ((a.setWidth 96 <<< sh) &&& m)

end Sys2Proof.Machine
end

