-- ==== Sys2Proof/Machine/Global.lean ====
section
/-!
DEFINITION. The words of global memory that do not wait: LD, ST, LDA, STL, RSREV, LOCATE and CACHE
(R220 to R240).
-/

namespace Sys2Proof.Machine

/-- A core added to a declared line's set, the line placed again and filled into the core's L1 (R234). -/
def State.addReader (s : State) (part core line : Nat) (hostBias : Bool) : State :=
  match s.line? line with
  | none => s
  | some l =>
    let s := s.place part line (coreSet (core :: l.readers)) l.sticky hostBias
    if hostBias then s
    else
      let full := s.fullCopy line (s.heldSectors line) (s.homeLine line)
      (s.put part (.ck (clusterOf core)) line full).put part (.l1 core) line full

/-- A failed locate check under the resolve policy (R233): LOCATE's effect, counted once. -/
def State.resolveLine (s : State) (part core line : Nat) (hostBias : Bool) : State :=
  match s.line? line with
  | some l => if l.readers.contains core then s else (s.addReader part core line hostBias).count part .lcrs
  | none => s

/-- A member's read of n bytes: the locate policy, correctable errors, then the load (R231, R233, R241).
The flag tells of an uncorrectable error. A peer's answer is a free value (log entry 15). -/
def State.readReq (s : State) (g : Group) (spec : AccSpec) (q : Req) : Nat × Bool × State :=
  let t := s.transReq g spec.acc q
  let pa := t.paOf
  let core := s.cur
  let s := s.fillTlb core g.vf (pageOf q.va.toNat)
  if (s.aperture? g.part pa).isSome then
    let d := s.draw
    (d.1.toNat % 256 ^ spec.size, false,
      { d.2 with peers := d.2.peers.filter fun w => !w.reads g.gid q.fid })
  else
    let s := if spec.locate then s.resolveLine g.part core (pa / 256) (pteHost t.entryOf) else s
    let near := s.servedNear core pa spec.size
    let bad := s.uncorrectable (pteProt t.entryOf) pa spec.size && !near
    let s := if near then s else s.correctRead g.part (pteProt t.entryOf) pa spec.size
    let s := if bad then s.reportBadAt g.part pa else s
    let r := s.loadBytes core pa spec.size (pteHost t.entryOf)
    (r.1, bad, r.2)

/-- n bytes of a line that a fibre's own word writes, noted for its fences (R313). -/
def Fibre.wroteBytes (fb : Fibre) (pa n : Nat) : Fibre :=
  { fb with wrote := sset 0 fb.wrote (pa / 256) (sget 0 fb.wrote (pa / 256) ||| maskBits 256 (pa % 256) n) }

/-- A member's store of n bytes (R223, R227). A peer acknowledges it by itself (R394). -/
def State.writeReq (s : State) (g : Group) (spec : AccSpec) (q : Req) (v : Nat) : State :=
  let t := s.transReq g spec.acc q
  let pa := t.paOf
  let core := s.cur
  let s := s.fillTlb core g.vf (pageOf q.va.toNat)
  let s := s.modFibre g.gid q.fid fun fb => { fb.wroteBytes pa spec.size with unacked := fb.unacked + 1 }
  if (s.aperture? g.part pa).isSome then
    { s with
      peers := s.peers ++ [s.askPeer g q true pa]
      serial := s.serial + 1 }
  else s.storeBytes g.part core pa spec.size v q.desc (pteHost t.entryOf)

/-- Fibres whose next word may have other fibres' writes before it (R313). -/
def State.syncFibres (s : State) (g : Nat) (l : List Nat) : State :=
  s.modFibres g l fun fb => { fb with synced := true }

/-- Fibres whose writes, and those before them, have been performed at scope D (R313). -/
def State.releaseFibres (s : State) (g : Nat) (l : List Nat) : State :=
  s.modFibres g l fun fb => { fb with wrote := [], synced := false }

/-- Bytes of an LD by its size code, and of an ST (R221). -/
def ldSize (z : BitVec 3) : Nat :=
  match z.toNat with
  | 0 => 1 | 1 => 1 | 2 => 2 | 3 => 2 | 4 => 4 | 5 => 8 | _ => 16
def stSize (z : BitVec 3) : Nat :=
  match z.toNat with
  | 0 => 1 | 1 => 2 | 2 => 4 | 3 => 8 | _ => 16

/-- The register value of an LD (R221). -/
def ldExtend (z : BitVec 3) (v : Nat) : Nat :=
  match z.toNat with
  | 0 => ((BitVec.ofNat 8 v).signExtend 32).toNat
  | 2 => ((BitVec.ofNat 16 v).signExtend 32).toNat
  | _ => v

/-- The destination register of a word, when it names one. -/
def destReg (e : Env) (code : BitVec 7) : Option Nat :=
  if code.toNat < 64 then some (mapReg e.mp code.toNat) else none

/-- The effective address of a load or an atomic (R223). -/
def Env.ea (e : Env) (fb : Fibre) (f : F3) : DWord := e.op64 fb f.a + (e.op32 fb f.b).signExtend 64

/-- What an LD, and what an ST, asks of the checks. -/
def ldSpec (e : Env) (size : Nat) (code : BitVec 7) : AccSpec :=
  { size := size, acc := .read, watchRead := true, locate := true, ecc := true, dest := destReg e code }
def stSpec (size : Nat) : AccSpec := { size := size, acc := .write, watchWrite := true, sets := true }

/-- The loads of a bundle, ascending (R223). -/
def loadAll (spec : AccSpec) (code : BitVec 7) (n : Nat) (ext : Nat → Nat) (s : State) (r : Run) (g : Group)
    (l : List Req) : State :=
  let e := s.env r
  l.foldl (init := s) fun s q =>
    let v := s.readReq g spec q
    v.2.2.modFibre r.grp q.fid fun fb => fb.putLater e .M code n (ext v.1) 0 (if v.2.1 then some q.va else none)

/-- Data of a store: n registers from D. -/
def Env.storeData (e : Env) (fb : Fibre) (code : BitVec 7) (n : Nat) : Nat :=
  (List.range n).foldl (fun v k => v + (e.regAt fb code k).toNat * 2 ^ (32 * k)) 0

/-- The stores of a bundle, ascending (R223). -/
def storeAll (spec : AccSpec) (code : BitVec 7) (n : Nat) (s : State) (r : Run) (g : Group) (l : List Req) : State :=
  let e := s.env r
  l.foldl (init := s) fun s q => s.writeReq g spec q (e.storeData (g.fibre q.fid) code n)

/-- LD (R223). -/
def execLd (f : F3) (s : State) : Host.Outcome State Fault Refusal :=
  s.issueMem (.ld f) f.c (fun e => ldSpec e (ldSize f.x) f.d) (fun e fb => [{ fid := fb.fid, va := e.ea fb f }])
    fun s r g l => loadAll (ldSpec (s.env r) (ldSize f.x) f.d) f.d (ldRegs f.x) (ldExtend f.x) s r g l

/-- ST (R223). -/
def execSt (f : F3) (s : State) : Host.Outcome State Fault Refusal :=
  s.issueMem (.st f) f.c (fun _ => stSpec (stSize f.x))
    (fun e fb => [{ fid := fb.fid, va := e.op64 fb f.a, desc := e.op32 fb f.b }])
    fun s r g l => storeAll (stSpec (stSize f.x)) f.d (stRegs f.x) s r g l

/-- LDA: an LD.b32 that is an acquire at its scope (R222, R312). -/
def execLda (f : F3) (s : State) : Host.Outcome State Fault Refusal :=
  s.issueMem (.lda f) f.c (fun e => ldSpec e 4 f.d) (fun e fb => [{ fid := fb.fid, va := e.ea fb f }])
    fun s r g l =>
      loadAll (ldSpec (s.env r) 4 f.d) f.d 1 id ((s.acquire s.cur (f.x.toNat + 1)).syncFibres r.grp r.fids) r g l

/-- STL: an ST.b32 that is a release at its scope (R222, R312). -/
def execStl (f : F3) (s : State) : Host.Outcome State Fault Refusal :=
  s.issueMem (.stl f) f.c (fun _ => stSpec 4)
    (fun e fb => [{ fid := fb.fid, va := e.op64 fb f.a, desc := e.op32 fb f.b }])
    fun s r g l =>
      let s := s.release s.cur (f.x.toNat + 1)
      storeAll (stSpec 4) f.d 1 (if f.x.toNat < 3 then s else s.releaseFibres r.grp r.fids) r g l

/-! ## RSREV, LOCATE and CACHE -/

/-- The requests of a range: one for each page it meets, one alone for a range too long (R235). -/
def rangeReqs (fid : Nat) (va : DWord) (n : Nat) (desc : Word) : List Req :=
  if n = 0 then []
  else if maxRange < n || 2 ^ 60 ≤ va.toNat then [{ fid := fid, va := va, desc := desc, len := n }]
  else
    (List.range (pageOf (va.toNat + n - 1) - pageOf va.toNat + 1)).map fun k =>
      let first := if k = 0 then va.toNat else (pageOf va.toNat + k) * 65536
      let last := min (va.toNat + n) ((pageOf va.toNat + k + 1) * 65536) - 1
      { fid := fid, va := BitVec.ofNat 64 first, desc := desc, len := n, span := last - first }

/-- The virtual line addresses that meet a range. -/
def rangeLines (va n : Nat) : List Nat :=
  if n = 0 then [] else (List.range ((va + n - 1) / 256 - va / 256 + 1)).map fun k => (va / 256 + k) * 256

/-- A line's set after an RSREV (R236), none for home, and its sticky bit. -/
def reviseSet (op : BitVec 3) (old : Option (List Nat)) (oldSticky : Bool) (set : Option (List Nat)) (sticky : Bool) :
    Option (List Nat) × Bool :=
  match op.toNat with
  | 0 =>
    match old, set with
    | none, _ => (none, false)
    | some l, some m => (some (coreSet (l ++ m)), sticky)
    | some l, none => (some l, oldSticky)
  | 1 => match set with | some m => (some m, sticky) | none => (none, false)
  | _ =>
    match old with
    | none => (none, false)
    | some l =>
      let left := l.filter fun c => !(set.getD []).contains c
      if left.isEmpty then (none, false) else (some left, oldSticky)

/-- The revision of one line (R237), counted. -/
def State.revise (s : State) (part core line : Nat) (op : BitVec 3) (desc : Word) (hostBias : Bool) : State :=
  let s := s.settle line
  let old := s.line? line
  let r := reviseSet op (old.map (·.readers)) ((old.map (·.sticky)).getD false) (s.resolveSet part core desc)
    (desc.getLsbD 27)
  let s := match r.1 with
    | some set => (s.publishLines (· == line)).place part line set r.2 hostBias
    | none =>
      match old with
      | some l =>
        (s.unplace line).dropCopies fun c => c.line == line && (match c.unit with
          | .l1 k => l.readers.contains k
          | _ => false)
      | none => s
  s.count part .rsrv

/-- RSREV (R237). -/
def execRsrev (f : F3) (s : State) : Host.Outcome State Fault Refusal :=
  let spec : AccSpec := { size := 1, acc := .revise, sets := true }
  s.issueMem (.rsrev f) f.c (fun _ => spec)
    (fun e fb => rangeReqs fb.fid (e.op64 fb f.a) (e.regAt fb f.d 0).toNat (e.op32 fb f.b))
    fun s r g _ =>
      let e := s.env r
      (s.members r).foldl (init := s) fun s fb =>
        let desc := e.op32 fb f.b
        (rangeLines (e.op64 fb f.a).toNat (e.regAt fb f.d 0).toNat).foldl (init := s) fun s va =>
          let t := s.transReq g .revise { fid := fb.fid, va := BitVec.ofNat 64 va }
          s.revise g.part s.cur (t.paOf / 256) f.x desc (pteHost t.entryOf)

/-- LOCATE by one member (R234). -/
def State.locateOne (s : State) (r : Run) (g : Group) (f : F3) (q : Req) : State :=
  let t := s.transReq g .read q
  let line := t.paOf / 256
  let s := s.settle line
  let lv := s.distance s.cur t.paOf
  let added := match s.readers? line with
    | some l => !l.contains s.cur
    | none => false
  let s := if added then (s.addReader g.part s.cur line (pteHost t.entryOf)).count g.part .lcad else s
  let v := BitVec.ofNat 32 (lv + if added then 256 else 0)
  let e := s.env r
  s.modFibre r.grp q.fid fun fb =>
    let fb := fb.put32 e .M f.d v
    { fb with ctx := { fb.ctx with loclvl := v } }

/-- LOCATE (R234). -/
def execLocate (f : F3) (s : State) : Host.Outcome State Fault Refusal :=
  s.issueMem (.locate f) f.c (fun _ => { size := 1, acc := .read })
    (fun e fb => [{ fid := fb.fid, va := e.op64 fb f.a }])
    fun s r g l => l.foldl (fun s q => s.locateOne r g f q) s

/-- The dirty bytes of a line at a core's levels written out to memory, with what must go before them; the
copies stay (R240). A placed line stands in memory already. -/
def State.writeBack (s : State) (core line : Nat) : State :=
  let s := s.settle line
  let held (p : CacheId → Bool) : Bool := s.holdsDirty p line
  let s := if held (· == .ck (clusterOf core)) then s.publishCluster (clusterOf core) else s
  if s.holdsDirty (· == .l2 (stackOf core)) line then s.publishL2 (stackOf core) (s.clusterPart (clusterOf core)) else s

/-- A line removed from a core's cluster with its notices; a placed one moves to the stack L2 (R240, R230,
R329). -/
def State.evictCluster (s : State) (core line : Nat) : State :=
  (s.writeBack core line).evict (.ck (clusterOf core)) line

/-- A line filled into a core's cluster cache, and into its L1 (R240). -/
def State.prefetch (s : State) (core line : Nat) (intoL1 : Bool) : State :=
  (List.range 4).foldl (init := s) fun s sec =>
    let r := s.clusterLine core line sec
    let s := r.2.share core line sec
    if intoL1 then s.fillSector (s.clusterPart (clusterOf core)) (.l1 core) line sec r.1 else s

/-- One line of a CACHE word for the issuing core (R239, R240). -/
def State.cacheLine (s : State) (g : Group) (op : BitVec 3) (va : Nat) : State :=
  let q : Req := { fid := 0, va := BitVec.ofNat 64 va }
  let t := s.transReq g (if op = 1 || op = 2 then .read else .any) q
  let line := t.paOf / 256
  match op.toNat with
  | 0 => { s with fetched := s.fetched.filter fun c => !(c.core == s.cur && c.line == line) }
  | 3 => s.writeBack s.cur line
  | 4 => s.evictCluster s.cur line
  | k =>
    let shut := match s.readers? line with
      | some l => !l.contains s.cur
      | none => false
    match t with
    | .ok _ e past => if past || shut || pteHost e then s else s.prefetch s.cur line (k == 1)
    | _ => s

/-- The pages of a prefetch whose translation is not at hand are walked for first; nothing about a
prefetch faults (R239). -/
def State.prefetchMisses (s : State) (g : Group) (l : List Req) : List Req :=
  l.filter fun q => formCause 1 q == none && s.transReq g .read q == .miss

/-- CACHE (R240). -/
def execCache (f : F3) (s : State) : Host.Outcome State Fault Refusal :=
  let reqs (e : Env) (fb : Fibre) : List Req := rangeReqs fb.fid (e.op64 fb f.a) (e.regAt fb f.d 0).toNat 0
  let each (s : State) (r : Run) (g : Group) : State :=
    let e := s.env r
    (s.members r).foldl (init := s) fun s fb =>
      let n := (e.regAt fb f.d 0).toNat
      if maxRange < n || 2 ^ 60 ≤ (e.op64 fb f.a).toNat then s
      else (rangeLines (e.op64 fb f.a).toNat n).foldl (fun s va => s.cacheLine g f.x va) s
  if f.x = 1 || f.x = 2 then
    s.issue (.cache f) f.c
      (fun s r => match s.group? r.grp with
        | none => .ok
        | some g =>
          let m := s.prefetchMisses g ((s.members r).flatMap (reqs (s.env r)))
          if m.isEmpty then .ok
          else .again (m.foldl (fun s q =>
            s.askWalk (stackOf s.cur) g.part g.vf q.va.toNat false (.fibre g.gid q.fid)) s).stallIssue)
      (fun s r => match s.group? r.grp with
        | none => s
        | some g => each s r g)
  else
    s.issueMem (.cache f) f.c (fun _ => { size := 1, acc := .any }) reqs fun s r g _ => each s r g

end Sys2Proof.Machine
end

