-- ==== Sys2Proof/Machine/Channels.lean ====
section
/-!
DEFINITION. Copy channels (R266 to R292): transfer records and their checks, acceptance, the end of a
record, and the channel words CHGO, CHST, CHSTP, CPY and CPROM.
-/

namespace Sys2Proof.Machine

/-! ## Records -/

/-- A transfer record's fields (R270, R271). -/
structure Record where
  ctl : DWord
  src : DWord
  dst : DWord
  param : DWord
  sfbar : Word
  dvbar : Word
  next : DWord
  deriving DecidableEq, Repr

def Record.of (b : BitVec 512) : Record :=
  { ctl := b.extractLsb' 0 64, src := b.extractLsb' 128 64, dst := b.extractLsb' 192 64
    param := b.extractLsb' 256 64, sfbar := b.extractLsb' 320 32, dvbar := b.extractLsb' 352 32
    next := b.extractLsb' 384 64 }

def Record.own (r : Record) : Bool := r.ctl.getLsbD 0
def Record.kind (r : Record) : Nat := (r.ctl.extractLsb' 1 3).toNat
def Record.scope (r : Record) : Nat := (r.ctl.extractLsb' 4 3).toNat
def Record.sspace (r : Record) : Bool := r.ctl.getLsbD 10
def Record.dspace (r : Record) : Bool := r.ctl.getLsbD 11
def Record.sfmode (r : Record) : Nat := (r.ctl.extractLsb' 13 2).toNat
def Record.dvmode (r : Record) : Nat := (r.ctl.extractLsb' 15 2).toNat
def Record.acc (r : Record) : Bool := r.ctl.getLsbD 17
def Record.size (r : Record) : Nat := (r.ctl.extractLsb' 32 32).toNat
def Record.isGrid (r : Record) : Bool := 5 ≤ r.kind
/-- Whether a record's rows go by an index list (R272). -/
def Record.indexed (r : Record) : Bool := r.kind = 2 || r.kind = 3

/-- Rows, and bytes of a row, of kinds 0 to 4 (R272). -/
def Record.rows (r : Record) : Nat := if r.kind = 0 || r.kind = 4 then 1 else r.size / 65536 + 1
def Record.rowBytes (r : Record) : Nat := if r.kind = 0 || r.kind = 4 then r.size else r.size % 65536

/-- A record pointer that is malformed (R269); the value 0 is another matter. -/
def ptrBad (p : DWord) : Bool := p.extractLsb' 1 5 ≠ 0 || (p.getLsbD 0 && p.extractLsb' 32 32 ≠ 0)
/-- A pointer whose global address has any of bits 63:60 set (R283). -/
def ptrFar (p : DWord) : Bool := !p.getLsbD 0 && p.extractLsb' 60 4 ≠ 0
/-- Space and address of a pointer (R269). -/
def ptrSpad (p : DWord) : Bool := p.getLsbD 0
def ptrAddr (p : DWord) : Nat := p.toNat / 64 * 64

/-- Signed strides of a 2-D record (R272). -/
def Record.sstride (r : Record) : Int := (r.param.extractLsb' 0 32).toInt
def Record.dstride (r : Record) : Int := (r.param.extractLsb' 32 32).toInt

/-- Whether a record is malformed (cause 1 of R282). -/
def Record.malformed (r : Record) : Bool :=
  let ranged := 4 ≤ r.rowBytes && r.rowBytes ≤ (if r.kind = 0 || r.kind = 4 then 2 ^ 32 - 4 else 65532)
  r.ctl.extractLsb' 18 14 ≠ 0 || r.ctl.getLsbD 12 || r.ctl.getLsbD 7 || r.kind = 7 || r.scope = 0 || 5 < r.scope ||
    r.sfmode = 3 || r.dvmode = 3 || (r.sfmode ≠ 1 && r.sfbar ≠ 0) || (r.dvmode ≠ 1 && r.dvbar ≠ 0) ||
    (r.sfmode = 2 && !r.sspace) || (r.dvmode = 2 && !r.dspace) ||
    (r.sspace && r.src.extractLsb' 32 32 ≠ 0) || (r.dspace && r.dst.extractLsb' 32 32 ≠ 0) ||
    r.src.extractLsb' 60 4 ≠ 0 || r.dst.extractLsb' 60 4 ≠ 0 || ptrBad r.next || ptrFar r.next || (r.acc && !r.isGrid) ||
    (match r.kind with
      | 0 => !ranged || r.param ≠ 0
      | 1 => !ranged
      | 2 => !ranged || r.param = 0 || ptrBad r.param || ptrFar r.param
      | 3 => !ranged || r.param = 0 || ptrBad r.param || ptrFar r.param
      | 4 => !ranged || r.param.extractLsb' 32 32 ≠ 0 || r.src ≠ 0 || r.sspace || r.sfmode ≠ 0
      | _ => r.size ≠ 0 || r.param = 0 || ptrBad r.param || ptrFar r.param)

/-- Whether an address, stride or length of kinds 0 to 4 is no multiple of 4 (cause 2 of R282). -/
def Record.misaligned (r : Record) : Bool :=
  !r.isGrid && ((r.kind ≠ 4 && r.src.toNat % 4 ≠ 0) || r.dst.toNat % 4 ≠ 0 || r.rowBytes % 4 ≠ 0 ||
    (r.kind = 1 && (r.sstride % 4 ≠ 0 || r.dstride % 4 ≠ 0)))

/-- Whether an address is no initialised barrier object of a group's window (cause 6 of R282). -/
def State.barrierBad (s : State) (g : Group) (a : Word) : Bool :=
  !g.isBarrier a.toNat || (readBar s.mem (g.padAddr a.toNat)).flags % 2 = 0

/-- The lowest of the causes 1, 2 and 6 that a record's bytes give (R282). -/
def State.recordCause (s : State) (g : Group) (r : Record) : Option Nat :=
  if r.malformed then some 1
  else if r.misaligned then some 2
  else if (r.sfmode = 1 && s.barrierBad g r.sfbar) || (r.dvmode = 1 && s.barrierBad g r.dvbar) then some 6
  else none

/-! ## Words of a copy -/

/-- A sum of a 64-bit address and an offset. -/
def shiftAddr (a : DWord) (off : Int) : Nat := (a + BitVec.ofInt 64 off).toNat

/-- 4-byte words of a record of kinds 0 to 4, of the rows whose indices are at hand. -/
def Record.words (r : Record) (idx : List Nat) : Nat :=
  (if r.indexed then min idx.length r.rows else r.rows) * (r.rowBytes / 4)

/-- Source and destination address of word k (R272). -/
def Record.srcAt (r : Record) (idx : List Nat) (k : Nat) : Nat :=
  let j := 4 * k / r.rowBytes
  let off := 4 * k % r.rowBytes
  shiftAddr r.src ((match r.kind with
    | 1 => j * r.sstride
    | 2 => ((idx[j]?).getD 0 : Nat)
    | _ => (j * r.rowBytes : Nat)) + off)
def Record.dstAt (r : Record) (idx : List Nat) (k : Nat) : Nat :=
  let j := 4 * k / r.rowBytes
  let off := 4 * k % r.rowBytes
  shiftAddr r.dst ((match r.kind with
    | 1 => j * r.dstride
    | 3 => ((idx[j]?).getD 0 : Nat)
    | _ => (j * r.rowBytes : Nat)) + off)

/-- Bytes of a column line, which is also the block of a chunk (R285). -/
def chunkBytes : Nat := 128

/-- The bytes of the chunk that access k of n completes, each access of w bytes at a given address: none
unless it is the last within its block (R285). -/
def chunkAt (addr : Nat → Nat) (n w k : Nat) : Option Nat :=
  let b := addr k / chunkBytes
  let mine (i : Nat) : Bool := addr i / chunkBytes == b
  if (List.range (n - k - 1)).any fun i => mine (k + 1 + i) then none
  else some (w * ((List.range n).filter mine).length)

/-- The same for one row of consecutive words from an address, without a search. -/
def chunkInRow (base n k : Nat) : Option Nat :=
  let a := base + 4 * k
  if k + 1 < n && (a + 4) / chunkBytes = a / chunkBytes then none
  else some (min (a + 4 - base) (a + 4 - a / chunkBytes * chunkBytes))

/-- A target fired for a chunk of one side of a record of a scope (R285, R293): a barrier credit, or the line's full
bit. -/
def State.fire (s : State) (g : Group) (scope mode : Nat) (bar : Word) (a n : Nat) (full : Bool) : State :=
  if mode = 1 then (s.creditBar (g.padAddr bar.toNat) n).noteFired (firedBar (g.padAddr bar.toNat)) scope
  else if mode = 2 then (s.setFull (g.padAddr a) full).noteFired (firedLine (g.padAddr a)) scope
  else s

/-! ## Acceptance and the end of a record -/

/-- The channel's promise for the next accepted record (R289): at most 2^32 ticks ahead. -/
def State.promiseTick (s : State) : DWord := s.tick + BitVec.ofNat 64 (Config.promiseAhead s.serial % (2 ^ 32 + 1))

/-- The writes into its records that a channel owes performed in order, until one meets an address it cannot reach:
the channel then waits for it as for any other (R288). One that may not be written at all, such as a record in the
barrier area, is left out (R259, log entry 138). -/
def State.payRecord (s : State) (g : Group) (n : Nat) : List (DWord × Nat × Nat) → State
  | [] => s.modChan g.gid n fun c => { c with owed := [], stuck := none }
  | q :: qs =>
    let va := ptrAddr q.1 + q.2.1
    match s.engineWrite g (ptrSpad q.1) va 8 q.2.2 with
    | .ok s' => s'.payRecord g n qs
    | .error .outside => s.payRecord g n qs
    | .error .far => s.payRecord g n qs
    | .error h =>
      let r := s.engineStop g va (.channel g.gid n) true h
      r.2.modChan g.gid n fun c => { c with owed := q :: qs, stuck := r.1 }

/-- A field of a record in memory that the engine writes (R270); nothing for a CPY record (R277). -/
def State.writeRecord (s : State) (g : Group) (n : Nat) (ptr : DWord) (off v : Nat) : State :=
  if ptr = 0 then s
  else
    let owed := (((s.group? g.gid).bind (·.chan? n)).map (·.owed)).getD []
    if owed.isEmpty then s.payRecord g n [(ptr, off, v)]
    else s.modChan g.gid n fun c => { c with owed := c.owed ++ [(ptr, off, v)] }

/-- A control word with a status, and with own as given (R271). -/
def ctlWith (ctl : DWord) (status : Nat) (own : Bool) : Nat :=
  (ctl.toNat / 1024 * 1024) + status * 256 + ctl.toNat % 256 / 2 * 2 + if own then 1 else 0

/-- Acceptance of a record (R289, R281): its promise, and status 1. -/
def State.accept (s : State) (g : Group) (n : Nat) (t : Transfer) : State :=
  let p := s.promiseTick
  let s : State := { s with serial := s.serial + 1 }
  let s := s.writeRecord g n t.ptr 8 p.toNat
  let s := s.writeRecord g n t.ptr 0 (ctlWith (Record.of t.bytes).ctl 1 true)
  s.modChan g.gid n fun c => { c with prom := p, job := some { t with accepted := true } }

/-- The fibre that takes a channel's promise miss (R290): the member whose operands the CHGO or CPY used,
else the lowest live fibre. -/
def Group.missFibre (g : Group) (c : Channel) : Option Nat :=
  let live := (g.live).map (·.fid)
  let fb := g.fibre c.issuer
  if live.contains c.issuer && fb.gen = c.issuerGen then some c.issuer
  else match live with
    | [] => none
    | x :: xs => some (xs.foldl min x)

/-- A promise miss handed to its fibre, at most once for a record (R290, R291). -/
def State.missPromise (s : State) (g : Group) (c : Channel) (t : Transfer) (faulted : Bool) : State :=
  if t.missed then s
  else
    match g.missFibre c with
    | none => s
    | some f =>
      s.modFibre g.gid f fun fb =>
        { fb with
          misses := fb.misses ++
            [{ kind := 4, cause := if faulted then 1 else 0, detail := c.n, fva := t.ptr }] }

/-- A fault word (R273). -/
def faultWord (cause : Nat) (flags : BitVec 5) (step index offset : Nat) : DWord :=
  BitVec.ofNat 64 (cause % 8 * 2 ^ 61 + flags.toNat * 2 ^ 56 + step % 2 * 2 ^ 48 + index % 65536 * 2 ^ 32 + offset % 2 ^ 32)

/-- A faulted record (R291): the record's fields, the channel, and the promise miss at once. -/
def State.faultRecord (s : State) (g : Group) (c : Channel) (t : Transfer) (fw : DWord) (written : Bool) : State :=
  let s := if written then
      (s.writeRecord g c.n t.ptr 56 fw.toNat).writeRecord g c.n t.ptr 0 (ctlWith (Record.of t.bytes).ctl 3 false)
    else s
  let s := s.modChan g.gid c.n fun c => { c with st := 3, lastf := fw, cur := t.ptr, job := none }
  s.missPromise g c t true

/-- What a channel does at a record boundary (R281, R268, R278): it pauses for a deschedule, goes idle on a
stop request or at the end of its chain. -/
def Channel.boundary (c : Channel) (stopping : Bool) : Channel :=
  if c.st = 2 then { c with st := 0 }
  else if stopping then { c with paused := true }
  else if c.cur = 0 then { c with st := 0 }
  else c

/-- A channel that has done with a record and its writes: the next record's pointer (R286). -/
def State.closeRecord (s : State) (g : Group) (c : Channel) (t : Transfer) : State :=
  let r := Record.of t.bytes
  let fw := faultWord 0 t.flags 0 0 0
  let s := s.traceRecord g.core g.vf g.gid 7 c.issuer (1#32 <<< memberOf c.issuer)
    (BitVec.ofNat 96 (c.n + t.ptr.toNat * 2 ^ 32))
  s.modChan g.gid c.n fun c =>
    ({ c with lastf := fw, done := min (c.done + 1) 65535, cur := r.next, job := none } : Channel).boundary
      (g.st == .stopping)

/-- Whether a channel owes writes into its records. -/
def State.owes (s : State) (gid n : Nat) : Bool := ((s.group? gid).bind (·.chan? n)).any (!·.owed.isEmpty)

/-- A complete record (R286): the fault word, and status 2 with own 0; one whose page is not at hand keeps the channel
until it is (R288). -/
def State.completeRecord (s : State) (g : Group) (c : Channel) (t : Transfer) : State :=
  let s := s.writeRecord g c.n t.ptr 56 (faultWord 0 t.flags 0 0 0).toNat
  let s := s.writeRecord g c.n t.ptr 0 (ctlWith (Record.of t.bytes).ctl 2 false)
  if s.owes g.gid c.n then s.modChan g.gid c.n fun c => { c with job := some { t with closing := true } }
  else s.closeRecord g c t

/-! ## The channel words -/

/-- The channel a number names (R274, R266). -/
def Group.chanOf (g : Group) (n : Word) : Option Channel :=
  if n.extractLsb' 3 29 ≠ 0 then none else g.chan? n.toNat

/-- A word performed once for the bundle with the lowest member's operands (R274). -/
def State.issueOnce (s : State) (i : Instr) (chain : Bool) (eff : State → Run → Group → Env → Fibre → State) :
    Host.Outcome State Fault Refusal :=
  s.issue i chain noCheck fun s r =>
    match s.group? r.grp with
    | none => s
    | some g => eff s r g (s.env r) (s.lead r)

/-- CHGO (R276). -/
def execChgo (f : F3) (s : State) : Host.Outcome State Fault Refusal :=
  s.issueOnce (.chgo f) f.c fun s r g e lead =>
    let p := e.op64 lead f.a
    let v : Word × State := match g.chanOf (e.op32 lead f.b) with
      | none => (2, s)
      | some c =>
        if c.st = 1 || c.st = 2 then (1, s)
        else if p = 0 || ptrBad p then (3, s)
        else (0, (s.release s.cur 1).modChan r.grp c.n fun c =>
          { c with cur := p, done := 0, lastf := 0, st := 1, issuer := lead.fid, issuerGen := lead.gen
                   job := none, stuck := none, paused := false })
    v.2.eachMember r fun e fb => fb.put32 e .X f.d v.1

/-- CHST (R279). -/
def execChst (f : F3) (s : State) : Host.Outcome State Fault Refusal :=
  s.issueOnce (.chst f) f.c fun s r g e lead =>
    let c := g.chanOf (e.op32 lead f.a)
    s.eachMember r fun e fb =>
      if f.x = 0 then
        fb.put32 e .X f.d (match c with
          | none => -1
          | some c => BitVec.ofNat 32 (c.done * 65536 + c.st))
      else
        fb.put64 e .X f.d (match c with
          | none => 0
          | some c => if f.x = 1 then c.cur else c.lastf)

/-- CHSTP (R278). -/
def execChstp (f : F3) (s : State) : Host.Outcome State Fault Refusal :=
  s.issueOnce (.chstp f) f.c fun s r g e lead =>
    let v : Word × State := match g.chanOf (e.op32 lead f.a) with
      | none => (-1, s)
      | some c =>
        (BitVec.ofNat 32 c.st, s.modChan r.grp c.n fun c => { c with st := if c.st = 1 then 2 else c.st })
    v.2.eachMember r fun e fb => fb.put32 e .X f.d v.1

/-- The record that CPY's sixteen registers hold (R277). -/
def Env.cpyBytes (e : Env) (fb : Fibre) (code : BitVec 7) : BitVec 512 := BitVec.ofNat 512 (e.storeData fb code 16)

/-- CPY (R277): the record is accepted at issue. -/
def execCpy (f : F3) (s : State) : Host.Outcome State Fault Refusal :=
  s.issueOnce (.cpy f) f.c fun s r g e lead =>
    let b := e.cpyBytes lead f.a
    let rec_ := Record.of b
    match g.chanOf (e.op32 lead f.b) with
    | none => s.eachMember r fun e fb => fb.put32 e .X f.d 2
    | some c =>
      if c.st = 1 || c.st = 2 then s.eachMember r fun e fb => fb.put32 e .X f.d 1
      else if !rec_.own || rec_.next ≠ 0 || (s.recordCause g rec_).isSome then
        s.eachMember r fun e fb => fb.put32 e .X f.d 4
      else
        let p := s.promiseTick
        let s := (s.release s.cur 1).modChan r.grp c.n fun c =>
          { c with cur := 0, done := 0, lastf := 0, st := 1, issuer := lead.fid, issuerGen := lead.gen
                   stuck := none, paused := false }
        (s.accept g c.n { bytes := b, ptr := 0 }).eachMember r fun e fb =>
          let fb := fb.put32 e .X f.d 0
          { fb with ctx := { fb.ctx with prom := p } }

/-- CPROM (R280). -/
def execCprom (f : F3) (s : State) : Host.Outcome State Fault Refusal :=
  s.issueOnce (.cprom f) f.c fun s r g e lead =>
    let p := match g.chanOf (e.op32 lead f.a) with
      | none => 0
      | some c => c.prom
    s.eachMember r fun e fb =>
      let fb := fb.put64 e .X f.d p
      { fb with ctx := { fb.ctx with prom := p } }

end Sys2Proof.Machine
end

