-- ==== Sys2Proof/Machine/Float.lean ====
section
/-!
DEFINITION. Floating-point values as exact dyadic numbers, rounding (R172), and the operations of the
F pipe on them (R165 to R192). A value is a sign, a natural significand and an exponent of two; a
result that is not dyadic carries one extra low bit that stands for the rest of it.
-/

namespace Sys2Proof.Machine

/-- A floating-point value (R165): the number is (-1)^neg times m times 2^e. -/
inductive FVal where
  | nan (signalling neg : Bool)
  | inf (neg : Bool)
  | fin (neg : Bool) (m : Nat) (e : Int)
  deriving DecidableEq, Repr

/-- A standard format (R165): fraction bits and exponent bits. -/
structure Fmt where
  frac : Nat
  exp : Nat
  deriving DecidableEq, Repr

def f32 : Fmt := ⟨23, 8⟩
def f64 : Fmt := ⟨52, 11⟩
def f16 : Fmt := ⟨10, 5⟩
def bf16 : Fmt := ⟨7, 8⟩

/-- Exponent bias. -/
def Fmt.bias (t : Fmt) : Nat := 2 ^ (t.exp - 1) - 1
/-- Exponent of the last place of a subnormal. -/
def Fmt.qmin (t : Fmt) : Int := 1 - (t.bias : Int) - t.frac
/-- Sign bit position. -/
def Fmt.signBit (t : Fmt) : Nat := t.frac + t.exp
/-- Bits of the format. -/
def Fmt.width (t : Fmt) : Nat := t.frac + t.exp + 1
/-- The canonical NaN (R165). -/
def Fmt.nan (t : Fmt) : Nat := (2 ^ (t.exp + 1) - 1) * 2 ^ (t.frac - 1)
/-- An infinity. -/
def Fmt.inf (t : Fmt) (neg : Bool) : Nat := (if neg then 2 ^ t.signBit else 0) + (2 ^ t.exp - 1) * 2 ^ t.frac

/-- The value of a code of a standard format (R165). -/
def Fmt.decode (t : Fmt) (w : Nat) : FVal :=
  let fr := w % 2 ^ t.frac
  let ex := w / 2 ^ t.frac % 2 ^ t.exp
  let neg := w.testBit t.signBit
  if ex = 2 ^ t.exp - 1 then
    (if fr = 0 then .inf neg else .nan (!fr.testBit (t.frac - 1)) neg)
  else if ex = 0 then .fin neg fr t.qmin
  else .fin neg (2 ^ t.frac + fr) (t.qmin + ex - 1)

/-- Rounding modes in FPCTL's numbering (R168), and RTO (R172). -/
inductive Mode where
  | rne | rtz | rup | rdn | rto
  deriving DecidableEq, Repr

def modeOf : Nat → Mode
  | 0 => .rne | 1 => .rtz | 2 => .rup | 3 => .rdn | _ => .rto

/-- m times 2^e rounded to a multiple of 2^q, and whether it changed (R172). A tie between two one-bit significands, of which
none is even, goes to the larger (DESIGN CHOICE, log entry 145). -/
def roundTo (mode : Mode) (neg : Bool) (m : Nat) (e q : Int) : Nat × Bool :=
  if q ≤ e then (m * 2 ^ (e - q).toNat, false)
  else
    let k := (q - e).toNat
    let n := m / 2 ^ k
    let r := m % 2 ^ k
    if r = 0 then (n, false)
    else
      let up := match mode with
        | .rne => 2 ^ k < 2 * r || (2 * r = 2 ^ k && n % 2 = 1)
        | .rtz => false
        | .rup => !neg
        | .rdn => neg
        | .rto => n % 2 = 0
      (if up then n + 1 else n, true)

/-- A set of finite values to round to: precision, least normal exponent, whether there are
subnormals, and the largest finite magnitude maxM times 2^maxQ. -/
structure Grid where
  p : Nat
  emin : Int
  sub : Bool
  maxM : Nat
  maxQ : Int
  deriving DecidableEq, Repr

/-- Exponent of the last place of the least normals. -/
def Grid.qmin (g : Grid) : Int := g.emin - (g.p - 1 : Nat)

/-- Whether a times 2^x is above b times 2^y. -/
def above (a : Nat) (x : Int) (b : Nat) (y : Int) : Bool :=
  if y ≤ x then b < a * 2 ^ (x - y).toNat else b * 2 ^ (y - x).toNat < a

/-- What rounding found (R172): the rounded significand and its exponent, NX, overflow (big), tininess. -/
structure Rounded where
  n : Nat
  q : Int
  inexact : Bool
  big : Bool
  tiny : Bool
  deriving DecidableEq, Repr

/-- Rounding of a finite magnitude to a grid (R172). -/
def Grid.round (g : Grid) (mode : Mode) (neg : Bool) (m : Nat) (e : Int) : Rounded :=
  if m = 0 then { n := 0, q := g.qmin, inexact := false, big := false, tiny := false }
  else
    let top := e + Nat.log2 m
    let qu := top - (g.p - 1 : Nat)
    let u := roundTo mode neg m e qu
    let over_ := above u.1 qu g.maxM g.maxQ
    let small := decide (top < g.emin)
    let q := if small then (if g.sub then g.qmin else g.emin) else qu
    let r := roundTo mode neg m e q
    let inexact := r.2 || over_
    { n := if small && !g.sub then r.1 * 2 ^ (g.p - 1) else r.1
      q := if small && !g.sub then g.qmin else q
      inexact := inexact
      big := over_
      tiny := inexact && above 1 g.emin u.1 qu }

/-- Flags that a rounding raises (R172). -/
def Rounded.flags (r : Rounded) : BitVec 5 :=
  (if r.inexact then flNX else 0) ||| (if r.big then flOF else 0) ||| (if r.tiny then flUF else 0)

/-- Whether an overflow delivers an infinity, by mode and sign (R172). -/
def overInf (mode : Mode) (neg : Bool) : Bool :=
  match mode with
  | .rne => true
  | .rtz => false
  | .rto => false
  | .rup => !neg
  | .rdn => neg

/-- The finite values of a standard format. -/
def Fmt.grid (t : Fmt) : Grid :=
  { p := t.frac + 1, emin := 1 - (t.bias : Int), sub := true
    maxM := 2 ^ (t.frac + 1) - 1, maxQ := (t.bias : Int) - t.frac }

/-- The code of a finite value whose significand fits (R165). -/
def Fmt.code (t : Fmt) (neg : Bool) (n : Nat) (q : Int) : Nat :=
  (if neg then 2 ^ t.signBit else 0) + (q - t.qmin).toNat * 2 ^ t.frac + n

/-- Whether a code is subnormal. -/
def Fmt.isSub (t : Fmt) (w : Nat) : Bool :=
  w / 2 ^ t.frac % 2 ^ t.exp = 0 && w % 2 ^ t.frac ≠ 0

/-- The zero of a code's sign. -/
def Fmt.zeroOf (t : Fmt) (w : Nat) : Nat := if w.testBit t.signBit then 2 ^ t.signBit else 0

/-- A value rounded into a standard format: its code and flags (R172), with the flush of R171. A NaN
becomes the canonical NaN; its own flags are the operation's. -/
def Fmt.encode (t : Fmt) (mode : Mode) (fz : Bool) (v : FVal) : Nat × BitVec 5 :=
  match v with
  | .nan _ _ => (t.nan, 0)
  | .inf neg => (t.inf neg, 0)
  | .fin neg m e =>
    let r := t.grid.round mode neg m e
    if r.big then
      (if overInf mode neg then t.inf neg else t.inf neg - 1, r.flags)
    else
      let c := t.code neg r.n r.q
      if fz && t.isSub c then (t.zeroOf c, r.flags ||| flUF ||| flNX) else (c, r.flags)

/-- An operand of a standard format, a subnormal read as zero under FZ (R171). -/
def Fmt.read (t : Fmt) (fz : Bool) (w : Nat) : FVal :=
  t.decode (if fz && t.isSub w then t.zeroOf w else w)

def FVal.isNan : FVal → Bool
  | .nan _ _ => true
  | _ => false
def FVal.isSnan : FVal → Bool
  | .nan s _ => s
  | _ => false
def FVal.isInf : FVal → Bool
  | .inf _ => true
  | _ => false
def FVal.isZero : FVal → Bool
  | .fin _ m _ => m == 0
  | _ => false
def FVal.neg : FVal → Bool
  | .nan _ n => n
  | .inf n => n
  | .fin n _ _ => n
def FVal.negate : FVal → FVal
  | .nan s n => .nan s (!n)
  | .inf n => .inf (!n)
  | .fin n m e => .fin (!n) m e

/-- A quiet NaN. -/
def qnan : FVal := .nan false false

/-- The flag of an operation whose operands are these (R167). -/
def snanFlag (l : List FVal) : BitVec 5 := if l.any FVal.isSnan then flNV else 0

/-- An exact product (R167, R182). -/
def fmul (a b : FVal) : FVal × BitVec 5 :=
  if a.isNan || b.isNan then (qnan, snanFlag [a, b])
  else if (a.isInf && b.isZero) || (a.isZero && b.isInf) then (qnan, flNV)
  else
    match a, b with
    | .fin n m e, .fin n' m' e' => (.fin (n != n') (m * m') (e + e'), 0)
    | _, _ => (.inf (a.neg != b.neg), 0)

/-- The least exponent among finite values. -/
def minExp : List FVal → Int → Int
  | [], k => k
  | .fin _ _ e :: l, k => minExp l (min e k)
  | _ :: l, k => minExp l k

/-- The exact sum of finite values, in units of 2^q. -/
def sumUnits (q : Int) : List FVal → Int
  | [] => 0
  | .fin n m e :: l => (if n then -1 else 1) * (m * 2 ^ (e - q).toNat : Nat) + sumUnits q l
  | _ :: l => sumUnits q l

/-- An exact sum (R172, R182, R192): opposite infinities among the terms raise NV even beside a NaN (R167). -/
def fsum (mode : Mode) (l : List FVal) : FVal × BitVec 5 :=
  let clash := l.any (· == .inf false) && l.any (· == .inf true)
  if l.any FVal.isNan then (qnan, if clash then flNV else snanFlag l)
  else if clash then (qnan, flNV)
  else if l.any FVal.isInf then (.inf (l.any (· == .inf true)), 0)
  else
    let q := minExp l (match l with | .fin _ _ e :: _ => e | _ => 0)
    let s := sumUnits q l
    if s = 0 then
      let neg := if l.all FVal.neg then true else if l.all (!·.neg) then false else mode == .rdn
      (.fin neg 0 q, 0)
    else (.fin (s < 0) s.natAbs q, 0)

/-- A product plus an addend, with NV for 0 × ∞ whatever the addend is (R182). -/
def ffma (mode : Mode) (d a b : FVal) : FVal × BitVec 5 :=
  let p := fmul a b
  let r := fsum mode [d, p.1]
  (r.1, p.2 ||| r.2)

/-- A value that is not dyadic, as a truncated one with a low bit for the rest. -/
def withRest (neg : Bool) (m : Nat) (rest : Bool) (e : Int) : FVal :=
  .fin neg (2 * m + (if rest then 1 else 0)) (e - 1)

/-- A quotient (R187). -/
def fdiv (a b : FVal) : FVal × BitVec 5 :=
  let neg := a.neg != b.neg
  if a.isNan || b.isNan then (qnan, snanFlag [a, b])
  else if (a.isInf && b.isInf) || (a.isZero && b.isZero) then (qnan, flNV)
  else
    match a, b with
    | .fin _ m e, .fin _ m' e' =>
      if m' = 0 then (.inf neg, flDZ)
      else
        let k := 128 + Nat.log2 m'
        (withRest neg (m * 2 ^ k / m') (m * 2 ^ k % m' != 0) (e - e' - k), 0)
    | .fin _ _ _, _ => (.fin neg 0 0, 0)
    | _, _ => (.inf neg, 0)

/-- The integer square root, bit by bit from 2^k down. -/
def isqrtFrom (n : Nat) : Nat → Nat → Nat
  | 0, r => if (r + 1) * (r + 1) ≤ n then r + 1 else r
  | k + 1, r =>
    let t := r + 2 ^ (k + 1)
    isqrtFrom n k (if t * t ≤ n then t else r)

/-- The integer square root of a number below 2^512. -/
def isqrt (n : Nat) : Nat := isqrtFrom n 255 0

/-- A square root (R187). -/
def fsqrt (a : FVal) : FVal × BitVec 5 :=
  match a with
  | .nan s _ => (qnan, if s then flNV else 0)
  | .inf n => if n then (qnan, flNV) else (.inf false, 0)
  | .fin n m e =>
    if m = 0 then (.fin n 0 0, 0)
    else if n then (qnan, flNV)
    else
      let m' := if e % 2 = 0 then m else 2 * m
      let x := m' * 2 ^ 256
      let r := isqrt x
      (withRest false r (r * r != x) ((if e % 2 = 0 then e else e - 1) / 2 - 128), 0)

/-- 1/√a (R188). -/
def frsqrt (a : FVal) : FVal × BitVec 5 :=
  match a with
  | .nan s _ => (qnan, if s then flNV else 0)
  | .inf n => if n then (qnan, flNV) else (.fin false 0 0, 0)
  | .fin n m e =>
    if m = 0 then (.inf n, flDZ)
    else if n then (qnan, flNV)
    else
      let m' := if e % 2 = 0 then m else 2 * m
      let x := 2 ^ 384 / m'
      let r := isqrt x
      (withRest false r (r * r * m' != 2 ^ 384) (-(if e % 2 = 0 then e else e - 1) / 2 - 192), 0)

/-! ## The functions of SFU

Fixed-point numbers with 320 fraction bits (log entry 13). -/

/-- Fraction bits of the fixed-point evaluation. -/
def fixBits : Nat := 320
/-- ln 2 with 320 fraction bits. -/
def fixLn2 : Int := 1480553391661173448385607439722553250922680800745876974795605978609098082859138712941075737848984
/-- π/2 with 512 fraction bits. -/
def halfPi : Nat := 21060935446725318109723410742279694052627998656744627302797342544051902891138049459896942686123863173221885648458166742663646458312799580771176887101916299

/-- The terms x^n/n! of the exponential series from the n-th, whose value is t. -/
def expTerms (x : Int) : Nat → Nat → Int → Int
  | 0, _, _ => 0
  | fuel + 1, n, t => t + expTerms x fuel (n + 1) (t * x / (2 ^ fixBits * ((n : Int) + 1)))

/-- Every second term of the series of sine (from n = 1) or cosine (from n = 0), signs alternating. -/
def trigTerms (xx : Int) : Nat → Nat → Int → Int
  | 0, _, _ => 0
  | fuel + 1, n, t =>
    t + trigTerms xx fuel (n + 2) (-(t * xx / (2 ^ fixBits * (((n : Int) + 1) * ((n : Int) + 2)))))

/-- The terms z^(2k+1)/(2k+1) of the inverse hyperbolic tangent; p is the power of z. -/
def atanhTerms (zz : Int) : Nat → Nat → Int → Int
  | 0, _, _ => 0
  | fuel + 1, n, p => p / n + atanhTerms zz fuel (n + 2) (p * zz / 2 ^ fixBits)

/-- m times 2^e with 320 fraction bits, truncated. -/
def toFix (m : Nat) (e : Int) : Nat :=
  if -(fixBits : Int) ≤ e then m * 2 ^ (e + fixBits).toNat else m / 2 ^ (-(fixBits : Int) - e).toNat

/-- 2^a (R188). -/
def fexp2 (a : FVal) : FVal × BitVec 5 :=
  match a with
  | .nan s _ => (qnan, if s then flNV else 0)
  | .inf n => (if n then .fin false 0 0 else .inf false, 0)
  | .fin n m e =>
    if m = 0 then (.fin false 1 0, 0)
    else if above m e 256 0 then (.fin false 3 (if n then -1024 else 1024), 0)
    else
      let x : Int := (if n then -1 else 1) * (toFix m e : Int)
      let k := x / 2 ^ fixBits
      let f := x % 2 ^ fixBits
      if f = 0 then (.fin false 1 k, 0)
      else
        let y := expTerms (f * fixLn2 / 2 ^ fixBits) 90 0 (2 ^ fixBits)
        (withRest false y.toNat true (k - fixBits), 0)

/-- log2 a (R188). -/
def flog2 (a : FVal) : FVal × BitVec 5 :=
  match a with
  | .nan s _ => (qnan, if s then flNV else 0)
  | .inf n => if n then (qnan, flNV) else (.inf false, 0)
  | .fin n m e =>
    if m = 0 then (.inf true, flDZ)
    else if n then (qnan, flNV)
    else
      let l := Nat.log2 m
      let k := e + l
      let y : Int := (m * 2 ^ (fixBits - l) : Nat)
      if m = 2 ^ l then (.fin (k < 0) k.natAbs 0, 0)
      else
        let one : Int := 2 ^ fixBits
        let z := (y - one) * one / (y + one)
        let ln := 2 * atanhTerms (z * z / one) 120 1 z
        let r := k * one + ln * one / fixLn2
        (withRest (r < 0) (if r < 0 then (-r - 1).toNat else r.toNat) true (-(fixBits : Int)), 0)

/-- sin (c = false) or cos (c = true) of a (R188). -/
def ftrig (c : Bool) (a : FVal) : FVal × BitVec 5 :=
  match a with
  | .nan s _ => (qnan, if s then flNV else 0)
  | .inf _ => (qnan, flNV)
  | .fin n m e =>
    if m = 0 then (if c then .fin false 1 0 else a, 0)
    else if above 1 (-40) m e then
      (if c then .fin false (2 ^ 64 - 1) (-64) else .fin n (m * 2 ^ 64 - 1) (e - 64), 0)
    else
      let x := m * 2 ^ (e + 512).toNat
      let k := x / halfPi
      let r : Int := (x % halfPi / 2 ^ (512 - fixBits) : Nat)
      let rr := r * r / 2 ^ fixBits
      let useCos := if k % 2 = 0 then c else !c
      let y := if useCos then trigTerms rr 60 0 (2 ^ fixBits) else trigTerms rr 60 1 r
      let neg := if c then k % 4 = 1 || k % 4 = 2 else (decide (2 ≤ k % 4)) != n
      (withRest (neg != decide (y < 0)) y.natAbs true (-(fixBits : Int)), 0)

/-! ## Comparison and rounding to integers -/

/-- Exact order of two numbers that are not NaN: less, equal. Zeros are equal. -/
def flt (a b : FVal) : Bool :=
  match a, b with
  | .inf n, .inf n' => n && !n'
  | .inf n, _ => n
  | _, .inf n' => !n'
  | .fin n m e, .fin n' m' e' =>
    let q := min e e'
    let x : Int := (if n then -1 else 1) * (m * 2 ^ (e - q).toNat : Nat)
    let y : Int := (if n' then -1 else 1) * (m' * 2 ^ (e' - q).toNat : Nat)
    x < y
  | _, _ => false

/-- Numeric equality; false with a NaN. -/
def feq (a b : FVal) : Bool := !a.isNan && !b.isNan && !flt a b && !flt b a

/-- FCMP and DCMP (R184): the predicate and the flags. -/
def fcmp (v : BitVec 3) (a b : FVal) : Bool × BitVec 5 :=
  let un := a.isNan || b.isNan
  let quiet := snanFlag [a, b]
  let loud : BitVec 5 := if un then flNV else 0
  match v.toNat with
  | 0 => (feq a b, quiet)
  | 1 => (!feq a b, quiet)
  | 2 => (!un && flt a b, loud)
  | 3 => (!un && !flt b a, loud)
  | 4 => (!un && flt b a, loud)
  | 5 => (!un && !flt a b, loud)
  | 6 => (un, quiet)
  | _ => (!un, quiet)

/-- FMIN (big = false) or FMAX on codes of one format (R183). -/
def fminmax (t : Fmt) (fz big : Bool) (x y : Nat) : Nat × BitVec 5 :=
  let x := if fz && t.isSub x then t.zeroOf x else x
  let y := if fz && t.isSub y then t.zeroOf y else y
  let a := t.decode x
  let b := t.decode y
  let fl := snanFlag [a, b]
  if a.isNan && b.isNan then (t.nan, fl)
  else if a.isNan then (y, fl)
  else if b.isNan then (x, fl)
  else
    let less := flt a b || (a.isZero && b.isZero && a.neg && !b.neg)
    ((if less != big then x else y), fl)

/-- A value rounded to an integer by a mode: the integer, and whether it changed. -/
def toInteger (mode : Mode) (neg : Bool) (m : Nat) (e : Int) : Int × Bool :=
  let r := roundTo mode neg m e 0
  (if neg then -(r.1 : Int) else r.1, r.2)

/-- FRND on a code (R186). -/
def frnd (t : Fmt) (mode : Mode) (fz : Bool) (w : Nat) : Nat × BitVec 5 :=
  match t.read fz w with
  | .nan s _ => (t.nan, if s then flNV else 0)
  | .inf n => (t.inf n, 0)
  | .fin n m e =>
    let r := roundTo mode n m e 0
    ((t.encode .rne false (.fin n r.1 0)).1, 0)

end Sys2Proof.Machine
end

