-- ==== Sys2Proof/Machine/Narrow.lean ====
section
/-!
DEFINITION. Narrow formats (R173 to R176), block scales (R179), and conversions (R189, R190).
-/

namespace Sys2Proof.Machine

/-- The fields of a narrow-format descriptor (R173). -/
structure Narrow where
  sat : Bool
  tc : Bool
  sub : Bool
  spec : Nat
  bias : Int
  s : Nat
  m : Nat
  e : Nat
  deriving DecidableEq, Repr

def Narrow.ofWord (d : Word) : Narrow :=
  { sat := d.getLsbD 21, tc := d.getLsbD 20, sub := d.getLsbD 18
    spec := (d.extractLsb' 16 2).toNat
    bias := (d.extractLsb' 8 8).toInt
    s := (d.extractLsb' 6 1).toNat
    m := (d.extractLsb' 3 3).toNat
    e := (d.extractLsb' 0 3).toNat }

/-- Bits of a code (R173). -/
def Narrow.width (n : Narrow) : Nat := n.s + n.e + n.m

/-- Whether a descriptor is legal (R174). -/
def narrowLegal (d : Word) : Bool :=
  let n := Narrow.ofWord d
  let emax : Int := 2 ^ n.e - (if n.spec = 2 then 2 else 1) - n.bias
  d ≠ 0 && d.extractLsb' 22 10 = 0 && !d.getLsbD 19 && !d.getLsbD 7 && n.spec ≠ 3 &&
    1 ≤ n.width && n.width ≤ 8 && !(n.e = 0 && (n.spec ≠ 0 || n.sub)) &&
    !(n.tc && (n.e ≠ 0 || n.s = 0)) &&
    (if n.e = 0 then decide ((n.m : Int) - n.bias ≤ 127 ∧ n.bias ≤ 149)
     else decide (emax ≤ 127 ∧ -149 ≤ 1 - n.bias - n.m))

/-- The value of a code of a narrow format (R175). -/
def Narrow.decode (n : Narrow) (byte : Nat) : FVal :=
  let c := byte % 2 ^ n.width
  let man := c % 2 ^ n.m
  let ex := c / 2 ^ n.m % 2 ^ n.e
  let neg := n.s = 1 && c.testBit (n.width - 1)
  let top := 2 ^ n.e - 1
  if n.e = 0 then
    (if n.tc then
      (if neg then .fin true (2 ^ n.m - man) (-n.bias) else .fin false man (-n.bias))
     else .fin neg man (-n.bias))
  else if ex = 0 && n.sub then .fin neg man (1 - n.bias - n.m)
  else if ex = 0 then .fin neg 0 0
  else if n.spec = 1 && ex = top && man = 2 ^ n.m - 1 then .nan false neg
  else if n.spec = 2 && ex = top then (if man = 0 then .inf neg else .nan false neg)
  else .fin neg (2 ^ n.m + man) (ex - n.bias - n.m)

/-- The largest finite code magnitude of a floating narrow format (R176). -/
def Narrow.largest (n : Narrow) : Nat :=
  let top := 2 ^ n.e - 1
  let topFinite := if n.spec = 2 || (n.spec = 1 && n.m = 0) then top - 1 else top
  if topFinite = 0 && !n.sub then 0
  else if n.spec = 2 then top * 2 ^ n.m - 1
  else if n.spec = 1 then (if n.m = 0 then top - 1 else top * 2 ^ n.m + (2 ^ n.m - 2))
  else top * 2 ^ n.m + (2 ^ n.m - 1)

/-- The finite values of a floating narrow format (R176). -/
def Narrow.grid (n : Narrow) : Grid :=
  let big := match n.decode n.largest with
    | .fin _ m e => (m, e)
    | _ => (0, 0)
  { p := n.m + 1, emin := 1 - n.bias, sub := n.sub, maxM := big.1, maxQ := big.2 }

/-- Whether the format has a NaN code (R176). -/
def Narrow.hasNan (n : Narrow) : Bool := n.spec = 1 || (n.spec = 2 && 1 ≤ n.m)

/-- A code with a sign. -/
def Narrow.signed (n : Narrow) (neg : Bool) (mag : Nat) : Nat :=
  (if neg && n.s = 1 then 2 ^ (n.width - 1) else 0) + mag

/-- NaN(s) of R176. -/
def Narrow.nanCode (n : Narrow) (neg : Bool) : Nat := n.signed neg (2 ^ (n.e + n.m) - 1)

/-- The code of an integer in a scaled-integer format, saturated (R176). -/
def Narrow.intCode (n : Narrow) (neg : Bool) (i : Int) (inexact : Bool) : Nat × BitVec 5 :=
  let lo : Int := if n.s = 0 then 0 else if n.tc then -2 ^ n.m else -(2 ^ n.m - 1)
  let hi : Int := 2 ^ n.m - 1
  let v := Sys2Proof.Machine.sat i lo hi
  let fl := (if v ≠ i then flOF ||| flNX else 0) ||| (if inexact then flNX else 0)
  let code := if n.tc then wrap (n.m + 1) v
    else n.signed (decide (v < 0) || (v = 0 && neg)) v.natAbs
  (code, fl)

/-- Encoding of a value (R176): the code and the flags. -/
def Narrow.encode (n : Narrow) (mode : Mode) (v : FVal) : Nat × BitVec 5 :=
  match v with
  | .nan sn neg =>
    if n.hasNan then (n.nanCode neg, if sn then flNV else 0) else (0, flNV)
  | .inf neg =>
    if n.s = 0 && neg then (0, flNV)
    else if n.spec = 2 then (n.signed neg ((2 ^ n.e - 1) * 2 ^ n.m), 0)
    else if n.e = 0 then
      ((n.intCode neg (if neg then -2 ^ n.m else 2 ^ n.m - 1) false).1, flOF)
    else (n.signed neg n.largest, flOF)
  | .fin neg m e =>
    if n.s = 0 && neg then (0, if m = 0 then 0 else flNV)
    else if n.e = 0 then
      let r := toInteger mode neg m (e + n.bias)
      n.intCode neg r.1 r.2
    else
      let r := n.grid.round mode neg m e
      if r.big then
        (if n.sat || !overInf mode neg then n.signed neg n.largest
         else if n.spec = 2 then n.signed neg ((2 ^ n.e - 1) * 2 ^ n.m)
         else if n.spec = 1 then n.nanCode neg
         else n.signed neg n.largest, r.flags)
      else (n.signed neg ((r.q - n.grid.qmin).toNat * 2 ^ n.m + r.n), r.flags)

/-- A valid block scale (R179). -/
def scaleValid (w : BitVec 16) : Bool :=
  !w.getLsbD 15 && w.extractLsb' 7 8 ≠ 0 && w.extractLsb' 7 8 ≠ 255

/-! ## Conversions -/

/-- A conversion type by its code (R189): a float format, or an integer width and signedness. -/
def cvtFmt : Nat → Option Fmt
  | 0 => some f32 | 1 => some f64 | 2 => some f16 | 3 => some bf16 | _ => none
def cvtWidth (t : Nat) : Nat := if 6 ≤ t then 64 else 32
def cvtSigned (t : Nat) : Bool := t % 2 = 0

/-- A source value of CVT from its raw bits (R189). -/
def cvtRead (t : Nat) (fz : Bool) (w : Nat) : FVal :=
  match cvtFmt t with
  | some f => f.read fz (w % 2 ^ f.width)
  | none =>
    let w := w % 2 ^ cvtWidth t
    if cvtSigned t && w.testBit (cvtWidth t - 1) then .fin true (2 ^ cvtWidth t - w) 0
    else .fin false w 0

/-- A value converted to an integer type (R189). -/
def toInt (t : Nat) (mode : Mode) (v : FVal) : Nat × BitVec 5 :=
  let w := cvtWidth t
  let lo : Int := if cvtSigned t then -2 ^ (w - 1) else 0
  let hi : Int := if cvtSigned t then 2 ^ (w - 1) - 1 else 2 ^ w - 1
  match v with
  | .nan _ _ => (0, flNV)
  | .inf neg => (wrap w (if neg then lo else hi), flNV)
  | .fin neg m e =>
    let r := toInteger mode neg m e
    if r.1 < lo || hi < r.1 then (wrap w (sat r.1 lo hi), flNV)
    else (wrap w r.1, if r.2 then flNX else 0)

/-- CVT (R189). A NaN that stays a float is canonical, with NV for a signalling one (R167). -/
def cvt (src dst : Nat) (mode : Mode) (fz : Bool) (w : Nat) : Nat × BitVec 5 :=
  let fromFloat := src < 4
  let v := cvtRead src (fz && fromFloat) w
  match cvtFmt dst with
  | some f =>
    let r := f.encode mode (fz && fromFloat) v
    (r.1, r.2 ||| snanFlag [v])
  | none => toInt dst mode v

/-- The rounding mode that V of CVT and QCVT selects (R189). -/
def cvtMode (v : BitVec 3) (rm : Nat) : Mode := modeOf (if v = 5 then rm else v.toNat)

/-- QCVT on a slot's descriptor (R190): b is the conversion code, x the operand read as f32 or raw. -/
def qcvt (desc : Word) (mode : Mode) (b : BitVec 7) (x : Word) : Word × BitVec 5 :=
  let j := (b.extractLsb' 4 2).toNat
  let dec := b.getLsbD 6
  if desc = 0 then (if dec then BitVec.ofNat 32 f32.nan else 0, flNV)
  else
    let n := Narrow.ofWord desc
    if dec then
      (BitVec.ofNat 32 (f32.encode .rne false (n.decode (x.toNat / 2 ^ (8 * j) % 256))).1, 0)
    else
      let r := n.encode mode (f32.decode x.toNat)
      (BitVec.ofNat 32 (r.1 * 2 ^ (8 * j)), r.2)

end Sys2Proof.Machine
end

