-- ==== Sys2Proof/Machine/FPipe.lean ====
section
/-!
DEFINITION. The words of the F pipe (R180 to R192) and FMTS (R178).
-/

namespace Sys2Proof.Machine

/-- The element format of a type code (R180): f32, f64, f16, bf16. -/
def typeFmt (t : Nat) : Fmt := (cvtFmt t).getD f32

/-- The code of an inline constant in a format; every n is exact (R49). -/
def Fmt.const (t : Fmt) (n : Int) : Nat := (t.encode .rne false (.fin (n < 0) n.natAbs 0)).1

/-- An F-pipe operand as raw bits of its type (R49): the packed types hold a constant in both halves. -/
def Env.fop (e : Env) (fb : Fibre) (t : Nat) (code : BitVec 7) : Nat :=
  if 80 ≤ code.toNat then
    let c := (typeFmt t).const (inlineValue code)
    if 2 ≤ t then c + c * 65536 else c
  else if t = 1 then (e.op64 fb code).toNat
  else (e.op32 fb code).toNat

/-- The operand in D of an accumulating word (R182). -/
def Env.facc (e : Env) (fb : Fibre) (t : Nat) (code : BitVec 7) : Nat :=
  if t = 1 then (e.pairAt fb code 0).toNat else (e.regAt fb code 0).toNat

/-- An operation on one element, given the codes of d, a and b. -/
abbrev ElemOp := Fmt → Mode → Bool → Nat → Nat → Nat → Nat × BitVec 5

/-- An element operation on a type: once, or on each half of a packed word (R166). -/
def onType (t : Nat) (mode : Mode) (fz : Bool) (op : ElemOp) (d a b : Nat) : Nat × BitVec 5 :=
  let fmt := typeFmt t
  if t < 2 then op fmt mode fz d a b
  else
    let lo := op fmt mode fz (d % 65536) (a % 65536) (b % 65536)
    let hi := op fmt mode fz (d / 65536) (a / 65536) (b / 65536)
    (lo.1 + hi.1 * 65536, lo.2 ||| hi.2)

/-- An exact result rounded into its format, with both steps' flags. -/
def Fmt.finish (t : Fmt) (mode : Mode) (fz : Bool) (r : FVal × BitVec 5) : Nat × BitVec 5 :=
  let c := t.encode mode fz r.1
  (c.1, c.2 ||| r.2)

/-- The element operations of R182, R183, R186 and R187. -/
def elemAdd : ElemOp := fun t m fz _ a b => t.finish m fz (fsum m [t.read fz a, t.read fz b])
def elemSub : ElemOp := fun t m fz _ a b => t.finish m fz (fsum m [t.read fz a, (t.read fz b).negate])
def elemMul : ElemOp := fun t m fz _ a b => t.finish m fz (fmul (t.read fz a) (t.read fz b))
def elemFma : ElemOp := fun t m fz d a b =>
  t.finish m fz (ffma m (t.read fz d) (t.read fz a) (t.read fz b))
def elemMin : ElemOp := fun t _ fz _ a b => fminmax t fz false a b
def elemMax : ElemOp := fun t _ fz _ a b => fminmax t fz true a b
def elemRnd : ElemOp := fun t m fz _ a _ => frnd t m fz a
def elemDiv : ElemOp := fun t m fz _ a b => t.finish m fz (fdiv (t.read fz a) (t.read fz b))
def elemSqrt : ElemOp := fun t m fz _ a _ => t.finish m fz (fsqrt (t.read fz a))

/-- FSGN's bit operation (R185). -/
def elemSgn : ElemOp := fun t _ _ _ a b =>
  let w := 2 ^ t.signBit
  let neg := a.testBit t.signBit != b.testBit t.signBit
  (a % w + (if neg then w else 0), 0)

/-- The functions of SFU by variant (R188). -/
def sfu (v : BitVec 3) (mode : Mode) (fz : Bool) (a : Nat) : Nat × BitVec 5 :=
  let x := f32.read fz a
  f32.finish mode fz (match v.toNat with
    | 0 => fdiv (.fin false 1 0) x
    | 1 => frsqrt x
    | 2 => fexp2 x
    | 3 => flog2 x
    | 4 => ftrig false x
    | _ => ftrig true x)

/-- FDOT2 (R192): three exact terms, one rounding into f32. -/
def fdot2 (t : Fmt) (mode : Mode) (fz : Bool) (d a b : Nat) : Nat × BitVec 5 :=
  let lane (k : Nat) := fmul (t.read fz (a / 65536 ^ k % 65536)) (t.read fz (b / 65536 ^ k % 65536))
  let p := lane 0
  let q := lane 1
  let r := fsum mode [f32.read fz d, p.1, q.1]
  f32.finish mode fz (r.1, r.2 ||| p.2 ||| q.2)

/-- PK2 and UPK2 (R191). -/
def pk2 (t : Fmt) (mode : Mode) (fz : Bool) (a b : Nat) : Nat × BitVec 5 :=
  let one (w : Nat) :=
    let v := f32.read fz w
    t.finish mode fz (v, snanFlag [v])
  ((one a).1 + (one b).1 * 65536, (one a).2 ||| (one b).2)

def upk2 (t : Fmt) (a : Nat) : Nat × BitVec 5 :=
  let one (w : Nat) :=
    let v := t.decode w
    f32.finish .rne false (v, snanFlag [v])
  ((one (a % 65536)).1 + (one (a / 65536)).1 * 2 ^ 32, (one (a % 65536)).2 ||| (one (a / 65536)).2)

/-- A typed F-pipe result: the latch, the registers and the flags (R166, R170). -/
def Fibre.putF (fb : Fibre) (e : Env) (f : F3) (n : Nat) (r : Nat × BitVec 5) : Fibre :=
  (fb.put e .F f.d n r.1).raiseFlags r.2

/-- A word of the type family with a result written in its run. -/
def typed (op : ElemOp) (f : F3) (e : Env) (fb : Fibre) : Fibre :=
  let t := f.x.toNat
  fb.putF e f (pairIf (t = 1))
    (onType t (modeOf fb.rm) fb.fz op (e.facc fb t f.d) (e.fop fb t f.a) (e.fop fb t f.b))

/-- A word of the type family with a deferrable result, whose flags merge when it lands (R170). -/
def typedLater (op : ElemOp) (f : F3) (e : Env) (fb : Fibre) : Fibre :=
  let t := f.x.toNat
  let r := onType t (modeOf fb.rm) fb.fz op 0 (e.fop fb t f.a) (e.fop fb t f.b)
  fb.putLater e .F f.d (pairIf (t = 1)) r.1 r.2

/-- FADD (R182). -/
def execFadd (f : F3) (s : State) : Host.Outcome State Fault Refusal :=
  s.issueEach (.fadd f) f.c (typed elemAdd f)

/-- FSUB (R182). -/
def execFsub (f : F3) (s : State) : Host.Outcome State Fault Refusal :=
  s.issueEach (.fsub f) f.c (typed elemSub f)

/-- FMUL (R182). -/
def execFmul (f : F3) (s : State) : Host.Outcome State Fault Refusal :=
  s.issueEach (.fmul f) f.c (typed elemMul f)

/-- FMA rounds once (R182). -/
def execFma (f : F3) (s : State) : Host.Outcome State Fault Refusal :=
  s.issueEach (.fma f) f.c (typed elemFma f)

/-- FMIN (R183). -/
def execFmin (f : F3) (s : State) : Host.Outcome State Fault Refusal :=
  s.issueEach (.fmin f) f.c (typed elemMin f)

/-- FMAX (R183). -/
def execFmax (f : F3) (s : State) : Host.Outcome State Fault Refusal :=
  s.issueEach (.fmax f) f.c (typed elemMax f)

/-- A comparison word: its predicate and its flags. -/
def compareWord (t : Nat) (f : F3) (e : Env) (fb : Fibre) : Fibre :=
  let fmt := typeFmt t
  let r := fcmp f.x (fmt.read fb.fz (e.fop fb t f.a)) (fmt.read fb.fz (e.fop fb t f.b))
  (fb.putPred f.d.toNat r.1).raiseFlags r.2

/-- FCMP (R184). -/
def execFcmp (f : F3) (s : State) : Host.Outcome State Fault Refusal :=
  s.issueEach (.fcmp f) f.c (compareWord 0 f)

/-- DCMP (R184). -/
def execDcmp (f : F3) (s : State) : Host.Outcome State Fault Refusal :=
  s.issueEach (.dcmp f) f.c (compareWord 1 f)

/-- FSGN (R185). -/
def execFsgn (f : F3) (s : State) : Host.Outcome State Fault Refusal :=
  s.issueEach (.fsgn f) f.c (typed elemSgn f)

/-- FRND (R186). -/
def execFrnd (f : F3) (s : State) : Host.Outcome State Fault Refusal :=
  s.issueEach (.frnd f) f.c (typed elemRnd f)

/-- The source operand of CVT: a float constant in its type, an integer one sign-extended (R48, R49). -/
def Env.cvtOperand (e : Env) (fb : Fibre) (t : Nat) (code : BitVec 7) : Nat :=
  if t < 4 then (e.fop fb t code) % 2 ^ (typeFmt t).width
  else if 6 ≤ t then (e.op64 fb code).toNat else (e.op32 fb code).toNat

/-- CVT (R189). -/
def execCvt (f : F3) (s : State) : Host.Outcome State Fault Refusal :=
  s.issueEach (.cvt f) f.c fun e fb =>
    let src := (f.b.extractLsb' 3 3).toNat
    let dst := (f.b.extractLsb' 0 3).toNat
    fb.putF e f (cvtRegs (f.b.extractLsb' 0 3))
      (cvt src dst (cvtMode f.x fb.rm) fb.fz (e.cvtOperand fb src f.a))

/-- QCVT (R190): encoding reads A as f32, decoding as raw bits. -/
def execQcvt (f : F3) (s : State) : Host.Outcome State Fault Refusal :=
  s.issueEach (.qcvt f) f.c fun e fb =>
    let desc := sget 0 fb.tsnap (f.b.extractLsb' 0 4).toNat
    let x := if f.b.getLsbD 6 then e.op32 fb f.a else BitVec.ofNat 32 (e.fop fb 0 f.a)
    let r := qcvt desc (cvtMode f.x fb.rm) f.b x
    fb.putF e f 1 (r.1.toNat, r.2)

/-- FDIV, with a deferrable result (R187, R66). -/
def execFdiv (f : F3) (s : State) : Host.Outcome State Fault Refusal :=
  s.issueEach (.fdiv f) f.c (typedLater elemDiv f)

/-- FSQRT, with a deferrable result (R187, R66). -/
def execFsqrt (f : F3) (s : State) : Host.Outcome State Fault Refusal :=
  s.issueEach (.fsqrt f) f.c (typedLater elemSqrt f)

/-- SFU, with a deferrable result (R188, R66). -/
def execSfu (f : F3) (s : State) : Host.Outcome State Fault Refusal :=
  s.issueEach (.sfu f) f.c fun e fb =>
    let r := sfu f.x (modeOf fb.rm) fb.fz (e.fop fb 0 f.a)
    fb.putLater e .F f.d 1 r.1 r.2

/-- PK2 (R191). -/
def execPk2 (f : F3) (s : State) : Host.Outcome State Fault Refusal :=
  s.issueEach (.pk2 f) f.c fun e fb =>
    fb.putF e f 1 (pk2 (typeFmt f.x.toNat) (modeOf fb.rm) fb.fz (e.fop fb 0 f.a) (e.fop fb 0 f.b))

/-- UPK2 (R191). -/
def execUpk2 (f : F3) (s : State) : Host.Outcome State Fault Refusal :=
  s.issueEach (.upk2 f) f.c fun e fb =>
    fb.putF e f 2 (upk2 (typeFmt f.x.toNat) (e.fop fb f.x.toNat f.a))

/-- FDOT2 (R192). -/
def execFdot2 (f : F3) (s : State) : Host.Outcome State Fault Refusal :=
  s.issueEach (.fdot2 f) f.c fun e fb =>
    let t := f.x.toNat
    fb.putF e f 1 (fdot2 (typeFmt t) (modeOf fb.rm) fb.fz (e.facc fb 0 f.d) (e.fop fb t f.a) (e.fop fb t f.b))

/-- FMTS on a table (R178): the slot's new value, and whether the descriptor was refused. -/
def fmtsWrite (tab : Sparse Word) (a b : Word) : Sparse Word × Bool :=
  let k := (a.extractLsb' 0 4).toNat
  if b = 0 || narrowLegal b then (sset 0 tab k b, false) else (sset 0 tab k 0, true)

/-- FMTS by one member: a fibre away from home writes its own copy (R177), and a refused descriptor
raises NV. -/
def fmtsMember (e : Env) (f : F3) (g : Group) (fid : Nat) : Group :=
  let fb := g.fibre fid
  let tab := fb.ftab.getD g.fmttab
  let r := fmtsWrite tab (e.op32 fb f.a) (e.op32 fb f.b)
  let g := g.modFibre fid fun fb =>
    let fb := { fb with ftab := if fb.ftab.isSome then some r.1 else none }
    if r.2 then fb.raiseFlags flNV else fb
  if fb.ftab.isSome then g else { g with fmttab := r.1 }

/-- FMTS, by each member in ascending order (R178). -/
def execFmts (f : F3) (s : State) : Host.Outcome State Fault Refusal :=
  s.issue (.fmts f) f.c noCheck fun s r =>
    s.modGroup r.grp fun g => r.fids.foldl (fmtsMember (s.env r) f) g

end Sys2Proof.Machine
end

