-- ==== Sys2Proof/Machine/Churn.lean ====
section
/-!
DEFINITION. The Churn (R295 to R300): grid descriptors, stencil tables, and one result element.
-/

namespace Sys2Proof.Machine

/-! ## Descriptors and tables -/

def GridPlan.ctl (p : GridPlan) : Nat := (p.desc.extractLsb' 0 64).toNat
/-- Dimensions, boundary, formats and roundings (R295). -/
def GridPlan.dims (p : GridPlan) : Nat := bits p.ctl 0 2
def GridPlan.boundary (p : GridPlan) : Nat := bits p.ctl 2 2
def GridPlan.fcode (p : GridPlan) (fine : Bool) : Nat := if fine then bits p.ctl 4 4 else bits p.ctl 8 4
def GridPlan.rcode (p : GridPlan) (fine : Bool) : Nat := if fine then bits p.ctl 12 3 else bits p.ctl 15 3
def GridPlan.table (p : GridPlan) : DWord := p.desc.extractLsb' 64 64
/-- Coarse extent of a dimension, and stride of a level's dimension (R295). -/
def GridPlan.cext (p : GridPlan) (i : Nat) : Nat := bits p.desc.toNat (128 + 16 * i) 16
def GridPlan.stride (p : GridPlan) (fine : Bool) (i : Nat) : Nat :=
  bits p.desc.toNat ((if fine then 192 else 288) + 32 * i) 32

/-- A grid format by its code (R295). -/
def gridFmt (code : Nat) : Fmt := if code = 0 then f64 else if code = 1 then f32 else if code = 2 then f16 else bf16
/-- Bytes of an element. -/
def gridSize (code : Nat) : Nat := if code = 0 then 8 else if code = 1 then 4 else 2

/-- Whether a descriptor is malformed, its table pointer included (R295, R282 cause 7). -/
def GridPlan.malformed (p : GridPlan) : Bool :=
  p.ctl / 2 ^ 18 ≠ 0 || p.desc.extractLsb' 176 16 ≠ 0 || p.desc.extractLsb' 384 128 ≠ 0 || p.dims = 0 ||
    p.boundary = 3 || 3 < p.fcode true || 3 < p.fcode false || 4 < p.rcode true || 4 < p.rcode false ||
    p.table = 0 || ptrBad p.table ||
    ((List.range 3).any fun i => p.cext i = 0 || 32768 < p.cext i || (p.dims ≤ i && p.cext i ≠ 1))

/-- Whether a grid address, or a stride of a used dimension, is no multiple of its element size (R282
cause 2, R295). -/
def GridPlan.misaligned (p : GridPlan) (r : Record) : Bool :=
  let pro := r.kind = 6
  let fs := gridSize (p.fcode true)
  let cs := gridSize (p.fcode false)
  p.fcode true ≤ 3 && p.fcode false ≤ 3 &&
    (r.src.toNat % (if pro then cs else fs) ≠ 0 || r.dst.toNat % (if pro then fs else cs) ≠ 0 ||
      (List.range p.dims).any fun i => p.stride true i % fs ≠ 0 || p.stride false i % cs ≠ 0)

/-- The width w of a table (R297): the taps of a row, or the odd number whose d-th power they are; 0 when
there is none. -/
def GridPlan.width (p : GridPlan) : Nat :=
  if p.sep then (if p.taps % 2 = 1 then p.taps else 0)
  else (((List.range 14).map fun k => 2 * k + 1).find? fun k => k ^ p.dims = p.taps).getD 0

/-- Whether a stencil table is malformed for a record kind (R17, R297); head is its 8-byte header. -/
def GridPlan.tableBad (p : GridPlan) (pro : Bool) (head : Nat) : Bool :=
  head / 2 ^ 33 ≠ 0 || p.taps = 0 || 27 < p.taps || p.nrows ≠ (if pro then 2 else 1) || p.width = 0 ||
    (pro && !p.sep && 2 ≤ p.dims)

/-! ## Elements -/

/-- Extent of a level's dimension (R296). -/
def GridPlan.ext (p : GridPlan) (fine : Bool) (i : Nat) : Nat :=
  if !fine || p.dims ≤ i then p.cext i else if p.boundary = 2 then 2 * p.cext i else 2 * p.cext i - 1

/-- Elements of a level, and the coordinates of one in the order of R300. -/
def GridPlan.count (p : GridPlan) (fine : Bool) : Nat := p.ext fine 0 * p.ext fine 1 * p.ext fine 2
def GridPlan.coord (p : GridPlan) (fine : Bool) (k i : Nat) : Nat :=
  match i with
  | 0 => k % p.ext fine 0
  | 1 => k / p.ext fine 0 % p.ext fine 1
  | _ => k / (p.ext fine 0 * p.ext fine 1)

/-- Address of a level's element at three coordinates (R296). -/
def GridPlan.addr (p : GridPlan) (fine spad : Bool) (base : DWord) (c : Nat → Nat) : Nat :=
  engineSum spad base (c 0 * p.stride fine 0 + c 1 * p.stride fine 1 + c 2 * p.stride fine 2)
where
  /-- Base and offset added in 64 bits; a scratchpad sum is not cut off. -/
  engineSum (spad : Bool) (base : DWord) (off : Nat) : Nat :=
    if spad then base.toNat + off else (base.toNat + off) % 2 ^ 64

/-- Address of element k of a level. -/
def GridPlan.elemAt (p : GridPlan) (fine spad : Bool) (base : DWord) (k : Nat) : Nat :=
  p.addr fine spad base (p.coord fine k)

/-- Weight u of a row. -/
def GridPlan.weight (p : GridPlan) (row u : Nat) : FVal := f64.decode ((p.weights[row * p.taps + u]?).getD 0).toNat

/-- A rounded f64 product (R297). -/
def mulRound (a b : FVal) : FVal × BitVec 5 :=
  let p := fmul a b
  let r := f64.encode .rne false p.1
  (f64.decode r.1, p.2 ||| r.2)

/-- The weight of tap t for a result element (R297) and its flags; row gives a dimension's table row. -/
def GridPlan.tapWeight (p : GridPlan) (row : Nat → Nat) (t : Nat) : FVal × BitVec 5 :=
  if !p.sep then (p.weight (row 0) t, 0)
  else
    let u (i : Nat) := t / p.width ^ i % p.width
    let w (i : Nat) := p.weight (row i) (u i)
    (List.range (p.dims - 1)).foldl (init := (w 0, 0)) fun q i =>
      let m := mulRound q.1 (w (i + 1))
      (m.1, q.2 ||| m.2)

/-- The index a tap reads along a dimension of n (R296); none reads as +0. -/
def tapIndex (boundary : Nat) (k : Int) (n : Nat) : Option Nat :=
  if 0 ≤ k && k < n then some k.toNat
  else if boundary = 0 then none
  else if boundary = 1 then some (if k < 0 then 0 else n - 1)
  else some (k % n).toNat

/-- The coordinates of the source element that tap t of a result reads (R298); none when it reads +0. -/
def GridPlan.tapCoord (p : GridPlan) (pro : Bool) (res : Nat → Nat) (t : Nat) : Option (Nat → Nat) :=
  let at_ (i : Nat) : Option Nat :=
    if p.dims ≤ i then some 0
    else
      let u : Int := (t / p.width ^ i % p.width : Nat)
      let off := u - ((p.width - 1) / 2 : Nat)
      let mid : Int := (if pro then res i / 2 else 2 * res i : Nat)
      tapIndex p.boundary (mid + off) (p.ext (!pro) i)
  match at_ 0, at_ 1, at_ 2 with
  | some x, some y, some z => some fun i => if i = 0 then x else if i = 1 then y else z
  | _, _, _ => none

/-- One f64 addition under RNE, fused with a product when there is one (R299). -/
def chainStep (acc : FVal) (p : FVal × BitVec 5) : FVal × BitVec 5 :=
  let r := fsum .rne [p.1, acc]
  let c := f64.encode .rne false r.1
  (f64.decode c.1, p.2 ||| r.2 ||| c.2)

/-- The taps of a result from the t-th, and the flags (R299); rd reads an element. -/
def GridPlan.chain (p : GridPlan) (pro : Bool) (res : Nat → Nat) (rd : (Nat → Nat) → Except (Nat × Hit) FVal) :
    List Nat → FVal → BitVec 5 → Except (Nat × Hit) (FVal × BitVec 5)
  | [], acc, fl => .ok (acc, fl)
  | t :: ts, acc, fl =>
    let v : Except (Nat × Hit) FVal := match p.tapCoord pro res t with
      | none => .ok (.fin false 0 0)
      | some c => rd c
    match v with
    | .error e => .error e
    | .ok v =>
      let w := p.tapWeight (fun i => if pro then res i % 2 else 0) t
      let r := chainStep acc (fmul w.1 v)
      p.chain pro res rd ts r.1 (fl ||| w.2 ||| r.2)

/-- Result element k of a record (R296 to R299): its code, size, address and flags, or why not. -/
def State.gridElem (s : State) (g : Group) (r : Record) (p : GridPlan) (k : Nat) :
    Except (Nat × Hit) (Nat × Nat × BitVec 5) :=
  let pro := r.kind = 6
  let sf := gridFmt (p.fcode (!pro))
  let df := gridFmt (p.fcode pro)
  let rd (c : Nat → Nat) : Except (Nat × Hit) FVal :=
    match s.engineRead g r.sspace (p.addr (!pro) r.sspace r.src c) (gridSize (p.fcode (!pro))) with
    | .ok v => .ok (sf.decode v)
    | .error e => .error e
  let taps := if p.sep then p.width ^ p.dims else p.taps
  match p.chain pro (p.coord pro k) rd (List.range taps) (.fin false 0 0) 0 with
  | .error e => .error e
  | .ok q =>
    let da := p.elemAt pro r.dspace r.dst k
    let old : Except (Nat × Hit) (FVal × BitVec 5) :=
      if r.acc then
        match s.engineRead g r.dspace da (gridSize (p.fcode pro)) with
        | .ok v => .ok (chainStep q.1 (df.decode v, 0))
        | .error e => .error e
      else .ok (q.1, 0)
    match old with
    | .error e => .error e
    | .ok a =>
      let c := df.encode (modeOf (p.rcode pro)) false a.1
      .ok (c.1, da, q.2 ||| a.2 ||| c.2)

/-- The lines that hold source elements of a record (R300). -/
def GridPlan.sourceLines (p : GridPlan) (r : Record) : List Nat :=
  let fine := r.kind ≠ 6
  (List.range (p.count fine)).map fun k => p.elemAt fine r.sspace r.src k

/-- The source-free target of a grid record, once its last result has been computed (R300); a line
outside the window is left alone (R287). -/
def State.fireSource (s : State) (g : Group) (r : Record) (p : GridPlan) : State :=
  let fine := r.kind ≠ 6
  if r.sfmode = 1 then s.fire g r.scope 1 r.sfbar 0 (p.count fine * gridSize (p.fcode fine)) false
  else if r.sfmode = 2 then
    ((p.sourceLines r).filter fun a => g.spb ≤ a && a < g.spl).foldl (fun s a => s.fire g r.scope 2 0 a 0 false) s
  else s

end Sys2Proof.Machine
end

