-- ==== Sys2Proof/Machine/Waits.lean ====
section
/-!
DEFINITION. The common wait (R97 to R107): placing it, testing it, its end, withdrawal of its arrival,
escalation, and the ends of fibres and groups that withdraw arrivals (R129, R131).
-/

namespace Sys2Proof.Machine

/-- The fields of a waiting word. -/
def Wait.f3 (w : Wait) : F3 := F3.ofBody (w.word.getLsbD 31) (w.word.extractLsb' 0 24)

/-- What a result of a wait needs of its run: the microprogram base. -/
def Wait.env (w : Wait) : Env := { tick := w.issued, core := 0, index := 0, mask := w.mask, mp := w.mp, window := 0 }

/-- Whether two waits are one: the same word issued on the same tick. -/
def Wait.same (v w : Wait) : Bool :=
  v.word == w.word && v.pkt == w.pkt && v.issued == w.issued && v.mask == w.mask

/-- The fibres that wait as one with a fibre's wait (R97). -/
def Wait.members (fid : Nat) (w : Wait) : List Nat :=
  if w.mask = 0 then [fid] else (maskList 32 w.mask.toNat).map (fid / 32 * 32 + ·)

/-- A result of a wait for a member: the number of registers from D, none when 0, and the value. -/
abbrev Result := Nat × Nat

/-- No result register written. -/
def noResult (_ : Nat) : Result := (0, 0)

/-- What testing a wait on a tick gives (R98). -/
inductive Ev where
  /-- The condition holds: detail, the state after its effects, and the results by fid. -/
  | ok (detail : Nat) (s : State) (out : Nat → Result)
  /-- An immediate outcome; first tells that it is tested before the condition. -/
  | imm (first : Bool) (code : Code) (detail : Nat) (s : State) (out : Nat → Result)
  | wait
  /-- Not met, and the test has asked the memory system for something: the state with its request. -/
  | ask (s : State)

/-- What the chapter that owns a waiting word defines for it. -/
structure WaitKind where
  cls : Nat
  pipe : Pipe
  eval : State → Group → Fibre → Wait → Ev
  /-- Detail, result and effects of a wait that ends on its deadline. -/
  late : State → Group → Fibre → Wait → Nat × Result × State := fun s _ _ _ => (0, (0, 0), s)
  /-- FENCE ends with PARTIAL on its deadline (R98). -/
  fence : Bool := false

/-! ## The end of a wait -/

/-- Finish (R105) for one fibre with its region's escalation threshold. -/
def Fibre.finish (fb : Fibre) (threshold : Nat) (k : WaitKind) (w : Wait) (code : Code) (detail : Nat)
    (out : Result) : Fibre :=
  let fb := if out.1 = 0 then fb else fb.put w.env k.pipe w.f3.d out.1 out.2
  let fb := { fb with wait := none }
  if code = .ok then
    ({ fb with synced := fb.synced || !k.fence, ctx := { fb.ctx with escnt := 0 } }.status .ok k.cls detail).putPred 1 true
  else
    let n := if fb.ctx.escpc = w.pkt then fb.ctx.escnt.toNat + 1 else 1
    if threshold ≤ n then
      ({ fb with
        ctx := { fb.ctx with escpc := w.pkt, escnt := 0 }
        after := { fb.after with escw := some code.num } }.status .escalated k.cls code.num).putPred 1 false
    else
      ({ fb with ctx := { fb.ctx with escpc := w.pkt, escnt := BitVec.ofNat 16 n } }.status code k.cls
        detail).putPred 1 false

/-- The one fibre-level entry that a run's TRAP, ESCAL and escalated wait give (R346, R344), for a bundle's mask; an
ESCAL that is owed joins it (R107). -/
def Fibre.raiseAfter (fb : Fibre) (mask : BitVec 32) : Fibre :=
  let a := fb.after
  let escal := a.escal.orElse fun _ => fb.owed
  let own := 1#32 <<< memberOf fb.fid
  let t : Trap := { kind := 5, esci := escal.isSome, escw := a.escw.isSome, mask := mask, failing := own }
  let fb := { fb with
    after := { a with trap := none, escal := none, escw := none }
    owed := none }
  match a.trap with
  | some k =>
    { fb with
      entry := some { t with kind := 3, detail := k, fva := BitVec.ofNat 64 (escal.getD 0), failing := mask } }
  | none =>
    if t.esci || t.escw then
      { fb with
        entry := some
          { t with
            cause := a.escw.getD 0, detail := escal.getD 0, fva := fb.ctx.escpc
            failing := if t.esci then mask else own } }
    else fb

/-- A rendezvous after one member's arrival has left it; the last one closes it (R137). -/
def Rendezvous.leave (v : Rendezvous) (m : Nat) : Option Rendezvous :=
  let left := v.arrived &&& ~~~(1#32 <<< m)
  if left = 0 then none
  else some { v with arrived := left, vals := sset 0 v.vals m 0, olds := sset 0 v.olds m 0 }

/-- The arrival of a wait withdrawn from its object (R101, R263, R137); one counted in a phase that has
completed stays. -/
def State.withdraw (s : State) (g : Group) (fid : Nat) (w : Wait) : State :=
  match w.arr with
  | .none => s
  | .barrier a phase addb =>
    s.changeBar (g.padAddr a) fun b => if b.phase = phase then b.withdraw fid addb else b
  | .rendezvous =>
    s.modGroup g.gid fun g =>
      { g with
        rdvs := g.rdvs.filterMap fun v =>
          if v.team = fid / 32 && v.pkt = w.pkt then v.leave (memberOf fid) else some v }

/-- The picker forgets a sticky bundle one of whose waits ended after its issue tick (R123). -/
def State.unstick (s : State) (core gid fid : Nat) : State :=
  s.modCore core fun c =>
    { c with
      last := c.last.map fun l =>
        if l.grp = gid && (l.fids.contains fid || l.entered.contains fid) then { l with sticky := false } else l }

/-! ## A fibre's state record (R358) -/

/-- n bytes of a number, little-endian. -/
def leBytes (v : Nat) : Nat → List Byte
  | 0 => []
  | n + 1 => BitVec.ofNat 8 v :: leBytes (v / 256) n

/-- Bytes padded with zeros to a multiple of n. -/
def padTo (n : Nat) (l : List Byte) : List Byte := l ++ List.replicate ((n - l.length % n) % n) 0

/-- Numbers of n bytes each from a store, for indices 0 to m - 1. -/
def storeBytes {w : Nat} (m : Sparse (BitVec w)) (first count n : Nat) : List Byte :=
  (List.range count).flatMap fun k => leBytes (sget 0 m (first + k)).toNat n

/-- A fibre's pending wait: its own, or the one that its handler interrupted. -/
def Fibre.anyWait (fb : Fibre) : Option Wait := fb.wait.orElse fun _ => fb.saved

/-- The flags of a fibre's state record (R358). -/
def Fibre.recordFlags (fb : Fibre) : Nat :=
  (if fb.anyWait.isSome then 1 else 0) + (if fb.anyWait.any (·.arr != .none) then 2 else 0) +
    (if fb.ctx.inhandler then 4 else 0) + (if fb.held.isSome then 8 else 0) + (if fb.place = .home then 0 else 16) +
    (if fb.sysc.isSome then 32 else 0)

/-- Ticks for which a fibre has been ready; none of a fibre that waits or is held (R122, R358). -/
def Fibre.readyTicks (fb : Fibre) (now : DWord) : DWord :=
  if fb.st = .ready && fb.held.isNone && fb.sysc.isNone then now - fb.rdy else 0

/-- A fibre's state record, with its age (R358). -/
def Fibre.record (fb : Fibre) (age : Nat) : List Byte :=
  let c := fb.ctx
  let mc := fb.mc.getD (0, 0)
  let w := fb.anyWait
  storeBytes c.dl 1 7 8 ++ leBytes fb.rtk.toNat 8 ++ leBytes (c.preds ||| 1#96).toNat 12 ++ leBytes c.loclvl.toNat 4 ++
    leBytes c.wstat.toNat 4 ++ leBytes c.fpctl.toNat 4 ++ leBytes c.escnt.toNat 2 ++ leBytes fb.recordFlags 2 ++
    leBytes ((w.map (·.word.toNat)).getD 0) 4 ++ leBytes ((w.map (·.deadline.toNat)).getD 0) 8 ++
    leBytes c.epc.toNat 8 ++ leBytes c.prom.toNat 8 ++ leBytes c.escpc.toNat 8 ++ leBytes fb.pc.toNat 8 ++
    leBytes c.finfo.toNat 4 ++ leBytes c.fval.toNat 4 ++ leBytes c.fvah.toNat 4 ++ storeBytes c.shadow 0 4 4 ++
    leBytes fb.fid 2 ++ leBytes fb.gen.toNat 2 ++ leBytes fb.exitv.toNat 4 ++ leBytes age 4 ++
    leBytes fb.poison.toNat 8 ++ leBytes (mc.1 % 64 + if fb.mc.isSome then 128 else 0) 1 ++ leBytes mc.2 1 ++
    leBytes 0 6

/-- A fibre's state record and its window (R356). -/
def Fibre.recordAll (fb : Fibre) (window : Nat) (age : Nat) : List Byte :=
  fb.record age ++ storeBytes fb.ctx.regs 0 window 4

/-! ## Departure and the end of a wait -/

/-- Departure at the boundary after a granted MIGR (R135): results land, the writes are released at
scope D, the fibre leaves its slot and carries the format table; its home slot keeps its record (R356). -/
def State.depart (s : State) (gid fid : Nat) : State :=
  match s.group? gid with
  | none => s
  | some g =>
    let fb := g.fibre fid
    match fb.after.migr with
    | none => s
    | some (target, d) =>
      (s.release (fb.onCore g) 4).modFibre gid fid fun fb =>
        { fb.landAll with
          slotOn := match fb.place with
            | .landed c => if fb.unacked = 0 then none else some c
            | _ => none
          after := { fb.after with migr := none }
          ftab := some (fb.ftab.getD g.fmttab)
          leftAs := if fb.place = .home then fb.landAll.recordAll g.kern.window 0 else fb.leftAs
          place := .transit target d s.tick }

/-- The end of one fibre's wait with a code (R98, R101, R105). A wait that a handler has interrupted
keeps its outcome until the handler ends; a MIGR granted after its run departs now (R135). -/
def State.endWait (s : State) (k : WaitKind) (w : Wait) (gid fid : Nat) (code : Code) (detail : Nat)
    (out : Result) : State :=
  match s.group? gid with
  | none => s
  | some g =>
    let fb := g.fibre fid
    let s := if code = .ok then s else s.withdraw g fid w
    if fb.wait.any (·.same w) then
      let fb' := fb.finish g.pol.escal k w code detail out
      let s := s.modFibre gid fid fun _ =>
        if fb.st = .waiting then { fb' with st := .ready, rdy := s.tick }.raiseAfter w.bundle else fb'
      let s := if s.tick = w.issued then s else s.unstick (fb.onCore g) gid fid
      let s := s.traceRecord (fb.onCore g) g.vf gid 2 fid (1#32 <<< memberOf fid) (w.pkt ++ fb'.ctx.wstat : BitVec 96)
      if fb.st = .waiting then s.depart gid fid else s
    else
      s.modFibre gid fid fun fb =>
        { fb with
          saved := fb.saved.map fun v =>
            if v.same w then { v with arr := .none, ended := some (code.num, detail, out.1, out.2) } else v }

/-- The end of a wait for every fibre that waits as one with it. -/
def State.conclude (s : State) (k : WaitKind) (w : Wait) (gid fid : Nat) (code : Code) (detail : Nat)
    (out : Nat → Result) : State :=
  (w.members fid).foldl (fun s f => s.endWait k w gid f code detail (out f)) s

/-! ## Testing a wait -/

/-- A group, the lowest fibre of a fibre's wait, and the wait. -/
def State.waitOf (s : State) (gid fid : Nat) : Option (Group × Fibre × Wait) :=
  match s.group? gid with
  | none => none
  | some g =>
    match (g.fibre fid).wait with
    | none => none
    | some w => some (g, g.fibre ((w.members fid).headD fid), w)

/-- The word's condition tested once: a wait whose condition holds ends with OK. -/
def State.tryCond (s : State) (k : WaitKind) (gid fid : Nat) : State :=
  match s.waitOf gid fid with
  | none => s
  | some (g, fb, w) =>
    match w.ended with
    | some (c, d, out) => if c = 0 then s.endWait k w gid fid .ok d out else s
    | none =>
      match k.eval s g fb w with
      | .ok d s' out => s'.conclude k w gid fid .ok d out
      | .ask s' => s'
      | _ => s

/-- Whether a wait resumed on this tick finds its wall deadline passed (R103). -/
def Wait.expired (w : Wait) (now rtk : DWord) : Bool := w.resumed && !isBudget w.deadline && passed w.deadline now rtk

/-- The word's immediate outcomes tested once. -/
def State.tryImmediate (s : State) (k : WaitKind) (gid fid : Nat) : State :=
  match s.waitOf gid fid with
  | none => s
  | some (g, fb, w) =>
    match w.ended with
    | some (c, d, out) => if c = 0 then s else s.endWait k w gid fid (Code.ofNum c) d out
    | none =>
      match k.eval s g fb w with
      | .imm first c d s' out =>
        if !first && w.expired (s.tickAt (fb.onCore g)) fb.rtk then s else s'.conclude k w gid fid c d out
      | _ => s

/-- The code of a wait that ends on its deadline (R98, R103). -/
def Wait.lateCode (w : Wait) (fence : Bool) (now rtk : DWord) : Code :=
  if w.expired now rtk then .expired
  else if fence then .partly
  else if w.arr = .none then .timeout
  else .withdrawn

/-- The deadline tested once, after the condition and the immediate outcomes. -/
def State.tryDeadline (s : State) (k : WaitKind) (gid fid : Nat) : State :=
  match s.waitOf gid fid with
  | none => s
  | some (g, fb, w) =>
    let now := s.tickAt (fb.onCore g)
    if w.ended.isSome || !passed w.deadline now fb.rtk then s
    else
      let due (r : Nat × Result × State) : State :=
        r.2.2.conclude k w gid fid (w.lateCode k.fence now fb.rtk) r.1 fun _ => r.2.1
      match k.eval s g fb w with
      | .ok _ _ _ => s
      | .imm first _ _ _ _ => if !first && w.expired now fb.rtk then due (k.late s g fb w) else s
      | .wait => due (k.late s g fb w)
      | .ask _ => due (k.late s g fb w)

/-- The tests of an issue tick: the condition, then the immediate outcomes (R98). -/
def State.tryNow (s : State) (k : WaitKind) (gid fid : Nat) : State :=
  match s.waitOf gid fid with
  | none => s
  | some (g, fb, w) =>
    match k.eval s g fb w with
    | .ok d s' out => s'.conclude k w gid fid .ok d out
    | .imm _ c d s' out => s'.conclude k w gid fid c d out
    | .wait => s
    | .ask s' => s'

/-! ## Issue -/

/-- A wait as a word places it: packet, deadline and operands captured at issue (R98). -/
def Env.mkWait (e : Env) (r : Run) (i : Instr) (fb : Fibre) (x : BitVec 3) (a b d : DWord) : Wait :=
  { word := (encode i).getD 0, pkt := r.pkt, deadline := fb.deadline x e.tick, issued := e.now
    a := a, b := b, d := d, mp := e.mp, bundle := e.mask }

/-- A wait placed for a fibre, its arrival placed, and its tests of the issue tick. -/
def State.startWait (s : State) (k : WaitKind) (gid fid : Nat) (w : Wait) (place : State → State) : State :=
  (place (s.modFibre gid fid fun fb => { fb with wait := some w })).tryNow k gid fid

/-- A waiting word that each member performs on its own, in ascending member index (R97). -/
def State.startEach (s : State) (r : Run) (k : WaitKind) (mk : Env → Fibre → Wait)
    (place : Group → Nat → Wait → State → State) : State :=
  let e := s.env r
  r.fids.foldl (init := s) fun s fid =>
    match s.group? r.grp with
    | none => s
    | some g =>
      let w := mk e (g.fibre fid)
      s.startWait k r.grp fid w (place g fid w)

/-- A waiting word whose waits are tested with those of the other fibres on the tick, in their order there
(R257). -/
def State.placeEach (s : State) (r : Run) (mk : Env → Fibre → Wait) : State :=
  s.eachMember r fun e fb => { fb with wait := some (mk e fb) }

/-- No arrival. -/
def noPlace (_ : Group) (_ : Nat) (_ : Wait) (s : State) : State := s

/-- A waiting word performed once for the bundle: every member waits, the lowest tests (R97). -/
def State.startShared (s : State) (r : Run) (k : WaitKind) (mk : Env → Fibre → Wait) : State :=
  let lead := s.lead r
  let w := { mk (s.env r) lead with mask := maskOf r.fids }
  (s.modFibres r.grp r.fids fun fb => { fb with wait := some w }).tryNow k r.grp lead.fid

/-! ## Ends of fibres and groups -/

/-- The arrivals of a fibre's waits withdrawn without a status (R131, R139). -/
def State.dropArrivals (s : State) (g : Group) (fb : Fibre) : State :=
  let drop (s : State) (w : Option Wait) : State := match w with
    | some w => s.withdraw g fb.fid w
    | none => s
  drop (drop s fb.wait) fb.saved

/-- The end of a group noted when it has just come about: its tick, and its trace record (R406, R410). -/
def State.noteEnd (s : State) (gid : Nat) : State :=
  match s.group? gid with
  | none => s
  | some g =>
    if g.exit.isSome && g.endedAt.isNone then (s.modGroup gid fun g => { g with endedAt := some s.tick }).traceGroup g true
    else s

/-- A fibre ended with an exit value (R129), its arrivals withdrawn; what it wrote on another core is performed for
the fibres at home (R320). -/
def State.endFibre (s : State) (gid fid : Nat) (value : Word) : State :=
  match s.group? gid with
  | none => s
  | some g =>
    (((s.dropArrivals g (g.fibre fid)).handOver ((g.fibre fid).onCore g) g.core).modGroup gid (·.endFibre fid value)).noteEnd gid

/-- A group ended with a cause and code (R131), the arrivals of its waits withdrawn. -/
def State.finishGroup (s : State) (gid cause : Nat) (code : Word) : State :=
  match s.group? gid with
  | none => s
  | some g =>
    if g.exit.isSome then s
    else ((g.fibres.foldl (fun s fb => s.dropArrivals g fb) s).modGroup gid (·.finish cause code)).noteEnd gid

end Sys2Proof.Machine
end

