-- ==== Sys2Proof/Machine/Matrix.lean ====
section
/-!
DEFINITION. The matrix array's words: reservations OBRES and OBREL (R198 to R201), the B buffer BBLD
(R202, R203), accumulators ACCZ, ACCRD and ACCWR (R204, R205), COMPR (R206), MMA and MMAS (R207 to
R210), GATHR (R212), MTILE and MTQ (R213 to R215).
-/

namespace Sys2Proof.Machine

/-! ## Reservations -/

/-- An entry that is not in use. -/
def noReservation : Reservation := {}

def Group.entry (g : Group) (i : Nat) : Reservation := sget noReservation g.res i
def Group.setEntry (g : Group) (i : Nat) (r : Reservation) : Group := { g with res := sset noReservation g.res i r }

/-- Bytes of an element by its kind (R199). -/
def elemBytes (kind : Nat) : Nat := if kind = 0 then 1 else 2

/-- Length of a scale block by its code (R198). -/
def blockLen (blk : Nat) : Nat := 8 * 2 ^ blk

def Reservation.eb (r : Reservation) : Nat := elemBytes r.kind
/-- Rows of a reservation; the record holds rows - 1. -/
def Reservation.nrows (r : Reservation) : Nat := r.rows + 1
/-- Dense length of a row (R199). -/
def Reservation.dk (r : Reservation) : Nat := r.rowbytes / r.eb * (if r.cmp then 2 else 1)
/-- Scales of a row (R199). -/
def Reservation.nb (r : Reservation) : Nat := if r.blk = 0 then 0 else r.dk / blockLen r.blk
/-- Bytes of a reservation, rounded up to a multiple of 256 (R199). -/
def Reservation.bytes (r : Reservation) : Nat :=
  (r.nrows * r.rowbytes + r.nrows * r.nb * 2 + 255) / 256 * 256

/-- Bytes of the allotment not held by any reservation (R199, R201). -/
def Group.obFree (g : Group) : Nat :=
  g.kern.opbytes - (g.res.map fun q => if q.2.valid then q.2.bytes else 0).foldl (· + ·) 0

/-- Whether n bytes of the allotment from an offset are free. -/
def Group.obFits (g : Group) (at_ n : Nat) : Bool :=
  at_ + n ≤ g.kern.opbytes &&
    g.res.all fun q => !q.2.valid || at_ + n ≤ q.2.base || q.2.base + q.2.bytes ≤ at_

/-- The reservation that a geometry and a format word ask for, with the table that its words see; else
the reason of the refusal: 2 bad geometry, 3 unbound slot (R199). -/
def askedReservation (tab : Sparse Word) (geo fmt : Word) : Except Nat Reservation :=
  let kind := (fmt.extractLsb' 4 2).toNat
  let r : Reservation :=
    { rows := (geo.extractLsb' 0 8).toNat, rowbytes := (geo.extractLsb' 8 16).toNat, kind := kind
      cmp := fmt.getLsbD 8, blk := (fmt.extractLsb' 6 2).toNat, valid := true
      desc := if kind = 0 then sget 0 tab (fmt.extractLsb' 0 4).toNat else 0 }
  if geo.extractLsb' 24 8 ≠ 0 || fmt.extractLsb' 9 23 ≠ 0 || kind = 3 || r.rowbytes < 32 || 16384 < r.rowbytes ||
      r.rowbytes % (32 * r.eb) ≠ 0 || (r.blk ≠ 0 && r.dk % blockLen r.blk ≠ 0) then .error 2
  else if kind = 0 && r.desc = 0 then .error 3
  else .ok { r with sofs := r.nrows * r.rowbytes }

/-- A handle (R199). -/
def resHandle (gen i : Nat) : Word := BitVec.ofNat 32 (2 ^ 31 + gen % 256 * 256 + i % 32)

/-- A range of the operand buffer zeroed; words written in full are sound again (R195, log entry 129). -/
def Group.obZero (g : Group) (a n : Nat) : Group :=
  { g with
    ob := mzero g.ob a n
    obBad := g.obBad.filter fun k => !(a ≤ 32 * k && 32 * k + 32 ≤ a + n) }

/-- Whether n bytes of the operand buffer meet an uncorrectable word (R195). -/
def Group.obFlawed (g : Group) (a n : Nat) : Bool :=
  g.obBad.any fun k => 32 * k < a + n && a < 32 * k + 32

/-- OBRES on a group: the value of D and the group after (R199). -/
def Group.reserve (g : Group) (tab : Sparse Word) (geo fmt : Word) : Word × Group :=
  match askedReservation tab geo fmt with
  | .error c => (BitVec.ofNat 32 c, g)
  | .ok r =>
    match (List.range 32).find? fun i => !(g.entry i).valid with
    | none => (4, g)
    | some i =>
      match ((List.range (g.kern.opbytes / 256)).map (256 * ·)).find? fun a => g.obFits a r.bytes with
      | none => (1, g)
      | some a =>
        let gen := (g.entry i).gen
        (resHandle gen i,
          (g.setEntry i { r with base := a, gen := gen }).obZero a r.bytes)

/-- The entry that a handle names; none when it is null, malformed or stale (R199, R201). -/
def Group.handle? (g : Group) (h : Word) : Option Nat :=
  let i := (h.extractLsb' 0 5).toNat
  let r := g.entry i
  if h.getLsbD 31 && h.extractLsb' 16 15 = 0 && h.extractLsb' 5 3 = 0 && r.valid && !r.drain &&
      r.gen = (h.extractLsb' 8 8).toNat then some i else none

/-- The opcode of a waiting word. -/
def Wait.op (w : Wait) : Nat := (w.word.extractLsb' 24 7).toNat

/-- Whether a wait is an accepted word of this chapter that is bound to a reservation entry (R201). -/
def Wait.boundTo (w : Wait) (i : Nat) : Bool :=
  [0x26, 0x27, 0x2C, 0x2D].contains w.op && w.bound = i + 1 && w.d = 0

/-- The waits of a group, those that handlers have interrupted included. -/
def Group.waits (g : Group) : List (Nat × Wait) :=
  g.fibres.flatMap fun fb =>
    (match fb.wait with | some w => [(fb.fid, w)] | none => []) ++
      (match fb.saved with | some w => [(fb.fid, w)] | none => [])

/-- A drained range returned, zeroed, once no accepted word is bound to it (R201). -/
def Group.returnRange (g : Group) (i : Nat) : Group :=
  let r := g.entry i
  if !(r.valid && r.drain) || (g.waits.any fun q => q.2.boundTo i) then g
  else (g.setEntry i { noReservation with gen := r.gen }).obZero r.base r.bytes

/-- OBREL of a handle: stale at once, the range returned when nothing is bound to it (R201). -/
def Group.releaseRes (g : Group) (h : Word) : Group :=
  match g.handle? h with
  | none => g
  | some i =>
    let r := g.entry i
    (g.setEntry i { r with gen := (r.gen + 1) % 256, drain := true }).returnRange i

/-- The format table that a fibre's words see: as it stood before the chain group at home (R56, R177). -/
def Fibre.formats (fb : Fibre) (g : Group) : Sparse Word := if fb.place = .home then fb.tsnap else g.fmttab

/-- OBRES's result: D, the latch of its pipe (R59), and la0 as R199 states (log entry 128). -/
def Fibre.putReserved (fb : Fibre) (e : Env) (d : BitVec 7) (v : Word) : Fibre :=
  let fb := fb.put32 e .X d v
  { fb with ctx := { fb.ctx with lat := fb.ctx.lat.push .A (v.setWidth 64) } }

/-- OBRES: once for the bundle, with the lowest member's operands (R197, R199). -/
def execObres (f : F3) (s : State) : Host.Outcome State Fault Refusal :=
  s.issue (.obres f) f.c noCheck fun s r =>
    match s.group? r.grp with
    | none => s
    | some g =>
      let e := s.env r
      let lead := s.lead r
      let v := g.reserve (lead.formats g) (e.op32 lead f.a) (e.op32 lead f.b)
      (s.modGroup r.grp fun _ => v.2).eachMember r fun e fb => fb.putReserved e f.d v.1

/-- OBREL: per member, ascending (R201). -/
def execObrel (f : F3) (s : State) : Host.Outcome State Fault Refusal :=
  s.issue (.obrel f) f.c noCheck fun s r =>
    let e := s.env r
    (s.members r).foldl (fun s fb => s.modGroup r.grp (·.releaseRes (e.op32 fb f.a))) s

/-! ## The B buffer -/

/-- The latest load of a slot: its place in the slot's load sequence, 0 before the first (R203). -/
def Group.slotSeq (g : Group) (slot : Nat) : Nat :=
  ((g.btiles.filter (·.slot == slot)).map (·.seq)).foldl max 0

/-- The contents of a slot that a word is bound to; a slot is empty and ready at placement (R195). -/
def Group.tileAt (g : Group) (slot seq : Nat) : BTile :=
  (g.btiles.find? fun t => t.slot == slot && t.seq == seq).getD { slot := slot, seq := seq, ready := true }

/-- Where a zero-elided column ends that starts at an offset with a bitmap (R202). -/
def elidedEnd (off eb : Nat) (bitmap : Nat) : Nat :=
  off + 4 + ((maskList 32 bitmap).length * eb + 3) / 4 * 4

/-- Where the columns of an image start and where the last one ends (R202), with the bitmaps; the reader
gives four bytes at an address. -/
def columnStarts (rd : Nat → Except (Nat × Hit) Nat) (elided : Bool) (eb : Nat) :
    Nat → Nat → Except (Nat × Hit) (List (Nat × Nat) × Nat)
  | 0, off => .ok ([], off)
  | n + 1, off =>
    if elided then
      match rd off with
      | .error e => .error e
      | .ok m =>
        match columnStarts rd elided eb n (elidedEnd off eb m) with
        | .ok l => .ok ((off + 4, m) :: l.1, l.2)
        | .error e => .error e
    else
      match columnStarts rd elided eb n (off + 32 * eb) with
      | .ok l => .ok ((off, 2 ^ 32 - 1) :: l.1, l.2)
      | .error e => .error e

/-- The elements of a column: those whose bitmap bits are set, in ascending K (R202). -/
def columnElems (rd : Nat → Nat → Except (Nat × Hit) Nat) (eb : Nat) (start : Nat) :
    List Nat → Nat → Except (Nat × Hit) (List (Nat × Nat))
  | [], _ => .ok []
  | k :: ks, j =>
    match rd (start + j * eb) eb, columnElems rd eb start ks (j + 1) with
    | .ok v, .ok l => .ok ((k, v) :: l)
    | .error e, _ => .error e
    | _, .error e => .error e

/-- All elements of an image by 32 times column plus K-row. -/
def imageElems (rd : Nat → Nat → Except (Nat × Hit) Nat) (eb : Nat) :
    List (Nat × Nat) → Nat → Except (Nat × Hit) (Sparse (BitVec 16))
  | [], _ => .ok []
  | (start, m) :: cs, n =>
    match columnElems rd eb start (maskList 32 m) 0, imageElems rd eb cs (n + 1) with
    | .ok l, .ok t =>
      .ok ((l.filter fun q => q.2 ≠ 0).map (fun q => (32 * n + q.1, BitVec.ofNat 16 q.2)) ++ t)
    | .error e, _ => .error e
    | _, .error e => .error e

/-- The scales after the last column, by 32-block count times column plus block (R202). -/
def imageScales (rd : Nat → Nat → Except (Nat × Hit) Nat) (at_ : Nat) :
    List Nat → Except (Nat × Hit) (Sparse (BitVec 16))
  | [] => .ok []
  | i :: is =>
    match rd (at_ + 2 * i) 2, imageScales rd at_ is with
    | .ok v, .ok t => .ok (if v = 0 then t else (i, BitVec.ofNat 16 v) :: t)
    | .error e, _ => .error e
    | _, .error e => .error e

/-- Fields of a BBLD format word (R198). -/
def fmtKind (f : Word) : Nat := (f.extractLsb' 4 2).toNat
def fmtBlk (f : Word) : Nat := (f.extractLsb' 6 2).toNat
def fmtSpad (f : Word) : Bool := f.getLsbD 9
def fmtElided (f : Word) : Bool := f.getLsbD 8

/-- Scales of a BBLD image's column. -/
def tileBlocks (f : Word) : Nat := if fmtBlk f = 0 then 0 else 32 / blockLen (fmtBlk f)

/-- The columns of a BBLD's image and its length. -/
def State.imageColumns (s : State) (g : Group) (f : Word) (addr : Nat) :
    Except (Nat × Hit) (List (Nat × Nat) × Nat) :=
  match columnStarts (fun a => s.engineRead g (fmtSpad f) a 4) (fmtElided f) (elemBytes (fmtKind f)) 32 addr with
  | .ok l => .ok (l.1, l.2 + 64 * tileBlocks f)
  | .error e => .error e

/-- The detail a BBLD's operands give the slot: a bad format or address 1, an unbound format slot 5, a
scratchpad image outside the window 4 (R203). -/
def State.bbldDetail (s : State) (g : Group) (f : Word) (desc : Word) (addr : Nat) : Option Nat :=
  if f.extractLsb' 10 22 ≠ 0 || fmtKind f = 3 || fmtBlk f = 3 || addr % 4 ≠ 0 then some 1
  else if fmtSpad f && (match s.imageColumns g f addr with
      | .ok l => addr < g.spb || g.spl < l.2
      | .error e => match e.2 with | .outside => true | _ => false) then some 4
  else if fmtKind f = 0 && desc = 0 then some 5
  else none

/-- The operands of a BBLD: slot, address, format word and the descriptor it copies. -/
def bbldArgs (s : State) (r : Run) (g : Group) (f : F3) : Nat × Nat × Word × Word :=
  let e := s.env r
  let lead := s.lead r
  let fw := e.op32 lead f.b
  let a := e.op64 lead f.a
  ((e.regAt lead f.d 0).toNat % 16, if fmtSpad fw then a.toNat % 2 ^ 32 else a.toNat, fw,
    if fmtKind fw = 0 then sget 0 (lead.formats g) (fw.extractLsb' 0 4).toNat else 0)

/-- A BBLD translates its whole image when it issues (R203). -/
def bbldCheck (f : F3) (s : State) (r : Run) : Check :=
  match s.group? r.grp with
  | none => .ok
  | some g =>
    let q := bbldArgs s r g f
    let s := s.quiesce g.part
    if g.units ≤ q.1 || (s.bbldDetail g q.2.2.1 q.2.2.2 q.2.1).isSome || fmtSpad q.2.2.1 then .ok
    else
      let whole (n : Nat) : Check := s.check r { size := 1, acc := .read } (rangeReqs (s.lead r).fid (BitVec.ofNat 64 q.2.1) n 0)
      match s.imageColumns g q.2.2.1 q.2.1 with
      | .ok l => whole (l.2 - q.2.1)
      | .error (va, .miss) =>
        .again (s.askWalk (stackOf g.core) g.part g.vf va false (.fibre g.gid (s.lead r).fid)).stallIssue
      | .error (_, .busy _) => .again s.stallIssue
      | .error (va, _) => whole (va + 1 - q.2.1)

/-- BBLD queues the load of a tile: a new place in the slot's load sequence (R202, R203). -/
def execBbld (f : F3) (s : State) : Host.Outcome State Fault Refusal :=
  s.issue (.bbld f) f.c (bbldCheck f) fun s r =>
    match s.group? r.grp with
    | none => s
    | some g =>
      let q := bbldArgs s r g f
      let bad := (s.quiesce g.part).bbldDetail g q.2.2.1 q.2.2.2 q.2.1
      if g.units ≤ q.1 then s
      else s.modGroup r.grp fun g =>
        { g with
          btiles := g.btiles ++
            [{ slot := q.1, seq := g.slotSeq q.1 + 1, ready := bad.isSome, fault := bad
               addr := BitVec.ofNat 64 q.2.1, fmt := q.2.2.1, desc := q.2.2.2 }] }

/-! ## Accumulators -/

/-- A column of a tile's row as stored bits (R194). -/
def Group.accAt (g : Group) (tile row col : Nat) : Word := sget 0 g.acc (1024 * tile + 32 * row + col)
def Group.setAcc (g : Group) (tile row col : Nat) (v : Word) : Group :=
  { g with
    acc := sset 0 g.acc (1024 * tile + 32 * row + col) v
    accBad := g.accBad.filter (· ≠ 1024 * tile + 32 * row + col) }

/-- Whether columns of a tile's row from one on meet an uncorrectable one (R195). -/
def Group.accFlawed (g : Group) (tile row col n : Nat) : Bool :=
  g.accBad.any fun k => 1024 * tile + 32 * row + col ≤ k && k < 1024 * tile + 32 * row + col + n

/-- An error in an operand store of a core: counted when it was corrected; the supervisor is notified (R195). -/
def State.operandError (s : State) (g : Group) (corrected : Bool) : State :=
  let s := if corrected then s.modCore g.core fun c => { c with corrected := c.corrected + 1 } else s
  s.report g.part (.operandError g.core corrected)

/-- Whether a tile is an FP32 tile (R194). -/
def Group.wideTile (g : Group) (tile : Nat) : Bool := tile < g.kern.acc32

/-- The format that an accumulator format code names (R208). -/
def accFmt (c : Nat) : Fmt := if c = 0 then f32 else if c = 1 then f16 else bf16

/-- Conversion of a code under RNE (R205). A NaN becomes the canonical one and a signalling one raises NV, FP32 to FP32 too
(DESIGN CHOICE, log entry 145). -/
def convert (src dst : Fmt) (w : Nat) : Nat × BitVec 5 :=
  let v := src.decode (w % 2 ^ src.width)
  let r := dst.encode .rne false v
  (r.1, r.2 ||| snanFlag [v])

/-- ACCZ of one member (R204). -/
def accZero (s : State) (gid tile : Nat) (fb : Fibre) : State :=
  match s.group? gid with
  | none => s
  | some g =>
    if g.tiles ≤ tile then s.modFibre gid fb.fid (·.raiseFlags flNV)
    else s.modGroup gid fun g => (List.range 32).foldl (fun g c => g.setAcc tile (memberOf fb.fid) c 0) g

/-- ACCZ (R204). -/
def execAccz (f : F3) (s : State) : Host.Outcome State Fault Refusal :=
  s.issue (.accz f) f.c noCheck fun s r =>
    let e := s.env r
    (s.members r).foldl (fun s fb => accZero s r.grp (e.op32 fb f.a).toNat fb) s

/-- What ACCRD reads of a tile's row (R205). -/
def accRead (g : Group) (v : BitVec 3) (tile row n : Nat) : Nat × BitVec 5 :=
  if g.tiles ≤ tile then (0, flNV)
  else
    let even := n / 2 * 2
    let col (k : Nat) := (g.accAt tile row k).toNat
    let tf := if g.wideTile tile then f32 else if v = 2 then bf16 else f16
    let pair (h : Fmt) : Nat × BitVec 5 :=
      let a := convert tf h (col even)
      let b := convert tf h (col (even + 1))
      (a.1 + b.1 * 65536, a.2 ||| b.2)
    match v.toNat with
    | 0 => convert tf f32 (col n)
    | 1 => pair f16
    | 2 => pair bf16
    | _ => if g.wideTile tile then (col n, 0) else (col even + col (even + 1) * 65536, 0)

/-- Whether an ACCRD reads an uncorrectable column (R195, R205). -/
def accReadFlawed (g : Group) (v : BitVec 3) (tile row n : Nat) : Bool :=
  let one := v = 0 || (v = 3 && g.wideTile tile)
  decide (tile < g.tiles) && g.accFlawed tile row (if one then n else n / 2 * 2) (if one then 1 else 2)

/-- ACCRD: a deferrable result (R205); one that reads an uncorrectable column is 0 (R195). -/
def execAccrd (f : F3) (s : State) : Host.Outcome State Fault Refusal :=
  s.issue (.accrd f) f.c noCheck fun s r =>
    match s.group? r.grp with
    | none => s
    | some g =>
      let e := s.env r
      let at_ (fb : Fibre) : Nat × Nat × Nat :=
        ((e.op32 fb f.a).toNat, memberOf fb.fid, (e.op32 fb f.b).toNat % 32)
      let flawed (fb : Fibre) : Bool := accReadFlawed g f.x (at_ fb).1 (at_ fb).2.1 (at_ fb).2.2
      let s := if (s.members r).any flawed then s.operandError g false else s
      s.eachMember r fun e fb =>
        let v := accRead g f.x (at_ fb).1 (at_ fb).2.1 (at_ fb).2.2
        if flawed fb then fb.putLater e .X f.d 1 0 else fb.putLater e .X f.d 1 v.1 v.2

/-- What ACCWR stores in a tile's row, and its flags (R205). -/
def accWrite (g : Group) (v : BitVec 3) (tile row n : Nat) (w : Nat) : Group × BitVec 5 :=
  if g.tiles ≤ tile then (g, flNV)
  else
    let even := n / 2 * 2
    let tf := if g.wideTile tile then f32 else if v = 2 then bf16 else f16
    let pair (h : Fmt) : Group × BitVec 5 :=
      let a := convert h tf (w % 65536)
      let b := convert h tf (w / 65536)
      ((g.setAcc tile row even (BitVec.ofNat 32 a.1)).setAcc tile row (even + 1) (BitVec.ofNat 32 b.1), a.2 ||| b.2)
    match v.toNat with
    | 0 =>
      let a := convert f32 tf w
      (g.setAcc tile row n (BitVec.ofNat 32 a.1), a.2)
    | 1 => pair f16
    | 2 => pair bf16
    | _ =>
      if g.wideTile tile then (g.setAcc tile row n (BitVec.ofNat 32 w), 0)
      else
        ((g.setAcc tile row even (BitVec.ofNat 32 (w % 65536))).setAcc tile row (even + 1)
          (BitVec.ofNat 32 (w / 65536)), 0)

/-- ACCWR (R205). -/
def execAccwr (f : F3) (s : State) : Host.Outcome State Fault Refusal :=
  s.issue (.accwr f) f.c noCheck fun s r =>
    let e := s.env r
    (s.members r).foldl (init := s) fun s fb =>
      match s.group? r.grp with
      | none => s
      | some g =>
        let v := accWrite g f.x (e.op32 fb f.a).toNat (memberOf fb.fid) ((e.op32 fb f.b).toNat % 32)
          (e.regAt fb f.d 0).toNat
        (s.modGroup r.grp fun _ => v.1).modFibre r.grp fb.fid (·.raiseFlags v.2)

/-! ## COMPR -/

/-- An element of the array's kinds decoded exactly (R175, R209). -/
def elemValue (kind : Nat) (desc : Word) (w : Nat) : FVal :=
  if kind = 0 then (Narrow.ofWord desc).decode (w % 256)
  else if kind = 1 then f16.decode (w % 65536)
  else bf16.decode (w % 65536)

/-- Whether element x outranks element y by magnitude; a NaN ranks above every number (R206). -/
def outranks (x y : FVal) : Bool :=
  let mag (v : FVal) : FVal := match v with
    | .nan s _ => .nan s false
    | .inf _ => .inf false
    | .fin _ m e => .fin false m e
  if x.isNan then !y.isNan else !y.isNan && flt (mag y) (mag x)

/-- The positions of a group of n elements from the i-th that are kept, ascending: an element is kept when
fewer than n / 2 elements come before it in rank (R206). -/
def kept (val : Nat → FVal) (i n : Nat) : List Nat :=
  (List.range n).filter fun p =>
    ((List.range n).filter fun q =>
      outranks (val (i + q)) (val (i + p)) || (q < p && !outranks (val (i + p)) (val (i + q)))).length < n / 2

/-- Values of w bits packed from bit 0 upward. -/
def packBits (w : Nat) : List Nat → Nat
  | [] => 0
  | v :: vs => v % 2 ^ w + 2 ^ w * packBits w vs

/-- COMPR's result pair and whether NV is raised (R206). -/
def compr (tab : Sparse Word) (big : Bool) (a : DWord) (fw : Word) : Nat × BitVec 5 :=
  let kind := fmtKind fw
  let desc := sget 0 tab (fw.extractLsb' 0 4).toNat
  if kind = 3 || (kind = 0 && desc = 0) || (big && kind ≠ 0) then (0, flNV)
  else
    let eb := elemBytes kind
    let raw (k : Nat) : Nat := a.toNat / 2 ^ (8 * eb * k) % 2 ^ (8 * eb)
    let n := if big then 8 else 4
    let groups := (List.range (8 / eb / n)).map fun i => (i * n, kept (fun k => elemValue kind desc (raw k)) (i * n) n)
    let vals := groups.flatMap fun q => q.2.map fun p => raw (q.1 + p)
    let pos := groups.flatMap (·.2)
    (packBits (8 * eb) vals + 2 ^ 32 * packBits (if big then 3 else 2) pos, 0)

/-- COMPR (R206). -/
def execCompr (f : F3) (s : State) : Host.Outcome State Fault Refusal :=
  s.issue (.compr f) f.c noCheck fun s r =>
    match s.group? r.grp with
    | none => s
    | some g =>
      s.eachMember r fun e fb =>
        let v := compr (fb.formats g) (f.x = 1) (e.op64 fb f.a) (e.op32 fb f.b)
        (fb.put e .X f.d 2 v.1).raiseFlags v.2

/-! ## The arithmetic of MMA (R207, R209) -/

/-- One operand of a product: its value and its block's scale. -/
abbrev Scaled := FVal × Option (BitVec 16)

/-- A term of a sum and its flags: a product with both scales, or zero with NV when a scale is invalid
(R179, R209). -/
def mmaTerm (a b : Scaled) : FVal × BitVec 5 :=
  let bad (s : Option (BitVec 16)) : Bool := s.any fun w => !scaleValid w
  if bad a.2 || bad b.2 then (.fin false 0 0, flNV)
  else
    let p := fmul a.1 b.1
    let by_ (v : FVal) (s : Option (BitVec 16)) : FVal := match s with
      | some w => (fmul v (bf16.decode w.toNat)).1
      | none => v
    (by_ (by_ p.1 a.2) b.2, p.2)

/-- The exponent of the largest magnitude among finite terms; none when all are zero (R209). -/
def topExp : List FVal → Option Int
  | [] => none
  | .fin _ m e :: l =>
    if m = 0 then topExp l
    else
      let t := e + Nat.log2 m
      some (match topExp l with | none => t | some u => max t u)
  | _ :: l => topExp l

/-- A finite term truncated toward zero to units of 2^q, and whether bits were discarded. -/
def truncTerm (q : Int) (v : FVal) : Int × Bool :=
  match v with
  | .fin n m e =>
    let r := roundTo .rtz n m e q
    (if n then -(r.1 : Int) else r.1, r.2)
  | _ => (0, false)

/-- Accumulate (R209): the code and the flags. -/
def accumulate (t : Fmt) (l : List FVal) : Nat × BitVec 5 :=
  let clash := l.any (· == .inf false) && l.any (· == .inf true)
  if l.any FVal.isNan || clash then (t.nan, snanFlag l ||| (if clash then flNV else 0))
  else if l.any FVal.isInf then (t.inf (l.any (· == .inf true)), 0)
  else
    match topExp l with
    | none => (0, 0)
    | some e =>
      let q := e - 60
      let terms := l.map (truncTerm q)
      let sum : Int := (terms.map (·.1)).foldl (· + ·) 0
      let lost : BitVec 5 := if terms.any (·.2) then flNX else 0
      if sum = 0 then (0, lost)
      else
        let r := t.encode .rne false (.fin (sum < 0) sum.natAbs q)
        (r.1, r.2 ||| lost)

/-- A row of a tile updated by products of one K-step: elem gives the A operands in order with their
dense index, and col the B operand of a column at a dense index (R208 to R210). -/
def rowStep (g : Group) (tile row afmt : Nat) (zf : Bool) (elems : List (Scaled × Nat)) (col : Nat → Nat → Scaled) :
    Group × BitVec 5 :=
  let t := accFmt afmt
  (List.range 32).foldl (init := (g, 0)) fun q n =>
    let old := if zf then FVal.fin false 0 0 else t.decode (g.accAt tile row n).toNat
    let ps := elems.map fun x => mmaTerm x.1 (col n x.2)
    let v := accumulate t (old :: ps.map (·.1))
    (q.1.setAcc tile row n (BitVec.ofNat 32 v.1), ps.foldl (fun fl p => fl ||| p.2) (q.2 ||| v.2))

/-- n bytes of the operand buffer. -/
def Group.obRead (g : Group) (at_ n : Nat) : Nat := mle g.ob at_ n

/-- Element k of a reservation's row, and the scale of the block of a dense index (R199). -/
def Group.rowElem (g : Group) (r : Reservation) (row k dense : Nat) : Scaled :=
  (elemValue r.kind r.desc (g.obRead (r.base + row * r.rowbytes + k * r.eb) r.eb),
    if r.blk = 0 then none
    else some (BitVec.ofNat 16 (g.obRead (r.base + r.sofs + (row * r.nb + dense / blockLen r.blk) * 2) 2)))

/-- The element of a B tile at a column and K-row with its scale (R202). -/
def BTile.at_ (t : BTile) (n k : Nat) : Scaled :=
  (elemValue (fmtKind t.fmt) t.desc (sget 0 t.elems (32 * n + k)).toNat,
    if fmtBlk t.fmt = 0 then none
    else some (sget 0 t.scales (n * tileBlocks t.fmt + k / blockLen (fmtBlk t.fmt))))

/-- The contents of an empty slot decode to zeros, whatever its format. -/
def BTile.elem (t : BTile) (n k : Nat) : Scaled :=
  if t.elems.isEmpty && fmtBlk t.fmt = 0 && t.desc = 0 && fmtKind t.fmt = 0 then (.fin false 0 0, none) else t.at_ n k

/-- The dense index within the K-step of kept element j (R207). -/
def keptIndex (pat meta_ j : Nat) : Nat :=
  if pat = 1 then 4 * (j / 2) + bits meta_ (2 * j) 2 else 8 * (j / 4) + bits meta_ (3 * j) 3

/-! ## MMA and MMAS -/

/-- Fields of a control word (R208). -/
def ctlTile (c : Word) : Nat := (c.extractLsb' 0 4).toNat
def ctlAfmt (c : Word) : Nat := (c.extractLsb' 4 2).toNat
def ctlPat (c : Word) : Nat := (c.extractLsb' 6 2).toNat
def ctlStep (c : Word) : Nat := (c.extractLsb' 8 8).toNat
def ctlRow (c : Word) : Nat := (c.extractLsb' 16 8).toNat

/-- Whether an accumulator format suits a tile (R208 detail 2). -/
def Group.tileOk (g : Group) (tile afmt : Nat) : Bool :=
  tile < g.tiles && afmt ≠ 3 && (decide (afmt = 0) == g.wideTile tile)

/-- The NOSLOT detail of an MMA or MMAS at issue, 0 when it is accepted (R208): the lowest that applies. -/
def mmaDetail (g : Group) (sparse : Bool) (c h b : Word) (m : Nat) : Nat :=
  match g.handle? h with
  | none => 1
  | some i =>
    let r := g.entry i
    if !g.tileOk (ctlTile c) (ctlAfmt c) then 2
    else if r.nrows ≤ ctlRow c + m || r.dk < 32 * (ctlStep c + 1) then 3
    else if b.extractLsb' 4 28 ≠ 0 || g.units ≤ (b.extractLsb' 0 4).toNat then 4
    else if c.extractLsb' 24 7 ≠ 0 || (if sparse then ctlPat c ≠ 1 && ctlPat c ≠ 2 else ctlPat c ≠ 0) ||
        r.cmp != sparse then 5
    else 0

/-- The words an MMA captured: control and metadata. -/
def Wait.words (w : Wait) (k : Nat) : List Word := ((w.data.find? (·.1 == k)).map (·.2)).getD []
def Wait.wordAt (w : Wait) (k i : Nat) : Word := ((w.words k)[i]?).getD 0

/-- Whether an accepted MMA or MMAS reads an uncorrectable word of the operand buffer or of its row (R195). -/
def mmaFlawed (g : Group) (w : Wait) (m : Nat) : Bool :=
  let c := w.wordAt 0 0
  let r := g.entry (w.bound - 1)
  let row := ctlRow c + m
  let n := if r.cmp then 16 else 32
  (!c.getLsbD 31 && g.accFlawed (ctlTile c) m 0 32) ||
    g.obFlawed (r.base + row * r.rowbytes + n * ctlStep c * r.eb) (n * r.eb) ||
    (r.blk ≠ 0 && g.obFlawed (r.base + r.sofs + (row * r.nb + 32 * ctlStep c / blockLen r.blk) * 2)
      (2 * (31 / blockLen r.blk + 1)))

/-- The row update of an accepted MMA or MMAS of a member (R208, R209). -/
def mmaRow (g : Group) (w : Wait) (m : Nat) : Group × BitVec 5 :=
  let c := w.wordAt 0 0
  let r := g.entry (w.bound - 1)
  let t := g.tileAt (w.b.toNat % 16) w.bound2
  let row := ctlRow c + m
  let meta_ := (w.wordAt 0 1).toNat + (w.wordAt 0 2).toNat % 65536 * 2 ^ 32
  let elems := if r.cmp then
      (List.range 16).map fun j =>
        let k := keptIndex (ctlPat c) meta_ j
        (g.rowElem r row (16 * ctlStep c + j) (32 * ctlStep c + k), k)
    else (List.range 32).map fun k => (g.rowElem r row (32 * ctlStep c + k) (32 * ctlStep c + k), k)
  rowStep g (ctlTile c) m (ctlAfmt c) (c.getLsbD 31) elems t.elem

/-- MMA's and MMAS's outcomes (R208): refused at issue, the bound contents faulted (R195, R203), or the update once
they are ready and no sequencer holds the tile; FAULTED 2 where the operand stores have failed (R195). -/
def mmaEval (s : State) (g : Group) (fb : Fibre) (w : Wait) : Ev :=
  let t := g.tileAt (w.b.toNat % 16) w.bound2
  if w.d ≠ 0 then .imm true .noslot w.d.toNat s noResult
  else
    match t.fault with
    | some d => .imm false .faulted d (if t.flawed then s.operandError g false else s) noResult
    | none =>
      if !t.ready || g.seqs.any (·.tile == ctlTile (w.wordAt 0 0)) then .wait
      else if mmaFlawed g w (memberOf fb.fid) then .imm false .faulted 2 (s.operandError g false) noResult
      else
        let v := mmaRow g w (memberOf fb.fid)
        .ok 0 ((s.modGroup g.gid fun _ => v.1).modFibre g.gid fb.fid (·.raiseFlags v.2)) noResult

/-- MMA and MMAS as waits. -/
def mmaKind : WaitKind := { cls := 11, pipe := .X, eval := mmaEval }

/-- The wait of an MMA or MMAS: the handle is checked and the slot's contents bound at issue (R201, R203). -/
def mmaWait (s : State) (r : Run) (i : Instr) (f : F3) (sparse : Bool) (e : Env) (fb : Fibre) : Wait :=
  match s.group? r.grp with
  | none => e.mkWait r i fb f.x 0 0 0
  | some g =>
    let c := e.regAt fb f.d 0
    let h := e.op32 fb f.a
    let b := e.op32 fb f.b
    { e.mkWait r i fb f.x (h.setWidth 64) (b.setWidth 64)
        (BitVec.ofNat 64 (mmaDetail g sparse c h b (memberOf fb.fid))) with
      bound := 1 + (h.extractLsb' 0 5).toNat
      bound2 := g.slotSeq (b.extractLsb' 0 4).toNat
      data := [(0, if sparse then [c, e.regAt fb f.d 1, e.regAt fb f.d 2] else [c])] }

/-- MMA (R208). -/
def execMma (f : F3) (s : State) : Host.Outcome State Fault Refusal :=
  s.issue (.mma f) f.c noCheck fun s r => s.startEach r mmaKind (mmaWait s r (.mma f) f false) noPlace

/-- An MMAS with pattern 2 reads a third register, which must lie in the window (R196). -/
def mmasCheck (f : F3) (s : State) (r : Run) : Check :=
  let e := s.env r
  let bad := (s.members r).filter fun fb =>
    ctlPat (e.regAt fb f.d 0) = 2 && e.window < mapReg e.mp f.d.toNat + 3
  if bad.isEmpty then .ok else .fault { kind := 7, cause := 4, failing := maskOf (bad.map (·.fid)) }

/-- MMAS (R208). -/
def execMmas (f : F3) (s : State) : Host.Outcome State Fault Refusal :=
  s.issue (.mmas f) f.c (mmasCheck f) fun s r => s.startEach r mmaKind (mmaWait s r (.mmas f) f true) noPlace

/-! ## GATHR -/

/-- The NOSLOT detail of a GATHR (R212): the lowest that applies. -/
def gathrDetail (g : Group) (h c : Word) : Nat :=
  match g.handle? h with
  | none => 1
  | some i =>
    if c &&& ~~~0x2FFFF ≠ 0 then 5
    else if (g.entry i).nrows < (c.extractLsb' 8 8).toNat + (c.extractLsb' 0 8).toNat + 1 then 7
    else 0

/-- A group without a gather. -/
def Group.dropGather (g : Group) (id : Nat) : Group := { g with gathers := g.gathers.filter (·.id != id) }

/-- GATHR's outcomes (R212). -/
def gathrEval (s : State) (g : Group) (_ : Fibre) (w : Wait) : Ev :=
  let stop := s.modGroup g.gid (·.dropGather w.bound2)
  if w.d ≠ 0 then .imm true .noslot w.d.toNat s noResult
  else
    match g.gathers.find? (·.id == w.bound2) with
    | none => .wait
    | some q =>
      match q.fault with
      | some (step, j) => .imm false .faulted (step + 2 * j) stop noResult
      | none => if q.done = q.count then .ok 0 stop noResult else .wait

/-- A gather that its word stops on the deadline, with the rows landed (R212). -/
def gathrLate (s : State) (g : Group) (_ : Fibre) (w : Wait) : Nat × Result × State :=
  (((g.gathers.find? (·.id == w.bound2)).map (·.done)).getD 0, (0, 0), s.modGroup g.gid (·.dropGather w.bound2))

/-- GATHR as a wait. -/
def gathrKind : WaitKind := { cls := 11, pipe := .X, eval := gathrEval, late := gathrLate }

/-- Whether a handle's reservation has scales. -/
def Group.scaled (g : Group) (h : Word) : Bool := (g.handle? h).any fun i => (g.entry i).blk ≠ 0

/-- A GATHR into a reservation with scales reads seven registers, which must lie in the window (R196). -/
def gathrCheck (f : F3) (s : State) (r : Run) : Check :=
  match s.group? r.grp with
  | none => .ok
  | some g =>
    let e := s.env r
    let lead := s.lead r
    if g.scaled (e.op32 lead f.b) && e.window < mapReg e.mp f.d.toNat + 7 then
      .fault { kind := 7, cause := 4, failing := maskOf [lead.fid] }
    else .ok

/-- The gather that a GATHR queues (R212). -/
def gatherOf (g : Group) (e : Env) (fb : Fibre) (f : F3) (id : Nat) : Gather :=
  let h := e.op32 fb f.b
  let c := e.regAt fb f.d 3
  let spad := c.getLsbD 17
  let addr (v : DWord) : DWord := if spad then v &&& 0xFFFFFFFF else v
  let i := (h.extractLsb' 0 5).toNat
  let scaled := g.scaled h
  { id := id, fid := fb.fid, entry := i, gen := (g.entry i).gen
    list := addr (e.op64 fb f.a)
    base := addr (e.pairAt fb f.d 0)
    stride := (e.regAt fb f.d 2).toNat
    row0 := (c.extractLsb' 8 8).toNat
    count := (c.extractLsb' 0 8).toNat + 1
    spad := spad
    sbase := if scaled then addr (e.pairAt fb f.d 4) else 0
    sstride := if scaled then (e.regAt fb f.d 6).toNat else 0 }

/-- GATHR: a release at scope C to the gather unit, once for the bundle (R212, R197). -/
def execGathr (f : F3) (s : State) : Host.Outcome State Fault Refusal :=
  s.issue (.gathr f) f.c (gathrCheck f) fun s r =>
    match s.group? r.grp with
    | none => s
    | some g =>
      let e := s.env r
      let lead := s.lead r
      let h := e.op32 lead f.b
      let d := gathrDetail g h (e.regAt lead f.d 3)
      let id := s.serial
      let s : State := { s with serial := id + 1 }
      let s := if d = 0 then
          (s.release s.cur 1).modGroup r.grp fun g =>
            { g with gathers := g.gathers ++ [gatherOf g e lead f id] }
        else s
      s.startShared r gathrKind fun e fb =>
        { e.mkWait r (.gathr f) fb f.x (h.setWidth 64) 0 (BitVec.ofNat 64 d) with
          bound := 1 + (h.extractLsb' 0 5).toNat, bound2 := id }

/-! ## MTILE and MTQ -/

/-- n bits of an MTILE's descriptor from a byte (R213). -/
def descBits (d : Nat) (byte lo n : Nat) : Nat := bits d (8 * byte + lo) n

/-- The fields of an MTILE descriptor (R213). -/
structure TileDesc where
  abase : Nat
  bbase : Nat
  astride : Nat
  bstride : Nat
  ksteps : Nat
  afmt : Nat
  bfmt : Nat
  ablk : Nat
  bblk : Nat
  tile : Nat
  acc : Nat
  zero : Bool
  slot : Nat
  ascale : Nat
  bscale : Nat
  asstride : Nat
  bsstride : Nat
  reserved : Bool
  deriving DecidableEq, Repr

def TileDesc.of (d : Nat) : TileDesc :=
  { abase := descBits d 0 0 64, bbase := descBits d 8 0 64
    astride := descBits d 16 0 32, bstride := descBits d 20 0 32
    ksteps := descBits d 24 0 16
    afmt := descBits d 26 0 6, bfmt := descBits d 27 0 6
    ablk := descBits d 28 0 2, bblk := descBits d 28 2 2
    tile := descBits d 29 0 4, acc := descBits d 29 4 2, zero := descBits d 29 7 1 = 1
    slot := descBits d 30 0 4
    ascale := descBits d 32 0 64, bscale := descBits d 40 0 64
    asstride := descBits d 48 0 32, bsstride := descBits d 52 0 32
    reserved := descBits d 26 6 2 ≠ 0 || descBits d 27 6 2 ≠ 0 || descBits d 28 4 4 ≠ 0 ||
      descBits d 29 6 1 ≠ 0 || descBits d 30 4 4 ≠ 0 || descBits d 31 0 8 ≠ 0 || descBits d 56 0 64 ≠ 0 }

/-- Kind and format slot of a descriptor's format byte (R213). -/
def kindOf (f : Nat) : Nat := f / 16
def slotIn (f : Nat) : Nat := f % 16

/-- Whether the tile array can use an operand format: a kind, and for narrow a bound slot. -/
def operandOk (tab : Sparse Word) (f : Nat) : Bool := kindOf f ≠ 3 && (kindOf f ≠ 0 || sget 0 tab (slotIn f) ≠ 0)

/-- Saved step of a tile (R214). -/
def Group.stepOf (g : Group) (tile : Nat) : Nat := sget 0 g.saveq tile

/-- The NOSLOT detail of an MTILE (R214): the lowest that applies. -/
def mtileDetail (g : Group) (tab : Sparse Word) (h : Word) (t : TileDesc) : Nat :=
  let staged := match g.handle? h with
    | none => false
    | some i => 32 ≤ (g.entry i).nrows && 64 * elemBytes (kindOf t.afmt) ≤ (g.entry i).rowbytes
  if !staged then 1
  else if t.ksteps ≤ g.stepOf t.tile then 3
  else if g.units ≤ t.slot + 1 then 4
  else if t.reserved || t.ksteps = 0 || 256 < t.ksteps || !operandOk tab t.afmt || !operandOk tab t.bfmt ||
      !g.tileOk t.tile t.acc then 6
  else 0

/-- The descriptor that an MTILE captured. -/
def Wait.tileDesc (w : Wait) : TileDesc := .of (packBits 32 ((w.words 0).map (·.toNat)))

/-- What MTILE stages zeroed and ready on its return: the staging rows, where there are such, and both slots with
the loads issued to them before it (R214). -/
def Group.unstage (g : Group) (w : Wait) (rows : Bool) : Group :=
  let t := w.tileDesc
  let r := g.entry (w.bound - 1)
  let n := 64 * elemBytes (kindOf t.afmt)
  let g := if rows then (List.range 32).foldl (fun g i => g.obZero (r.base + i * r.rowbytes) n) g else g
  let blank (b : BTile) : BTile :=
    if (b.slot = t.slot && b.seq ≤ (w.wordAt 1 0).toNat) || (b.slot = t.slot + 1 && b.seq ≤ (w.wordAt 1 1).toNat) then
      { slot := b.slot, seq := b.seq, ready := true }
    else b
  { g with btiles := g.btiles.map blank }

/-- The sequencer of a tile stops (R214), and a step set meanwhile takes effect (R215). -/
def Group.dropSeq (g : Group) (tile : Nat) : Group :=
  { g with
    seqs := g.seqs.filter (·.tile != tile)
    saveq := if g.setq.any (·.1 == tile) then sset 0 g.saveq tile (sget 0 g.setq tile - 1) else g.saveq
    setq := sdel tile g.setq }

/-- The return of an accepted MTILE: its sequencer stops, the staging rows and both slots are zero and ready (R214). -/
def Group.letGo (g : Group) (w : Wait) (fid : Nat) : Group :=
  let t := w.tileDesc
  let g := g.unstage w true
  if g.seqs.any fun q => q.tile == t.tile && q.fid == fid then g.dropSeq t.tile else g

/-- The sequencers of a group that comes to rest stop at their K-step (R214, R354). One that has done its last K-step, or
has met an error, holds no sequencer any more. -/
def Group.restSeqs (g : Group) : Group :=
  (g.seqs.filter fun q => !q.done && !q.bad).foldl (fun g q => g.dropSeq q.tile) g

/-- The sequencer that works for a wait. -/
def Group.seqOf (g : Group) (w : Wait) (fid : Nat) : Option Sequencer :=
  g.seqs.find? fun q => q.tile == w.tileDesc.tile && q.fid == fid

/-- MTILE's outcomes (R214), one whose descriptor cannot be read first (R195). A refused one returns with its staging
zeroed too, as far as it names any. -/
def mtileEval (s : State) (g : Group) (fb : Fibre) (w : Wait) : Ev :=
  let t := w.tileDesc
  if w.bound = 0 then .imm false .faulted w.d.toNat s noResult
  else if w.d ≠ 0 then
    let rows := w.d ≠ 1 && (g.handle? (w.a.setWidth 32)).isSome
    .imm true .noslot w.d.toNat (s.modGroup g.gid (·.unstage w rows)) noResult
  else
    match g.seqOf w fb.fid with
    | none => .wait
    | some q =>
      if q.bad then .imm false .faulted 2 (s.modGroup g.gid (·.letGo w fb.fid)) noResult
      else if q.done then
        .ok 0 (s.modGroup g.gid fun g => ({ g with saveq := sset 0 g.saveq t.tile 0 }).letGo w fb.fid)
          fun _ => (1, t.ksteps)
      else .wait

/-- An MTILE that ends on its deadline reports its saved step (R214). -/
def mtileLate (s : State) (g : Group) (fb : Fibre) (w : Wait) : Nat × Result × State :=
  (g.stepOf w.tileDesc.tile, (0, 0), s.modGroup g.gid (·.letGo w fb.fid))

/-- MTILE as a wait. -/
def mtileKind : WaitKind := { cls := 11, pipe := .X, eval := mtileEval, late := mtileLate }

/-- Sequencers of a core (R213), and those at work there. -/
def sequencersPerCore : Nat := 4
def State.sequencersOn (s : State) (core : Nat) : Nat :=
  ((s.groups.filter fun g => g.core == core && (g.st == .placed || g.st == .stopping)).map fun g =>
    (g.seqs.filter fun q => !q.done && !q.bad).length).foldl (· + ·) 0

/-- The wait of a group's earliest accepted MTILE on a tile, and its lowest fibre. -/
def Group.nextMtile (g : Group) (tile : Nat) : Option (Nat × Wait) :=
  let l := g.waits.filter fun q => q.2.op = 0x2D && q.2.d = 0 && q.2.tileDesc.tile = tile && q.2.ended.isNone
  match l.map (fun q => q.2.issued.toNat) with
  | [] => none
  | x :: xs => l.find? fun q => q.2.issued.toNat == xs.foldl min x

/-- A free sequencer takes a tile for the earliest MTILE that waits for it (R214). -/
def State.startSequencer (s : State) (gid tile : Nat) : State :=
  match s.group? gid with
  | none => s
  | some g =>
    if g.st ≠ .placed || (g.seqs.any (·.tile == tile)) || sequencersPerCore ≤ s.sequencersOn g.core then s
    else
      match g.nextMtile tile with
      | none => s
      | some (fid, w) =>
        s.modGroup gid fun g => { g with seqs := g.seqs ++ [{ tile := tile, fid := (w.members fid).headD fid }] }

/-- Whether a fibre is the lowest member of its bundle (R197). -/
def Env.leads (e : Env) (fb : Fibre) : Bool := e.mask.toNat % 2 ^ memberOf fb.fid = 0

/-- The words of a number, lowest first. -/
def wordsOfNat (v : Nat) : Nat → List Word
  | 0 => []
  | n + 1 => BitVec.ofNat 32 v :: wordsOfNat (v / 2 ^ 32) n

/-- Where an uncorrectable error lies in what a member's word reads (R241). -/
def State.badRead (s : State) (g : Group) (spec : AccSpec) (q : Req) : Option Nat :=
  let t := s.transReq g spec.acc q
  if s.uncorrectable (pteProt t.entryOf) t.paOf spec.size && !s.servedNear s.cur t.paOf spec.size then some t.paOf else none

/-- An uncorrectable error met by an engine: counted, and the supervisor notified (R195, R288). -/
def State.reportBad (s : State) (g : Group) (pa : Nat) : State :=
  s.reportBadAt g.part pa

/-- MTILE: the descriptor is read and checked at issue (R213, R214); one with an uncorrectable error makes the word
return FAULTED with detail 2 (R195). -/
def execMtile (f : F3) (s : State) : Host.Outcome State Fault Refusal :=
  let spec : AccSpec := { size := 64, acc := .read }
  s.issueMem (.mtile f) f.c (fun _ => spec)
    (fun e fb => if e.leads fb then [{ fid := fb.fid, va := e.op64 fb f.a }] else [])
    fun s r g l =>
      match l with
      | [] => s
      | q :: _ =>
        let e := s.env r
        let lead := s.lead r
        let bad := s.badRead g spec q
        let v := s.readReq g spec q
        let t := TileDesc.of v.1
        let tab := lead.formats g
        let h := e.op32 lead f.b
        let d := mtileDetail g tab h t
        let desc (x : Nat) : Word := if kindOf x = 0 then sget 0 tab (slotIn x) else 0
        let s := v.2.2.startShared r mtileKind fun e fb =>
          { e.mkWait r (.mtile f) fb f.x (h.setWidth 64) 0 (BitVec.ofNat 64 (if bad.isSome then 2 else d)) with
            bound := if bad.isSome then 0 else 1 + (h.extractLsb' 0 5).toNat
            data :=
              [(0, wordsOfNat v.1 16),
               (1, [BitVec.ofNat 32 (g.slotSeq t.slot), BitVec.ofNat 32 (g.slotSeq (t.slot + 1))]),
               (2, [desc t.afmt, desc t.bfmt])] }
        s.startSequencer r.grp t.tile

/-- MTQ of one member (R215). -/
def mtqOne (s : State) (r : Run) (f : F3) (fb : Fibre) : State :=
  match s.group? r.grp with
  | none => s
  | some g =>
    let e := s.env r
    let tile := (e.op32 fb f.a).toNat
    let over_ := g.tiles ≤ tile
    let flag (s : State) : State := if over_ then s.modFibre r.grp fb.fid (·.raiseFlags flNV) else s
    if f.x = 0 then
      let v := if over_ then 0 else g.stepOf tile
      flag (s.modFibre r.grp fb.fid fun fb => fb.put32 e .X f.d (BitVec.ofNat 32 v))
    else if over_ then flag s
    else
      let v := (e.op32 fb f.b).toNat % 512
      s.modGroup r.grp fun g =>
        if g.seqs.any (·.tile == tile) then { g with setq := sset 0 g.setq tile (v + 1) }
        else { g with saveq := sset 0 g.saveq tile v }

/-- MTQ (R215). -/
def execMtq (f : F3) (s : State) : Host.Outcome State Fault Refusal :=
  s.issue (.mtq f) f.c noCheck fun s r => (s.members r).foldl (fun s fb => mtqOne s r f fb) s

end Sys2Proof.Machine
end

