-- ==== Sys2Proof/Machine/MatrixEngine.lean ====
section
/-!
DEFINITION. The steps of the matrix engines: a B tile lands (R203), a gathered row lands (R212), a K-step
completes (R214), a drained range returns (R201).
-/

namespace Sys2Proof.Machine

/-- Whether a freeze in force has stopped a partition's clocks (R412). -/
def State.stopped (s : State) (p : Nat) : Bool :=
  s.freeze.any (·.inForce) || ((s.part? p).bind (·.freeze)).any (·.inForce)

/-- Whether the engines of a group work: its clocks run and it is not frozen (R368). -/
def State.enginesOn (s : State) (g : Group) : Bool :=
  (g.st == .placed || g.st == .stopping) && !g.frozen && !s.stopped g.part

/-! ## BBLD_LOAD_LAND -/

/-- Whether an accepted word is bound to contents of a slot older than a load (R203). -/
def Wait.bindsBefore (w : Wait) (slot seq : Nat) : Bool :=
  w.d = 0 &&
    (((w.op = 0x26 || w.op = 0x27) && w.b.toNat % 16 = slot && w.bound2 < seq) ||
      (w.op = 0x2D && ((w.tileDesc.slot = slot && (w.wordAt 1 0).toNat < seq) ||
        (w.tileDesc.slot + 1 = slot && (w.wordAt 1 1).toNat < seq))))

/-- The next load of a slot that has not landed. -/
def Group.nextLoad (g : Group) (slot : Nat) : Option BTile :=
  let l := g.btiles.filter fun t => t.slot == slot && !t.ready
  match l.map (·.seq) with
  | [] => none
  | x :: xs => l.find? (·.seq == xs.foldl min x)

/-- The elements and scales of a load's image (R202). -/
def State.readTile (s : State) (g : Group) (t : BTile) :
    Except (Nat × Hit) (Sparse (BitVec 16) × Sparse (BitVec 16)) :=
  let rd (a n : Nat) := s.engineRead g (fmtSpad t.fmt) a n
  match s.imageColumns g t.fmt t.addr.toNat with
  | .error e => .error e
  | .ok l =>
    match imageElems rd (elemBytes (fmtKind t.fmt)) l.1 0,
        imageScales rd (l.2 - 64 * tileBlocks t.fmt) (List.range (32 * tileBlocks t.fmt)) with
    | .ok es, .ok ss => .ok (es, ss)
    | .error e, _ => .error e
    | _, .error e => .error e

/-- A load takes its place in its slot; the contents before it are gone (R203). -/
def Group.landTile (g : Group) (t : BTile) : Group :=
  { g with
    btiles := (g.btiles.filter fun u => !(u.slot == t.slot && u.seq ≤ t.seq)) ++ [{ t with ready := true }] }

/-- Bytes that the longest image takes (R202). -/
def maxImage : Nat := 2304

/-- BBLD_LOAD_LAND: the next queued load of a slot lands (R203). One whose page is no longer mapped waits as a gather
does (R337, R340). -/
def execBbldLoadLand (gid slot : Nat) (s : State) : Host.Outcome State Fault Refusal :=
  match s.group? gid with
  | none => .next s
  | some g =>
    match g.nextLoad slot with
    | none => .next s
    | some t =>
      if !s.enginesOn g || t.stuck.isSome || (g.waits.any fun q => q.2.bindsBefore slot t.seq) then .next s
      else
        let s := (s.quiesce g.part).engineFix g (fmtSpad t.fmt) t.addr.toNat maxImage
        match s.readTile g t with
        | .ok v => .next (s.modGroup gid (·.landTile { t with elems := v.1, scales := v.2 }))
        | .error (_, .far) => .next (s.modGroup gid (·.landTile { t with fault := some 2 }))
        | .error (_, .outside) => .next (s.modGroup gid (·.landTile { t with fault := some 2 }))
        | .error (_, .bad pa) => .next ((s.reportBad g pa).modGroup gid (·.landTile { t with fault := some 2 }))
        | .error (va, h) =>
          let r := s.engineStop g va (.gather gid slot) false h
          .next (r.2.modGroup gid fun g =>
            { g with btiles := change (fun u => u.slot == slot && u.seq == t.seq) (fun u => { u with stuck := r.1 }) g.btiles })

/-! ## GATHR_ROW_LAND -/

/-- The address that an engine forms by adding an offset: 64 bits, or a scratchpad address. -/
def engineAddr (spad : Bool) (base : DWord) (off : Nat) : Nat :=
  if spad then base.toNat + off else (base.toNat + off) % 2 ^ 64

/-- A row of a gather: its bytes and those of its scales, or the step, address and reason (R212). Its list, rows and scales
need no alignment (DESIGN CHOICE, log entry 146). -/
def State.gatherRow (s : State) (g : Group) (q : Gather) : Except (Nat × Nat × Hit) (Nat × Nat) :=
  let r := g.entry q.entry
  match s.engineRead g q.spad (engineAddr q.spad q.list (4 * q.done)) 4 with
  | .error e => .error (0, e)
  | .ok idx =>
    match s.engineRead g q.spad (engineAddr q.spad q.base (idx * q.stride)) r.rowbytes,
        s.engineRead g q.spad (engineAddr q.spad q.sbase (idx * q.sstride)) (2 * r.nb) with
    | .ok v, .ok sc => .ok (v, sc)
    | .error e, _ => .error (1, e)
    | _, .error e => .error (1, e)

/-- The bytes a gather's next row needs freed of correctable errors. -/
def State.gatherFix (s : State) (g : Group) (q : Gather) : State :=
  if s.errors.isEmpty then s
  else
    let r := g.entry q.entry
    let s := s.engineFix g q.spad (engineAddr q.spad q.list (4 * q.done)) 4
    match s.engineRead g q.spad (engineAddr q.spad q.list (4 * q.done)) 4 with
    | .error _ => s
    | .ok idx =>
      (s.engineFix g q.spad (engineAddr q.spad q.base (idx * q.stride)) r.rowbytes).engineFix g q.spad
        (engineAddr q.spad q.sbase (idx * q.sstride)) (2 * r.nb)

/-- A gathered row written to its reservation row (R199, R212). -/
def Group.landRow (g : Group) (q : Gather) (v : Nat × Nat) : Group :=
  let r := g.entry q.entry
  let row := q.row0 + q.done
  let g := (g.obZero (r.base + row * r.rowbytes) r.rowbytes).obZero (r.base + r.sofs + row * r.nb * 2) (2 * r.nb)
  { g with
    ob := mwle (mwle g.ob (r.base + row * r.rowbytes) v.1 r.rowbytes) (r.base + r.sofs + row * r.nb * 2) v.2 (2 * r.nb)
    gathers := change (·.id == q.id) (fun q => { q with done := q.done + 1 }) g.gathers }

/-- A gather changed. -/
def State.modGather (s : State) (gid id : Nat) (u : Gather → Gather) : State :=
  s.modGroup gid fun g => { g with gathers := change (·.id == id) u g.gathers }

/-- GATHR_ROW_LAND: the next row of a gather (R212). One whose word has ended is stopped. -/
def execGathrRowLand (gid id : Nat) (s : State) : Host.Outcome State Fault Refusal :=
  match s.group? gid with
  | none => .next s
  | some g =>
    match g.gathers.find? (·.id == id) with
    | none => .next s
    | some q =>
      if !(g.waits.any fun w => w.2.op = 0x2C && w.2.bound2 = id && w.2.d = 0) then
        .next (s.modGroup gid (·.dropGather id))
      else if !s.enginesOn g || g.st ≠ .placed || q.done = q.count || q.fault.isSome || q.stuck.isSome then .next s
      else
        let s := (s.quiesce g.part).gatherFix g q
        match s.gatherRow g q with
        | .ok v => .next (s.modGroup gid (·.landRow q v))
        | .error (step, _, .far) => .next (s.modGather gid id fun q => { q with fault := some (step, q.done) })
        | .error (step, _, .outside) => .next (s.modGather gid id fun q => { q with fault := some (step, q.done) })
        | .error (step, _, .bad pa) =>
          .next ((s.reportBad g pa).modGather gid id fun q => { q with fault := some (step, q.done) })
        | .error (_, va, h) =>
          let r := s.engineStop g va (.gather gid id) false h
          .next (r.2.modGather gid id fun q => { q with stuck := r.1 })

/-! ## MTILE_KSTEP -/

/-- n bytes of each of some rows of an operand (R213), which need no alignment (DESIGN CHOICE, log entry 146). -/
def State.operandRows (s : State) (g : Group) (base stride off n : Nat) : List Nat → Except (Nat × Hit) (List Nat)
  | [] => .ok []
  | r :: rs =>
    match s.engineRead g false ((base + r * stride + off) % 2 ^ 64) n, s.operandRows g base stride off n rs with
    | .ok v, .ok l => .ok (v :: l)
    | .error e, _ => .error e
    | _, .error e => .error e

/-- Scales that a K-step of an operand needs, and the offset of the first (R213). -/
def scaleBytes (blk : Nat) : Nat := if blk = 0 then 0 else if blk = 1 then 4 else 2
def scaleOff (blk step : Nat) : Nat := if blk = 0 then 0 else 32 * step / blockLen blk * 2

/-- One operand of a K-step: the elements and the scales of each row or column. -/
def State.operand (s : State) (g : Group) (base stride sbase sstride fmt blk step : Nat) :
    Except (Nat × Hit) (List (Nat × Nat)) :=
  let eb := elemBytes (kindOf fmt)
  match s.operandRows g base stride (32 * step * eb) (32 * eb) (List.range 32),
      s.operandRows g sbase sstride (scaleOff blk step) (scaleBytes blk) (List.range 32) with
  | .ok v, .ok sc => .ok (v.zip sc)
  | .error e, _ => .error e
  | _, .error e => .error e

/-- The correctable errors of one operand's K-step corrected. -/
def State.operandFix (s : State) (g : Group) (base stride off n : Nat) : State :=
  if s.errors.isEmpty then s
  else (List.range 32).foldl (fun s r => s.engineFix g false ((base + r * stride + off) % 2 ^ 64) n) s

/-- The correctable errors of a K-step's operands and scales corrected (R241). -/
def State.kstepFix (s : State) (g : Group) (t : TileDesc) (step : Nat) : State :=
  let ea := elemBytes (kindOf t.afmt)
  let eb := elemBytes (kindOf t.bfmt)
  (((s.operandFix g t.abase t.astride (32 * step * ea) (32 * ea)).operandFix g t.bbase t.bstride
    (32 * step * eb) (32 * eb)).operandFix g t.ascale t.asstride (scaleOff t.ablk step) (scaleBytes t.ablk)).operandFix
    g t.bscale t.bsstride (scaleOff t.bblk step) (scaleBytes t.bblk)

/-- Element k of a row of an operand as the array multiplies it. -/
def operandElem (fmt blk : Nat) (desc : Word) (l : List (Nat × Nat)) (row k : Nat) : Scaled :=
  let q := (l[row]?).getD (0, 0)
  let eb := elemBytes (kindOf fmt)
  (elemValue (kindOf fmt) desc (q.1 / 2 ^ (8 * eb * k) % 2 ^ (8 * eb)),
    if blk = 0 then none else some (BitVec.ofNat 16 (q.2 / 2 ^ (16 * (if blk = 1 then k / 16 else 0)))))

/-- K-step of 32 rows of a tile: the rows' updates and each row's flags go to the bundle's member with
its index (R214). -/
def Group.kstep (g : Group) (w : Wait) (fid step : Nat) (a b : List (Nat × Nat)) : Group :=
  let t := w.tileDesc
  let col (n k : Nat) := operandElem t.bfmt t.bblk (w.wordAt 2 1) b n k
  (List.range 32).foldl (init := g) fun g m =>
    let v := rowStep g t.tile m t.acc (t.zero && step = 0)
      ((List.range 32).map fun k => (operandElem t.afmt t.ablk (w.wordAt 2 0) a m k, k)) col
    match (w.members fid).find? fun f => memberOf f == m with
    | some f => v.1.modFibre f (·.raiseFlags v.2)
    | none => v.1

/-- The step that follows a K-step (R214). -/
def Group.advance (g : Group) (w : Wait) (step : Nat) : Group :=
  let t := w.tileDesc
  { g with
    saveq := sset 0 g.saveq t.tile (step + 1)
    seqs := change (·.tile == t.tile) (fun q => { q with done := step + 1 = t.ksteps }) g.seqs }

/-- A sequencer changed. -/
def State.modSeq (s : State) (gid tile : Nat) (u : Sequencer → Sequencer) : State :=
  s.modGroup gid fun g => { g with seqs := change (·.tile == tile) u g.seqs }

/-- The accepted MTILE that a sequencer works for. -/
def Group.seqWait (g : Group) (q : Sequencer) : Option Wait :=
  (g.waits.find? fun w =>
    w.2.op = 0x2D && w.2.d = 0 && w.2.tileDesc.tile = q.tile && (w.2.members w.1).headD w.1 = q.fid).map (·.2)

/-- MTILE_KSTEP: the sequencer of a tile performs its next K-step (R214). A translation or access fault of
a fetch kills the group (R216). -/
def execMtileKstep (gid tile : Nat) (s : State) : Host.Outcome State Fault Refusal :=
  let s := s.startSequencer gid tile
  match s.group? gid with
  | none => .next s
  | some g =>
    match g.seqs.find? (·.tile == tile) with
    | none => .next s
    | some q =>
      match g.seqWait q with
      | none => .next (s.modGroup gid (·.dropSeq tile))
      | some w =>
        if !s.enginesOn g || g.st ≠ .placed || q.done || q.bad || g.killAt.isSome then .next s
        else
          let t := w.tileDesc
          let step := g.stepOf tile
          if t.ksteps ≤ step then .next (s.modSeq gid tile fun q => { q with done := true })
          else
            let s := (s.quiesce g.part).kstepFix g t step
            if !(t.zero && step = 0) && g.accFlawed tile 0 0 1024 then
              .next ((s.operandError g false).modSeq gid tile fun q => { q with bad := true })
            else
            match s.operand g t.abase t.astride t.ascale t.asstride t.afmt t.ablk step,
                s.operand g t.bbase t.bstride t.bscale t.bsstride t.bfmt t.bblk step with
            | .ok a, .ok b => .next (s.modGroup gid fun g => (g.kstep w q.fid step a b).advance w step)
            | a, b =>
              let e : Option (Nat × Hit) := match a, b with
                | .error e, _ => some e
                | _, .error e => some e
                | _, _ => none
              match e with
              | some (va, .miss) => .next (s.askWalk (stackOf g.core) g.part g.vf va false (.gather gid tile))
              | some (_, .violation) => .next (s.violate g.part (.group gid))
              | some (_, .bad pa) => .next ((s.reportBad g pa).modSeq gid tile fun q => { q with bad := true })
              | some (va, .far) => .next (s.modGroup gid fun g => { g with killAt := some (BitVec.ofNat 64 va) })
              | some (va, .fault _) => .next (s.modGroup gid fun g => { g with killAt := some (BitVec.ofNat 64 va) })
              | _ => .next s

/-! ## OBREL_RANGE_RETURN -/

/-- OBREL_RANGE_RETURN (R201). -/
def execObrelRangeReturn (gid entry : Nat) (s : State) : Host.Outcome State Fault Refusal :=
  .next (s.modGroup gid (·.returnRange entry))

end Sys2Proof.Machine
end

