-- ==== Sys2Proof/Machine/ChannelEngine.lean ====
section
/-!
DEFINITION. The steps of the copy channels: a record is read (R281, R282), a Churn engine takes a grid
record (R295), a word or element moves and the target of its chunk fires (R284, R285, R300), a record
completes (R286), a promise is missed (R290).
-/

namespace Sys2Proof.Machine

/-- Whether a channel's engine runs: its clocks run, neither it nor its group is frozen (R368), and no fault
holds it. -/
def State.channelRuns (s : State) (g : Group) (c : Channel) : Bool :=
  g.st != .descheduled && !g.frozen && !c.frozen && !s.stopped g.part && c.stuck.isNone

/-- Whether a channel of a group works on, with no write into its records owed. It works on to its record
boundary when the group has ended (R131). -/
def State.channelOn (s : State) (g : Group) (c : Channel) : Bool :=
  s.channelRuns g c && c.owed.isEmpty && (c.st = 1 || c.st = 2)

/-- The record cause of what an engine met (R282, R283); none when it waits. -/
def Hit.cause : Hit → Option Nat
  | .far => some 4
  | .outside => some 3
  | .bad _ => some 5
  | _ => none

/-- What a channel does about an address it could not reach without a fault of the record: it waits. -/
def State.chanWait (s : State) (g : Group) (c : Channel) (va : Nat) (write : Bool) (h : Hit) : State :=
  let r := s.engineStop g va (.channel g.gid c.n) write h
  r.2.modChan g.gid c.n fun c => { c with stuck := r.1 }

/-- The supervisor notified of an uncorrectable error (R288). -/
def State.noteBad (s : State) (g : Group) : Hit → State
  | .bad pa => s.reportBad g pa
  | _ => s

/-! ## CHANNEL_RECORD_READ -/

/-- A record read from memory checked and accepted; a grid record waits for a Churn engine (R281, R282). -/
def State.takeRecord (s : State) (g : Group) (c : Channel) (t : Transfer) : State :=
  let r := Record.of t.bytes
  if !r.own then s.modChan g.gid c.n fun c => { c with st := 0 }
  else
    let cause := s.recordCause g r
    if r.isGrid && cause ≠ some 1 then s.modChan g.gid c.n fun c => { c with job := some t }
    else
      match cause with
      | some k => s.faultRecord g c t (faultWord k 0 0 0 0) true
      | none => s.accept g c.n t

/-- CHANNEL_RECORD_READ (R281). The control bits that a faulted record keeps when it cannot be read are a free value
(R291, log entry 138). -/
def execChannelRecordRead (gid n : Nat) (s : State) : Host.Outcome State Fault Refusal :=
  match s.group? gid with
  | none => .next s
  | some g =>
    match g.chan? n with
    | none => .next s
    | some c =>
      if !s.channelOn g c || c.job.isSome || c.paused then .next s
      else
        let c' := c.boundary (g.st == .stopping)
        if c' ≠ c then .next (s.modChan gid n fun _ => c')
        else
          let spad := ptrSpad c.cur
          let s := (s.quiesce g.part).engineFix g spad (ptrAddr c.cur) 64
          match s.engineRead g spad (ptrAddr c.cur) 64 with
          | .ok v => .next (s.takeRecord g c { bytes := BitVec.ofNat 512 v, ptr := c.cur })
          | .error (va, h) =>
            match h.cause with
            | some k =>
              let d := (s.noteBad g h).draw
              let t : Transfer := { bytes := BitVec.ofNat 512 d.1.toNat, ptr := c.cur }
              .next (d.2.faultRecord g c t (faultWord k 0 0 0 0) (k = 5))
            | none => .next (s.chanWait g c va false h)

/-! ## CHURN_TAKE -/

/-- Churn engines of a stack (R295), and those in use. -/
def churnEngines : Nat := 8
def State.churnBusy (s : State) (st : Nat) : Nat :=
  ((s.groups.filter fun g => stackOf g.core == st).map fun g =>
    (g.chans.filter fun c => c.job.any fun t => t.grid.isSome && !t.closing).length).foldl (· + ·) 0

/-- What the read of a grid record's descriptor and table finds. -/
inductive Taken where
  | plan (p : GridPlan)
  | fault (cause : Nat) (h : Hit)
  | wait (va : Nat) (h : Hit)
  deriving DecidableEq, Repr

/-- An engine read that failed. -/
def Taken.ofHit (e : Nat × Hit) : Taken :=
  match e.2.cause with
  | some k => .fault k e.2
  | none => .wait e.1 e.2

/-- n 64-bit values of a number, lowest first. -/
def splitDwords (v : Nat) : Nat → List DWord
  | 0 => []
  | n + 1 => BitVec.ofNat 64 v :: splitDwords (v / 2 ^ 64) n

/-- The descriptor and stencil table of a grid record read and checked, the lowest cause first (R282,
R295, R297). -/
def State.readGrid (s : State) (g : Group) (r : Record) : Taken :=
  match s.engineRead g (ptrSpad r.param) (ptrAddr r.param) 64 with
  | .error e => .ofHit e
  | .ok d =>
    let p : GridPlan := { desc := BitVec.ofNat 512 d, taps := 0, nrows := 0, sep := false, weights := [] }
    if p.misaligned r then .fault 2 .far
    else if p.table = 0 || ptrBad p.table then .fault 7 .far
    else
      let spad := ptrSpad p.table
      let at_ := ptrAddr p.table
      match s.engineRead g spad at_ 8 with
      | .error e => .ofHit e
      | .ok h =>
        let p := { p with taps := bits h 0 16, nrows := bits h 16 16, sep := bits h 32 1 = 1 }
        if p.malformed || p.tableBad (r.kind = 6) h then .fault 7 .far
        else
          match s.engineRead g spad (at_ + 8) (8 * p.taps * p.nrows) with
          | .error e => .ofHit e
          | .ok w => .plan { p with weights := splitDwords w (p.taps * p.nrows) }

/-- The correctable errors in a grid record's descriptor and table corrected. -/
def State.gridFix (s : State) (g : Group) (r : Record) : State :=
  if s.errors.isEmpty then s
  else
    let s := s.engineFix g (ptrSpad r.param) (ptrAddr r.param) 64
    match s.engineRead g (ptrSpad r.param) (ptrAddr r.param) 64 with
    | .error _ => s
    | .ok d =>
      let p : DWord := BitVec.ofNat 64 (bits d 64 64)
      s.engineFix g (ptrSpad p) (ptrAddr p) (8 + 8 * 54)

/-- CHURN_TAKE: a free engine of the group's stack takes the grid record of a channel (R295). -/
def execChurnTake (gid n : Nat) (s : State) : Host.Outcome State Fault Refusal :=
  match s.group? gid with
  | none => .next s
  | some g =>
    match g.chan? n with
    | none => .next s
    | some c =>
      match c.job with
      | none => .next s
      | some t =>
        let r := Record.of t.bytes
        if !s.channelOn g c || !r.isGrid || t.grid.isSome || churnEngines ≤ s.churnBusy (stackOf g.core) then .next s
        else
          let s := (s.quiesce g.part).gridFix g r
          let six := !t.accepted && s.recordCause g r = some 6
          match s.readGrid g r with
          | .wait va h => .next (s.chanWait g c va false h)
          | .fault k h =>
            .next ((s.noteBad g h).faultRecord g c t (faultWord (if six then min k 6 else k) 0 0 0 0) true)
          | .plan p =>
            if six then .next (s.faultRecord g c t (faultWord 6 0 0 0 0) true)
            else
              let t := { t with grid := some p }
              .next (if t.accepted then s.modChan gid n fun c => { c with job := some t } else s.accept g n t)

/-! ## TARGET_FIRE -/

/-- A transfer changed. -/
def State.modJob (s : State) (gid n : Nat) (u : Transfer → Transfer) : State :=
  s.modChan gid n fun c => { c with job := c.job.map u }

/-- A transfer that meets an address it cannot reach: the record faults, or the channel waits (R287, R288). -/
def State.jobStop (s : State) (g : Group) (c : Channel) (t : Transfer) (e : Nat × Hit) (write : Bool)
    (fw : Nat → DWord) : State :=
  match e.2.cause with
  | some k => (s.noteBad g e.2).faultRecord g c t (fw k) true
  | none => s.chanWait g c e.1 write e.2

/-- The next index of a gather or scatter read; one that cannot be used ends the list (R284). -/
def State.readIndex (s : State) (g : Group) (c : Channel) (t : Transfer) (r : Record) : State :=
  let spad := ptrSpad r.param
  let va := engineAddr spad (BitVec.ofNat 64 (ptrAddr r.param)) (4 * t.idx.length)
  let s := s.engineFix g spad va 4
  match s.engineRead g spad va 4 with
  | .ok v =>
    if v % 4 = 0 then s.modJob g.gid c.n fun t => { t with idx := t.idx ++ [v] }
    else s.modJob g.gid c.n fun t => { t with badIdx := some 2 }
  | .error (va, h) =>
    match h.cause with
    | some k => (s.noteBad g h).modJob g.gid c.n fun t => { t with badIdx := some k }
    | none => s.chanWait g c va false h

/-- The bytes of the chunk that word k completes on a side (R285). -/
def Record.chunk (r : Record) (idx : List Nat) (src : Bool) (k : Nat) : Option Nat :=
  if r.rows = 1 && !r.indexed then chunkInRow (if src then r.src.toNat else r.dst.toNat) (r.rowBytes / 4) k
  else
    let all := r.rows * (r.rowBytes / 4)
    let mine := r.kind = (if src then 2 else 3)
    chunkAt (if src then r.srcAt idx else r.dstAt idx) (if mine then r.words idx else all) 4 k

/-- The fault word of a copy that stops at word k (R273). -/
def Record.stopWord (r : Record) (k cause : Nat) : DWord :=
  if r.indexed then faultWord cause 0 1 (4 * k / r.rowBytes) (4 * k) else faultWord cause 0 0 0 (4 * k)

/-- The fault word of a record that stops where it is (R273). -/
def Transfer.stopWord (t : Transfer) (cause : Nat) : DWord :=
  let r := Record.of t.bytes
  if r.isGrid then faultWord cause t.flags 0 0 t.pos else r.stopWord t.pos cause

/-- Word k of a copy read and written, and the targets of the chunks it completes (R272, R285). -/
def State.moveWord (s : State) (g : Group) (c : Channel) (t : Transfer) (r : Record) : State :=
  let k := t.pos
  let sa := r.srcAt t.idx k
  let da := r.dstAt t.idx k
  let s := if r.kind = 4 then s else s.engineFix g r.sspace sa 4
  let v : Except (Nat × Hit) Nat :=
    if r.kind = 4 then .ok (r.param.toNat % 2 ^ 32) else s.engineRead g r.sspace sa 4
  match v with
  | .error e => s.jobStop g c t e false (r.stopWord k)
  | .ok v =>
    match s.engineWrite g r.dspace da 4 v with
    | .error h => s.jobStop g c t (da, h) true (r.stopWord k)
    | .ok s =>
      let s := if r.kind = 4 then s
        else match r.chunk t.idx true k with
          | some n => s.fire g r.scope r.sfmode r.sfbar sa n false
          | none => s
      let s := match r.chunk t.idx false k with
        | some n => s.fire g r.scope r.dvmode r.dvbar da n true
        | none => s
      s.modJob g.gid c.n fun t => { t with pos := k + 1 }

/-- The correctable errors in what a grid element reads corrected. -/
def State.elemFix (s : State) (g : Group) (r : Record) (p : GridPlan) (k : Nat) : State :=
  if s.errors.isEmpty then s
  else
    let pro := r.kind = 6
    let s := (List.range (if p.sep then p.width ^ p.dims else p.taps)).foldl (init := s) fun s t =>
      match p.tapCoord pro (p.coord pro k) t with
      | some c => s.engineFix g r.sspace (p.addr (!pro) r.sspace r.src c) (gridSize (p.fcode (!pro)))
      | none => s
    if r.acc then s.engineFix g r.dspace (p.elemAt pro r.dspace r.dst k) (gridSize (p.fcode pro)) else s

/-- The next result of a grid record computed and written, with the targets it fires (R299, R300). -/
def State.moveElem (s : State) (g : Group) (c : Channel) (t : Transfer) (r : Record) (p : GridPlan) : State :=
  let k := t.pos
  let pro := r.kind = 6
  let size := gridSize (p.fcode pro)
  let fw (cause : Nat) := faultWord cause t.flags 0 0 k
  let s := s.elemFix g r p k
  match s.gridElem g r p k with
  | .error e => s.jobStop g c t e false fw
  | .ok (v, da, fl) =>
    match s.engineWrite g r.dspace da size v with
    | .error h => s.jobStop g c t (da, h) true fw
    | .ok s =>
      let n := p.count pro
      let s := match chunkAt (p.elemAt pro r.dspace r.dst) n size k with
        | some m => s.fire g r.scope r.dvmode r.dvbar da m true
        | none => s
      let s := if k + 1 = n then s.fireSource g r p else s
      s.modJob g.gid c.n fun t => { t with pos := k + 1, flags := t.flags ||| fl }

/-- Whether a transfer has moved everything (R286). -/
def Transfer.finished (t : Transfer) : Bool :=
  let r := Record.of t.bytes
  t.accepted &&
    (if r.isGrid then
      (match t.grid with
        | some p => t.pos = p.count (r.kind = 6)
        | none => false)
     else (!r.indexed || (t.badIdx.isNone && t.idx.length = r.rows)) && t.pos = r.words t.idx)

/-- The peer aperture that a global address of an engine lies in (R393). -/
def State.farAt (s : State) (g : Group) (spad : Bool) (va : Nat) : Option Window :=
  if spad then none
  else match s.reach g va .read with
    | .ok pa _ => s.aperture? g.part pa
    | _ => none

/-- The aperture that the next access of a copy or of a grid record goes through, when it goes to a peer. -/
def State.nextFar (s : State) (g : Group) (t : Transfer) (r : Record) : Option Window :=
  let dst (k : Nat) := s.farAt g r.dspace k
  match t.grid with
  | some p =>
    (dst (p.elemAt (r.kind = 6) r.dspace r.dst t.pos)).orElse fun _ =>
      s.farAt g r.sspace (p.elemAt (r.kind != 6) r.sspace r.src 0)
  | none =>
    (if r.kind = 4 then none else s.farAt g r.sspace (r.srcAt t.idx t.pos)).orElse fun _ => dst (r.dstAt t.idx t.pos)

/-- The outstanding request of a channel to a peer (R394). -/
def State.chanPeer? (s : State) (gid n : Nat) : Option PeerWait :=
  s.peers.find? fun w => w.grp == gid && w.chan == some n

/-- Whether a channel must wait for a peer, and the state after: its request is sent, or its answer is taken
(R394). -/
def State.awaitPeer (s : State) (g : Group) (n : Nat) (t : Transfer) (r : Record) : Bool × State :=
  match s.nextFar g t r with
  | none => (false, s)
  | some w =>
    match s.chanPeer? g.gid n with
    | none =>
      (true, { s with
        peers := s.peers ++
          [{ id := s.serial, part := g.part, grp := g.gid, fid := 0, start := s.tick, store := false, ports := w.ports
             chan := some n }]
        serial := s.serial + 1 })
    | some w =>
      if s.tick.toNat < w.start.toNat + Config.peerTicks w.id then (true, s)
      else (false, { s with peers := s.peers.filter fun v => v.id != w.id })

/-- The writes that a channel owes performed, and the record that waited for nothing else completed (R286, R288). -/
def State.payOwed (s : State) (g : Group) (c : Channel) : State :=
  let s := s.payRecord g c.n c.owed
  match c.job with
  | some t => if t.closing && !s.owes g.gid c.n then s.closeRecord g c t else s
  | none => s

/-- TARGET_FIRE: the writes into its records that a channel owes, else the next access of its record, and the
targets of the chunks it completes (R285). -/
def execTargetFire (gid n : Nat) (s : State) : Host.Outcome State Fault Refusal :=
  match s.group? gid with
  | none => .next s
  | some g =>
    match g.chan? n with
    | none => .next s
    | some c =>
      if !c.owed.isEmpty then .next (if s.channelRuns g c then s.payOwed g c else s)
      else match c.job with
      | none => .next s
      | some t =>
        let r := Record.of t.bytes
        if !s.channelOn g c || !t.accepted || t.finished then .next s
        else
          let s := s.quiesce g.part
          if r.isGrid then
            match t.grid with
            | none => .next s
            | some p =>
              let w := s.awaitPeer g n t r
              .next (if w.1 then w.2 else w.2.moveElem g c t r p)
          else if r.indexed && t.badIdx.isNone && t.idx.length < r.rows then .next (s.readIndex g c t r)
          else if t.pos < r.words t.idx then
            let w := s.awaitPeer g n t r
            .next (if w.1 then w.2 else w.2.moveWord g c t r)
          else
            match t.badIdx with
            | some k => .next (s.faultRecord g c t (faultWord k 0 0 t.idx.length (4 * t.pos)) true)
            | none => .next s

/-! ## RECORD_COMPLETE and PROMISE_MISS -/

/-- RECORD_COMPLETE (R286). -/
def execRecordComplete (gid n : Nat) (s : State) : Host.Outcome State Fault Refusal :=
  match s.group? gid with
  | none => .next s
  | some g =>
    match g.chan? n with
    | none => .next s
    | some c =>
      match c.job with
      | none => .next s
      | some t => if s.channelOn g c && t.finished then .next (s.completeRecord g c t) else .next s

/-- Whether a channel's record is late (R290). -/
def Channel.late (c : Channel) (fair : Nat) (now : DWord) : Bool :=
  match c.job with
  | none => false
  | some t => t.accepted && !t.missed && c.prom.toNat + fair < now.toNat

/-- PROMISE_MISS (R290). -/
def execPromiseMiss (gid n : Nat) (s : State) : Host.Outcome State Fault Refusal :=
  match s.group? gid with
  | none => .next s
  | some g =>
    match g.chan? n with
    | none => .next s
    | some c =>
      match c.job with
      | none => .next s
      | some t =>
        if c.late g.pol.fair s.tick && !s.stopped g.part then
          .next ((s.missPromise g c t false).modJob gid n fun t => { t with missed := true })
        else .next s

end Sys2Proof.Machine
end

