-- ==== Sys2Proof/Machine/Control.lean ====
section
/-!
DEFINITION. Control transfer (R126), the fibre words FORK, FEND, FJOIN, YIELD and GEND (R125 to R131)
and MIGR (R135).
-/

namespace Sys2Proof.Machine

/-! ## Control transfer -/

/-- The address of the packet that follows a run's current one. -/
def Run.after (r : Run) : DWord := r.pkt + BitVec.ofNat 64 packetBytes

/-- The packet that K names (R126). -/
def Run.jump (r : Run) (k : BitVec 17) : DWord := r.pkt + BitVec.ofInt 64 (12 * k.toInt)

/-- Illegal-packet cause 6 for the members whose target is no packet address (R126, R54). -/
def targetCheck (f : F3) (s : State) (r : Run) : Check :=
  let e := s.env r
  let bad := (s.members r).filter fun fb => (e.op64 fb f.a).toNat % packetBytes ≠ 0
  if bad.isEmpty then .ok
  else .fault { kind := 8, cause := 6, failing := maskOf (bad.map (·.fid)) }

/-- Illegal-packet cause 6 for the members that K takes to no packet address, past an end of the address space
(R126, R54). -/
def jumpCheck (f : FK) (takes : Fibre → Bool) (s : State) (r : Run) : Check :=
  let bad := (s.members r).filter takes
  if bad.isEmpty || (r.jump f.k).toNat % packetBytes = 0 then .ok
  else .fault { kind := 8, cause := 6, failing := maskOf (bad.map (·.fid)) }

/-- A branch taken by the members whose predicate has the given value (R126). -/
def branch (r : Run) (f : FK) (v : Bool) (fb : Fibre) : Fibre :=
  { fb with npc := some (if fb.pred f.d.toNat == v then r.jump f.k else r.after) }

/-- BR (R126). -/
def execBr (f : FK) (s : State) : Host.Outcome State Fault Refusal :=
  s.issue (.br f) f.c (jumpCheck f fun fb => fb.pred f.d.toNat) fun s r => s.modFibres r.grp r.fids (branch r f true)

/-- BRN (R126). -/
def execBrn (f : FK) (s : State) : Host.Outcome State Fault Refusal :=
  s.issue (.brn f) f.c (jumpCheck f fun fb => !fb.pred f.d.toNat) fun s r =>
    s.modFibres r.grp r.fids (branch r f false)

/-- JMP (R126). -/
def execJmp (f : F3) (s : State) : Host.Outcome State Fault Refusal :=
  s.issue (.jmp f) f.c (targetCheck f) fun s r =>
    s.eachMember r fun e fb => { fb with npc := some (e.op64 fb f.a) }

/-- CALL: the pair D receives the return address (R126). -/
def execCall (f : FK) (s : State) : Host.Outcome State Fault Refusal :=
  s.issue (.call f) f.c (jumpCheck f fun _ => true) fun s r =>
    s.eachMember r fun e fb => { fb.put64 e .A f.d r.after with npc := some (r.jump f.k) }

/-- RET differs from JMP for the fetch predictor only (R126). -/
def execRet (f : F3) (s : State) : Host.Outcome State Fault Refusal :=
  s.issue (.ret f) f.c (targetCheck f) fun s r =>
    s.eachMember r fun e fb => { fb with npc := some (e.op64 fb f.a) }

/-! ## FORK and FJOIN -/

/-- A handle (R128). -/
def handleOf (gen : BitVec 16) (fid : Nat) : Word := gen ++ BitVec.ofNat 16 fid

/-- The lowest free slot of a team (R128). -/
def Group.freeSlot (g : Group) (team : Nat) : Option Nat :=
  ((List.range 32).map (team * 32 + ·)).find? fun f => (g.fibre f).st == .free

/-- The state of a new fibre in a slot (R128, R88, R61). -/
def Fibre.fresh (slot : Fibre) (pc : DWord) (g0 g1 fpctl : Word) (now : DWord) : Fibre :=
  { fid := slot.fid
    st := .ready
    gen := slot.gen
    exitv := slot.exitv
    ctx := { regs := sset 0 (sset 0 [] 0 g0) 1 g1, fpctl := fpctl }
    pc := pc
    rdy := now
    unacked := slot.unacked
    slots := slot.slots
    synced := true }

/-- FORK's condition and effect (R128). What the forker has written is there for the new fibre's first run, also when
the forker stands on another core than its home (R320). -/
def forkEval (s : State) (g : Group) (fb : Fibre) (w : Wait) : Ev :=
  match g.freeSlot (fb.fid / 32) with
  | none => .wait
  | some n =>
    let slot := g.fibre n
    let new := slot.fresh w.a (w.b.setWidth 32) (handleOf fb.gen fb.fid) fb.ctx.fpctl s.tick
    .ok 0 ((s.handOver (fb.onCore g) g.core).modFibre g.gid n fun _ => new) fun f =>
      if f = fb.fid then (1, (handleOf slot.gen n).toNat) else (0, 0)

/-- FORK as a wait. -/
def forkKind : WaitKind := { cls := 6, pipe := .X, eval := forkEval }

/-- FORK: the forker's earlier results land first, so that the flags are merged (R128). -/
def execFork (f : F3) (s : State) : Host.Outcome State Fault Refusal :=
  s.issue (.fork f) f.c noCheck fun s r =>
    (s.modFibres r.grp r.fids (·.landAll)).startEach r forkKind
      (fun e fb => e.mkWait r (.fork f) fb f.x (e.op64 fb f.a) ((e.op32 fb f.b).setWidth 64) 0) noPlace

/-- FJOIN's outcomes (R130). A handle that names no other fibre's slot meets no condition. OK is an acquire of what
the fibre wrote (R320). -/
def fjoinEval (s : State) (g : Group) (fb : Fibre) (w : Wait) : Ev :=
  let h : Word := w.a.setWidth 32
  let n := (h.extractLsb' 0 10).toNat
  let gen := h.extractLsb' 16 16
  if h.extractLsb' 10 6 ≠ 0 || g.slots ≤ n || (n = fb.fid && gen = fb.gen) then .imm false .noslot 0 s noResult
  else
    let slot := g.fibre n
    if slot.gen = gen + 1 then .ok 0 (s.handOver g.core (fb.onCore g)) fun f => if f = fb.fid then (1, slot.exitv.toNat) else (0, 0)
    else if slot.gen = gen then .wait
    else .imm false .closed 0 s noResult

/-- FJOIN as a wait. -/
def fjoinKind : WaitKind := { cls := 6, pipe := .X, eval := fjoinEval }

/-- FJOIN (R130). -/
def execFjoin (f : F3) (s : State) : Host.Outcome State Fault Refusal :=
  s.issue (.fjoin f) f.c noCheck fun s r =>
    s.startEach r fjoinKind
      (fun e fb => e.mkWait r (.fjoin f) fb f.x ((e.op32 fb f.a).setWidth 64) 0 0) noPlace

/-! ## Ends and YIELD -/

/-- FEND: each member ends after the run with its exit value (R129). -/
def execFend (f : F3) (s : State) : Host.Outcome State Fault Refusal :=
  s.issue (.fend f) f.c noCheck fun s r =>
    s.eachMember r fun e fb => { fb with after := { fb.after with fend := some (e.op32 fb f.a) } }

/-- GEND: the group ends after the run (R131). -/
def execGend (f : F3) (s : State) : Host.Outcome State Fault Refusal :=
  s.issue (.gend f) f.c noCheck fun s r =>
    s.eachMember r fun e fb => { fb with after := { fb.after with gend := some (e.op32 fb f.a) } }

/-- YIELD leaves its strength with the run, for the pick after it (R125). -/
def execYield (f : F3) (s : State) : Host.Outcome State Fault Refusal :=
  s.issue (.yield f) f.c noCheck fun s _ =>
    s.modCore s.cur fun c => { c with run := c.run.map fun r => { r with yielded := some f.x.toNat } }

/-! ## MIGR -/

/-- Landing slots of a core: the landing fields of its resident groups (R135). -/
def State.landingSlots (s : State) (core : Nat) : Nat :=
  ((s.groups.filter fun g => g.core == core && g.st != .descheduled && !g.gone).map
    (·.kern.landing)).foldl (· + ·) 0

/-- Landing slots of a core that a fibre slot holds: its fibre is landed there, in transit to it, about to depart to it,
or has left it with stores not acknowledged, and so have fibres of the slot that have ended. -/
def Fibre.landingsOn (fb : Fibre) (core : Nat) : Nat :=
  let here := fb.slotOn == some core ||
    (match fb.place with
      | .landed c => c == core
      | .transit c _ _ => c == some core
      | .home => false) ||
    (match fb.after.migr with
      | some (c, _) => c == some core
      | none => false)
  (if here then 1 else 0) + (fb.slots.filter (·.1 == core)).length

/-- Free landing slots of a core, as LANDF reads them (R135). -/
def State.landingFree (s : State) (core : Nat) : Nat :=
  s.landingSlots core -
    ((s.groups.map fun g => (g.fibres.map (·.landingsOn core)).foldl (· + ·) 0).foldl (· + ·) 0)

/-- MIGR's outcomes (R135): bound is 1 plus the stack that homes the address, 0 for a flag word that
asks for home or is illegal. -/
def migrEval (s : State) (g : Group) (fb : Fibre) (w : Wait) : Ev :=
  let b : Word := w.b.setWidth 32
  let here := fb.onCore g
  let go (target : Option Nat) : Ev :=
    let d : BitVec 7 := if w.f3.d.toNat < 64 then BitVec.ofNat 7 (mapReg w.mp w.f3.d.toNat) else w.f3.d
    .ok 0 (s.modFibre g.gid fb.fid fun fb => { fb with after := { fb.after with migr := some (target, d) } }) noResult
  if b.extractLsb' 1 31 ≠ 0 then .imm false .noslot 3 s noResult
  else if b.getLsbD 0 then go none
  else
    let st := w.bound - 1
    if st = stackOf here then .ok 1 s fun f => if f = fb.fid then (1, here) else (0, 0)
    else
      let cores := (coreSet (s.coresOf g.part)).filter fun c =>
        stackOf c == st && s.landingSlots c ≠ 0 && s.stackUp st
      if cores.isEmpty then .imm false .noslot 2 s noResult
      else
        match cores.filter fun c => s.landingFree c ≠ 0 with
        | c :: _ => go (some c)
        | [] => .wait

/-- MIGR as a wait. -/
def migrKind : WaitKind := { cls := 8, pipe := .X, eval := migrEval }

/-- MIGR: the address of a member that does not ask for home is translated at issue (R135). -/
def execMigr (f : F3) (s : State) : Host.Outcome State Fault Refusal :=
  s.issueMem (.migr f) f.c (fun _ => { size := 1, acc := .any })
    (fun e fb => if e.op32 fb f.b = 0 then [{ fid := fb.fid, va := e.op64 fb f.a }] else [])
    fun s r g _ =>
      s.startEach r migrKind
        (fun e fb =>
          let b := e.op32 fb f.b
          let w := e.mkWait r (.migr f) fb f.x (e.op64 fb f.a) (b.setWidth 64) 0
          if b = 0 then
            { w with bound := 1 + homeStack (s.transReq g .any { fid := fb.fid, va := e.op64 fb f.a }).paOf }
          else w)
        noPlace

end Sys2Proof.Machine
end

