-- ==== Sys2Proof/Machine/Microstore.lean ====
section
/-!
DEFINITION. Control-store images (R19, R20), MCALL (R78 to R81) and CSLD (R82).
-/

namespace Sys2Proof.Machine

/-! ## Images -/

/-- A little-endian list of the bytes of words. -/
def bytesOf (ws : List Word) : List Byte := ws.flatMap fun w => (List.range 4).map fun k => w.extractLsb' (8 * k) 8

/-- A control-store image as R19 lays it out. -/
structure StoreImage where
  present : DWord
  slots : List (Nat × List Word)
  signed : List Byte
  keyId : List Byte
  signature : List Byte
  deriving DecidableEq, Repr

/-- The bytes of an image (R19). -/
def StoreImage.bytes (m : StoreImage) : List Byte := m.signed ++ m.signature

/-- n words from an offset of an image, by a reader that may fail. -/
def readWords {ε : Type} (rd : Nat → Except ε Word) (off : Nat) : Nat → Except ε (List Word)
  | 0 => .ok []
  | n + 1 =>
    match rd off with
    | .error x => .error x
    | .ok w => (readWords rd (off + 4) n).map (w :: ·)

/-- Whether the words of a microprogram obey R20. -/
def microLegal : List Word → Bool
  | [] => false
  | [w] =>
    match decodeFields w with
    | some (.trail f) => !f.c
    | _ => false
  | w :: ws =>
    ((decodeFields w).bind Instr.shape).any (fun sh => !sh.ends) && microLegal ws

/-- The slots of an image from an offset, and the offset after them. -/
def parseSlots {ε : Type} (rd : Nat → Except ε Word) (bad : ε) :
    List Nat → Nat → Except ε (List (Nat × List Word) × Nat)
  | [], off => .ok ([], off)
  | k :: ks, off =>
    match rd off with
    | .error x => .error x
    | .ok n =>
      if n = 0 || 32 < n.toNat then .error bad
      else
        match readWords rd (off + 4) n.toNat with
        | .error x => .error x
        | .ok ws =>
          if !microLegal ws then .error bad
          else
            (parseSlots rd bad ks (off + 4 + 4 * n.toNat)).map fun r => ((k, ws) :: r.1, r.2)

/-- An image read through a reader; bad stands for a violation of R19 or R20. Bytes after its signature are no part
of it (log entry 118). -/
def parseStore {ε : Type} (rd : Nat → Except ε Word) (bad : ε) : Except ε StoreImage :=
  match readWords rd 0 4 with
  | .error x => .error x
  | .ok h =>
    let present : DWord := (h.getD 1 0) ++ (h.getD 0 0)
    if h.getD 2 0 ≠ 0 || h.getD 3 0 ≠ 0 then .error bad
    else
      match parseSlots rd bad (maskList 64 present.toNat) 16 with
      | .error x => .error x
      | .ok (slots, off) =>
        let pad := off / 4 % 2
        match readWords rd 0 (off / 4 + pad + 12), readWords rd (off + 4 * pad + 48) 24 with
        | .ok ws, .ok sg =>
          if pad = 1 && ws.getD (off / 4) 0 ≠ 0 then .error bad
          else
            .ok { present := present, slots := slots, signed := bytesOf ws
                  keyId := bytesOf (ws.drop (off / 4 + pad)), signature := bytesOf sg }
        | .error x, _ => .error x
        | _, .error x => .error x

/-! ## The partition's control store -/

/-- The words bound to a slot of a partition. -/
def State.slotWords (s : State) (p slot : Nat) : Option (List Word) :=
  ((s.part? p).bind fun q => q.store.find? (·.slot == slot)).map (·.words)

/-- The slots replaced on every core of a partition on one tick from an image (R82). -/
def State.replaceSlots (s : State) (p : Nat) (image : List Byte) (l : List (Nat × List Word)) : State :=
  l.foldl (init := s) fun s k =>
    s.modPart p fun q =>
      { q with
        store := upsert (·.slot == k.1) { slot := k.1, words := [], images := [] }
          (fun x => { x with words := k.2, loaded := some image }) q.store }

/-- Whether a wait of a fibre meets a test, in progress or interrupted by a handler (R345). -/
def Fibre.waitsAs (fb : Fibre) (p : Wait → Bool) : Bool := fb.wait.any p || fb.saved.any p

/-- The slots that a CSLD of a partition which has not returned is replacing (R81). -/
def State.replacing (s : State) (p slot : Nat) : Bool :=
  s.groups.any fun g =>
    g.part == p && g.fibres.any fun fb =>
      fb.waitsAs fun w => (w.word.extractLsb' 24 7).toNat == 0x03 && w.bound == 0 && w.d.getLsbD slot

/-- Whether a fibre of a partition stands inside one of the slots of a mask (R82). -/
def State.insideSlots (s : State) (p : Nat) (present : DWord) : Bool :=
  let hits (m : Option (Nat × Nat)) : Bool := m.any fun x => present.getLsbD x.1
  s.groups.any fun g => g.part == p && g.fibres.any fun fb => hits fb.mc || hits fb.smc

/-! ## MCALL -/

/-- Illegal-instruction cause 8 (R81), or a wait in place for a replacement (R93). -/
def mcallCheck (f : FK) (s : State) (r : Run) : Check :=
  match s.group? r.grp with
  | none => .ok
  | some g =>
    let slot := f.k.toNat
    if s.replacing g.part slot then .again s.stallIssue
    else if (s.slotWords g.part slot).isNone || !(s.shareOf g.part g.region).testBit slot then
      .fault { kind := 7, cause := 8, failing := maskOf r.fids }
    else .ok

/-- MCALL: the microprogram is the bundle's next run (R78, R79). -/
def execMcall (f : FK) (s : State) : Host.Outcome State Fault Refusal :=
  s.issue (.mcall f) f.c (mcallCheck f) fun s r =>
    s.modFibres r.grp r.fids fun fb => { fb with after := { fb.after with mcall := some (f.k.toNat, f.d.toNat) } }

/-! ## CSLD -/

/-- What stops the reading of an image. -/
inductive CsldStop where
  | detail (n : Nat)
  | trans (va : DWord) (t : Trans)

/-- The 32-bit word at a virtual address as a load by the issuing core reads it, and its translation. -/
def State.wordAt (s : State) (g : Group) (va : DWord) : Except CsldStop Word :=
  match s.transReq g .read { fid := 0, va := va } with
  | .ok pa e _ => .ok (BitVec.ofNat 32 (s.loadBytes s.cur pa 4 (pteHost e)).1)
  | t => .error (.trans va t)

/-- The image that A names (R82): detail 4 for a misaligned address, 1 for a malformed image. -/
def State.csldImage (s : State) (g : Group) (va : DWord) : Except CsldStop StoreImage :=
  if va.toNat % 64 ≠ 0 then .error (.detail 4)
  else parseStore (fun off => s.wordAt g (va + BitVec.ofNat 64 off)) (.detail 1)

/-- The FAULTED detail of an image, 0 when it is accepted (R82). -/
def State.csldDetail (s : State) (g : Group) (permit : DWord) (m : StoreImage) : Nat :=
  let keys := ((s.part? g.part).map (·.keys)).getD []
  if !keys.contains m.keyId then 3
  else if !Config.signatureValid m.signed m.keyId m.signature then 2
  else if m.present &&& ~~~permit ≠ 0 then 5
  else if m.present &&& ~~~(BitVec.ofNat 64 (s.shareOf g.part g.region)) ≠ 0 then 5
  else 0

/-- The checks of CSLD: the privileged mark, then the translations of each member's image (R82). -/
def csldCheck (f : F3) (s : State) (r : Run) : Check :=
  match s.group? r.grp with
  | none => .ok
  | some g =>
    if !g.pol.privileged then .fault { kind := 7, cause := 7, failing := maskOf r.fids }
    else
      let e := s.env r
      let stops := (s.members r).filterMap fun fb =>
        match s.csldImage g (e.op64 fb f.a) with
        | .error (.trans va t) => some (fb.fid, va, t)
        | _ => none
      let at_ (k : Trans → Bool) : List (Nat × DWord × Trans) := stops.filter fun q => k q.2.2
      let bad (kind cause : Nat) (l : List (Nat × DWord × Trans)) : Check :=
        .fault { kind := kind, cause := cause, failing := maskOf (l.map (·.1)), fva := ((l.head?).map (·.2.1)).getD 0 }
      let far := stops.filter fun q => 2 ^ 60 ≤ q.2.1.toNat
      if !far.isEmpty then bad 9 2 far
      else
        let miss := at_ (· == .miss)
        if !miss.isEmpty then
          .again (miss.foldl (fun s q =>
            s.askWalk (stackOf s.cur) g.part g.vf q.2.1.toNat false (.fibre g.gid q.1)) s).stallIssue
        else
          match lowest (stops.filterMap fun q => match q.2.2 with | .fault c => some c | _ => none) with
          | some c => bad 10 c (at_ fun t => match t with | .fault _ => true | _ => false)
          | none =>
            if (at_ (· == .violation)).isEmpty then .ok
            else .again ((s.unissue.violate g.part (.group g.gid)).stopRun r [])

/-- CSLD's outcomes: bound holds the FAULTED detail, data the slots, d the present mask (R82). Members
replace one after the other. -/
def csldEval (s : State) (g : Group) (fb : Fibre) (w : Wait) : Ev :=
  let mine (v : Nat) : Nat → Result := fun f => if f = fb.fid then (1, v) else (0, 0)
  let before := g.fibres.any fun o =>
    o.fid / 32 == fb.fid / 32 && o.fid < fb.fid && o.waitsAs fun v => v.pkt == w.pkt && v.issued == w.issued
  if w.bound ≠ 0 then .imm false .faulted w.bound s (mine 0)
  else if before || s.insideSlots g.part w.d then .wait
  else .ok 0 (s.replaceSlots g.part w.image w.data) (mine (popCount 64 w.d.toNat))

/-- CSLD as a wait; D is 0 whenever no slot is replaced (R82). -/
def csldKind : WaitKind :=
  { cls := 13, pipe := .X, eval := csldEval, late := fun s _ _ _ => (0, (1, 0), s) }

/-- CSLD (R82). -/
def execCsld (f : F3) (s : State) : Host.Outcome State Fault Refusal :=
  s.issue (.csld f) f.c (csldCheck f) fun s r =>
    match s.group? r.grp with
    | none => s
    | some g =>
      s.startEach r csldKind
        (fun e fb =>
          let w := e.mkWait r (.csld f) fb f.x (e.op64 fb f.a) (e.op64 fb f.b) 0
          match s.csldImage g (e.op64 fb f.a) with
          | .ok m => { w with bound := s.csldDetail g (e.op64 fb f.b) m, data := m.slots, image := m.bytes, d := m.present }
          | .error (.detail n) => { w with bound := n }
          | .error _ => { w with bound := 1 })
        noPlace

end Sys2Proof.Machine
end

