-- ==== Sys2Proof/Machine/Runs.lean ====
section
/-!
DEFINITION. The end of a run: TRAIL (R65 to R68, R107, R353), and the trap words TRAP, SYSC and ERET
(R347 to R350).
-/

namespace Sys2Proof.Machine

/-! ## Results at the end of a run -/

/-- Registers or pairs that the scoreboard holds (R67). -/
def boardSize : Nat := 6

/-- The earliest entries of a full scoreboard landed until n more fit (R67). A quad counts as one entry, as a pair
does (DESIGN CHOICE, log entry 124). -/
def Fibre.makeRoom (fb : Fibre) (n : Nat) : Fibre :=
  let extra := fb.board.length + n - boardSize
  { (fb.board.take extra).foldl Fibre.land fb with board := fb.board.drop extra }

/-- Results in flight at the run's end (R66, R67): those that TRAIL does not name are written, the
others enter the scoreboard. Naming D alone covers a quad, as it covers a pair (DESIGN CHOICE, log entry 124). -/
def Fibre.endResults (fb : Fibre) (named : List Nat) : Fibre :=
  let late := fb.flight.filter fun p => named.contains p.reg
  let fb := { (fb.flight.filter fun p => !named.contains p.reg).foldl Fibre.land fb with flight := [] }
  let fb := fb.makeRoom late.length
  let room := boardSize - fb.board.length
  { (late.take (late.length - room)).foldl Fibre.land fb with board := fb.board ++ late.drop (late.length - room) }

/-! ## The boundary of one fibre -/

/-- ERET at its run's end (R350): g0 to g3, inhandler, the interrupted wait, after which the fibre goes on at
the packet after the waiting word's, and the pass that R402 exempts from watchpoints. -/
def Fibre.endHandler (fb : Fibre) (kept abandon : Bool) : Fibre :=
  let restored := (List.range 4).foldl (fun m k => sset 0 m k (sget 0 fb.ctx.shadow k)) fb.ctx.regs
  { fb with
    ctx := { fb.ctx with inhandler := false, regs := if kept then fb.ctx.regs else restored }
    wait := if abandon then none else fb.saved.map fun w => { w with resumed := true }
    pc := match fb.saved with
      | some w => if abandon then fb.pc else w.pkt + BitVec.ofNat 64 packetBytes
      | none => fb.pc
    saved := none
    mc := if abandon then none else fb.smc
    smc := none
    owed := fb.sowed
    sowed := none
    exempt := !abandon && (fb.ctx.finfo.extractLsb' 27 4) = 2 }

/-- A fibre at the boundary after its run: the next run's packet, its state, SYSC, ERET and the entry
that follows the run (R353, R346), for the bundle's mask. What a handler's last run raises itself comes before
the wait that ERET goes on with. -/
def Fibre.endRun (fb : Fibre) (next : DWord) (now : DWord) (mask : BitVec 32) : Fibre :=
  let fb := { fb with pc := fb.npc.getD next, npc := none, exempt := false, mc := none }
  let fb : Fibre := match fb.after.eret with
    | some (kept, abandon) =>
      let fb := fb.raiseAfter mask
      { fb with after := { fb.after with eret := none } }.endHandler kept abandon
    | none => fb
  let fb : Fibre := match fb.after.sysc with
    | some (code, reg) =>
      { fb with
        after := { fb.after with sysc := none }
        sysc := some (code, reg)
        held := some { kind := 13, detail := code, epc := fb.pc, mask := mask, failing := mask }
        sent := false }
    | none => fb
  let fb := { fb with st := if fb.wait.isSome then .waiting else .ready, rdy := now }
  if fb.wait.isSome || fb.entry.isSome then fb else fb.raiseAfter mask

/-- The arrival of a wait that an ERET abandons withdrawn (R350). -/
def State.abandonWait (s : State) (g : Group) (fb : Fibre) : State :=
  match fb.after.eret, fb.saved with
  | some (_, true), some w => s.withdraw g fb.fid w
  | _, _ => s

/-- The boundary of one member after its run (R129, R131, R135, R353). -/
def State.endMember (s : State) (r : Run) (named : List Nat) (fid : Nat) : State :=
  match s.group? r.grp with
  | none => s
  | some g =>
    let fb := g.fibre fid
    let s := s.abandonWait g fb
    let s := s.modFibre r.grp fid fun fb => (fb.endResults named).endRun r.after s.tick (maskOf r.fids)
    if g.exit.isSome then s.endFibre r.grp fid 0
    else
      match fb.after.fend with
      | some v => s.endFibre r.grp fid v
      | none => s.depart r.grp fid

/-- What the picker keeps of the bundle whose run has ended (R123, R125). -/
def State.lastOf (s : State) (r : Run) : Option LastRun :=
  match s.group? r.grp with
  | none => none
  | some g =>
    match (r.fids.map g.fibre).filter (·.st != .free) with
    | [] => none
    | fb :: _ =>
      some
        { grp := r.grp, team := fb.fid / 32, pc := fb.pc, fids := r.fids
          sticky := !g.pol.promise && r.yielded.isNone
          setBack := r.yielded.isSome, prefer := r.yielded == some 1, since := s.tick }

/-- The end of a run for the bundle that issued it; after an MCALL the microprogram's run starts (R64, R79, R406). -/
def State.endRun (s : State) (r : Run) (named : List Nat) : State :=
  let lead := s.lead r
  match lead.after.mcall with
  | some (slot, base) =>
    let s := s.modFibres r.grp r.fids fun fb =>
      { fb.endResults named with
        after := { fb.after with mcall := none, escal := none }
        owed := if fb.after.escal.isSome then fb.after.escal else fb.owed
        mc := some (slot, base)
        exempt := false
        ctx := { (fb.endResults named).ctx with lat := {} } }
    let s := s.modCore s.cur fun c =>
      { c with
        run := some { grp := r.grp, fids := r.fids, start := r.pkt, pkt := r.pkt, mc := some (slot, base) } }
    s.traceStart s.cur (((s.group? r.grp).map (·.vf)).getD 0) r.grp r.fids r.pkt
  | none =>
    let code := ((s.members r).filterMap (·.after.gend)).head?
    let s := r.fids.foldl (fun s f => s.endMember r named f) s
    let s := match code with
      | some v => s.finishGroup r.grp 0 v
      | none => s
    let last := s.lastOf r
    (s.modCore s.cur fun c => { c with run := none, last := last }).refreshPolicy r.grp

/-- The registers that a TRAIL names, mapped inside a microprogram (R65, R80). -/
def trailRegs (f : F3) (mp : Option Nat) : List Nat :=
  ([f.d, f.a, f.b].take f.x.toNat).map fun c => mapReg mp c.toNat

/-- TRAIL ends the run (R65 to R67). It takes no issue cycle of its own; chained to the words before it, it ends
their chain group, whose cycle it uses (R55, R57). -/
def execTrail (f : F3) (s : State) : Host.Outcome State Fault Refusal :=
  match s.run? with
  | none => .next s
  | some r =>
    match s.illegal r (.trail f) with
    | .fault t => .next (s.raise s.cur r t)
    | _ =>
      let s := if r.chained then s.modCore s.cur fun c => { c with issueAt := some s.tick } else s
      .next (s.endRun r (trailRegs f (r.mc.map (·.2))))

/-! ## TRAP, SYSC and ERET -/

/-- TRAP: a trap of kind 3 after the run (R348). -/
def execTrap (f : FK) (s : State) : Host.Outcome State Fault Refusal :=
  s.issue (.trap f) f.c noCheck fun s r =>
    s.modFibres r.grp r.fids fun fb => { fb with after := { fb.after with trap := some f.k.toNat } }

/-- SYSC: a request to the supervisor after the run (R349). -/
def execSysc (f : FK) (s : State) : Host.Outcome State Fault Refusal :=
  s.issue (.sysc f) f.c noCheck fun s r =>
    s.eachMember r fun e fb =>
      { fb with after := { fb.after with sysc := some (f.k.toNat, mapReg e.mp f.d.toNat) } }

/-- ERET's checks: a packet address as its target, and a handler to end (R350, R83). -/
def eretCheck (f : F3) (s : State) (r : Run) : Check :=
  let t := if f.x.getLsbD 0 then targetCheck f s r else .ok
  match t with
  | .ok =>
    let bad := (s.members r).filter fun fb => !fb.ctx.inhandler
    if bad.isEmpty then .ok else .fault { kind := 7, cause := 7, failing := maskOf (bad.map (·.fid)) }
  | c => c

/-- ERET (R350). -/
def execEret (f : F3) (s : State) : Host.Outcome State Fault Refusal :=
  s.issue (.eret f) f.c (eretCheck f) fun s r =>
    s.eachMember r fun e fb =>
      { fb with
        npc := some (if f.x.getLsbD 0 then e.op64 fb f.a else fb.ctx.epc)
        after := { fb.after with eret := some (f.x.getLsbD 1, f.x.getLsbD 0) } }

end Sys2Proof.Machine
end

