-- ==== Sys2Proof/Machine/Fetch.lean ====
section
/-!
DEFINITION. Instruction fetch (R54, R334, R338) and what the core reads of a run before it issues it
(R68): the words up to the TRAIL.
-/

namespace Sys2Proof.Machine

/-! ## One word -/

/-- What a fetch of one word gives. -/
inductive Fetched where
  | word (w : Word)
  | miss
  /-- The line's home is being reset, and the fetch retries (R373). -/
  | held
  | trap (t : Trap)
  | violation
  deriving DecidableEq, Repr

/-- A byte as a core's fetch reads it: from its own fetched copy, else as its caches and the home hold
it (R334). -/
def State.fetchByte (s : State) (core pa : Nat) : Byte :=
  match s.fetched.find? fun c => c.core == core && c.line == pa / 256 with
  | some c => c.data.extractLsb' (8 * (pa % 256)) 8
  | none => s.peekByte core pa

/-- Four bytes as an instruction word (R5, R44). -/
def State.fetchBytes (s : State) (core pa : Nat) : Word :=
  s.fetchByte core (pa + 3) ++ s.fetchByte core (pa + 2) ++ s.fetchByte core (pa + 1) ++ s.fetchByte core pa

/-- The word at a virtual address as a core fetches it for a group (R218, R335 to R338). -/
def State.fetchWord (s : State) (g : Group) (core : Nat) (va : DWord) : Fetched :=
  if 2 ^ 60 ≤ va.toNat then .trap { kind := 9, cause := 2, fva := va }
  else
    match s.translate (some core) (stackOf core) g.part g.vf va.toNat .fetch with
    | .ok pa _ past =>
      if past then .trap { kind := 9, cause := 6, fva := va }
      else if s.homeUp pa || s.fetched.any fun c => c.core == core && c.line == pa / 256 then .word (s.fetchBytes core pa)
      else .held
    | .miss => .miss
    | .fault c => .trap { kind := 10, cause := c, fva := va }
    | .violation => .violation

/-- Word k of the packet at an address. -/
def packetWord (pkt : DWord) (k : Nat) : DWord := pkt + BitVec.ofNat 64 (4 * k)

/-- Word number n of a run whose next packet stands at an address: of the packets from there on, or of a
microprogram slot from its first word (R80). -/
def State.runWord (s : State) (g : Group) (core : Nat) (pkt : DWord) (mc : Option (Nat × Nat)) (n : Nat) : Fetched :=
  match mc with
  | some (slot, _) => .word (((s.slotWords g.part slot).getD [])[n]?.getD 0)
  | none =>
    if n % 3 = 0 && (pkt.toNat + 4 * n) % packetBytes ≠ 0 then .trap { kind := 8, cause := 6 }
    else s.fetchWord g core (packetWord pkt n)

/-- Lines that a core's instruction cache holds (R1). -/
def fetchLines : Nat := 512

/-- A fetched line kept; a full cache gives up one, which a free value says (log entry 121). -/
def State.holdFetched (s : State) (c : FetchCopy) : State :=
  let mine := s.fetched.filter (·.core == c.core)
  if mine.length < fetchLines then { s with fetched := s.fetched ++ [c] }
  else
    let d := s.draw
    let gone := mine[d.1.toNat % mine.length]?
    { d.2 with fetched := (s.fetched.filter fun k => some k != gone) ++ [c] }

/-- The line that a word lies in, taken into a core's fetched copies; a page of host bias is cached no nearer than
its home (R332). The soft errors that the fill meets are corrected, or reported (R241, log entry 135). -/
def State.keepFetched (s : State) (g : Group) (core : Nat) (va : DWord) : State :=
  match s.translate (some core) (stackOf core) g.part g.vf va.toNat .fetch with
  | .ok pa e _ =>
    let line := pa / 256
    if pteHost e || s.fetched.any fun c => c.core == core && c.line == line then s
    else
      let s := (List.range 4).foldl (init := s) fun s k =>
        if s.servedNear core (line * 256 + 64 * k) 64 then s
        else s.meetErrors g.part (pteProt e) (line * 256 + 64 * k) 64
      let data := (List.range 256).foldl (fun d i => patch d i 1 (s.peekByte core (line * 256 + i)).toNat) 0
      s.holdFetched { core := core, line := line, data := data }
  | _ => s

/-! ## The run ahead -/

/-- The words of a run up to and including its TRAIL, and what stopped the reading before it. -/
structure Scan where
  words : List Word
  stop : Option Fetched
  deriving DecidableEq, Repr

/-- Whether a word is a TRAIL, whatever its fields. -/
def isTrail (w : Word) : Bool := (w.extractLsb' 24 7).toNat = 0x01

/-- At most n further words of a run from word k on. -/
def scanFrom (fetch : Nat → Fetched) : Nat → Nat → Scan
  | 0, _ => { words := [], stop := none }
  | n + 1, k =>
    match fetch k with
    | .word w =>
      if isTrail w then { words := [w], stop := none }
      else
        let t := scanFrom fetch n (k + 1)
        { t with words := w :: t.words }
    | f => { words := [], stop := some f }

/-- Words that a run may hold (R62, R80). -/
def State.runLimit (s : State) (g : Group) (mc : Option (Nat × Nat)) : Nat :=
  match mc with
  | some (slot, _) => min 32 ((s.slotWords g.part slot).getD []).length
  | none => 24

/-- The run ahead of a fibre of a group on a core (R68). -/
def State.scan (s : State) (g : Group) (core : Nat) (pkt : DWord) (mc : Option (Nat × Nat)) : Scan :=
  scanFrom (s.runWord g core pkt mc) (s.runLimit g mc) 0

/-- The registers that a run's words read or write (R68). -/
def Scan.touches (sc : Scan) (mp : Option Nat) : List Nat :=
  sc.words.flatMap fun w => (((decodeFields w).bind Instr.shape).map (·.touches mp)).getD []

/-- The registers that its TRAIL names (R65). -/
def Scan.named (sc : Scan) (mp : Option Nat) : List Nat :=
  match (sc.words.getLast?).bind decodeFields with
  | some (.trail f) => trailRegs f mp
  | _ => []

/-- The slots that its MCALL calls (R81). -/
def Scan.calls (sc : Scan) : List Nat :=
  sc.words.filterMap fun w => match decodeFields w with
    | some (.mcall f) => some f.k.toNat
    | _ => none

/-- Whether a fibre's scoreboard holds one of some registers (R68). -/
def Fibre.blocked (fb : Fibre) (regs : List Nat) : Bool :=
  fb.board.any fun p => (List.range p.n).any fun k => regs.contains (p.reg + k)

/-- The registers of a poison mask among some registers (R69). -/
def Fibre.poisoned (fb : Fibre) (regs : List Nat) : List Nat := regs.filter fun r => r < 64 && fb.poison.getLsbD r

/-! ## The packet of a run -/

/-- The number of a run's next word within what runWord reads: in the packet, or in the slot (R80). -/
def Run.wordAt (r : Run) (k : Nat) : Nat := if r.mc.isSome then r.idx / 3 * 3 + k else k

/-- The three words of the packet that a run stands in, those after its TRAIL too (R54, R58), or what stops their
fetch. -/
def State.packetFrom (s : State) (g : Group) (r : Run) : Nat → Nat → Except Fetched (List Word)
  | 0, _ => .ok []
  | n + 1, k =>
    match s.runWord g s.cur r.pkt r.mc (r.wordAt k) with
    | .word w => (s.packetFrom g r n (k + 1)).map (w :: ·)
    | f => .error f

def State.packet (s : State) (g : Group) (r : Run) : Except Fetched (List Word) := s.packetFrom g r 3 0

/-- Whether a word's C bit is set (R44). -/
def isChained (w : Word) : Bool := w.getLsbD 31

/-- The chain group that starts with the first word of a list (R55). -/
def chainGroup : List Word → List Word
  | [] => []
  | w :: ws => if isChained w then w :: chainGroup ws else [w]

end Sys2Proof.Machine
end

