-- ==== Sys2Proof/Machine/Picker.lean ====
section
/-!
DEFINITION. Bundles and the issue policy (R120 to R125): BUNDLE_PICK.
-/

namespace Sys2Proof.Machine

/-! ## What may be picked -/

/-- A bundle that could issue (R121). -/
structure Bundle where
  grp : Nat
  team : Nat
  pc : DWord
  mc : Option (Nat × Nat)
  fids : List Nat
  prio : Nat
  /-- Whether its region has the promise on and it holds a fibre of age F (R122 step 2). -/
  overdue : Bool
  /-- The tick at which its oldest fibre became ready. -/
  rdy : Nat
  slot : Nat
  deriving DecidableEq, Repr

/-- A fibre that stands ready at a run of its own: nothing of R345, R349, R351 or R353 comes first. -/
def Fibre.atRun (fb : Fibre) : Bool :=
  fb.st == .ready && fb.held.isNone && fb.entry.isNone && fb.sysc.isNone &&
    (fb.misses.isEmpty || fb.ctx.inhandler) &&
    (match fb.place with | .transit _ _ _ => false | _ => true)

/-- Whether a fibre is landed, so that it forms bundles with itself alone (R121). -/
def Fibre.landed (fb : Fibre) : Bool :=
  match fb.place with
  | .landed _ => true
  | _ => false

/-- The fibres of a group that stand at a run on a core. -/
def Group.readyOn (g : Group) (core : Nat) : List Fibre := g.fibres.filter fun fb => fb.atRun && fb.onCore g == core

/-- Whether a group issues: it is placed, has not ended and no freeze holds it (R354, R368, R412). -/
def State.groupRuns (s : State) (g : Group) : Bool :=
  g.st == .placed && g.exit.isNone && !g.frozen && !s.stopped g.part

/-- Whether the arithmetic clock of a partition has a cycle on this tick (R384). -/
def State.edge (s : State) (p : Nat) : Bool :=
  match s.part? p with
  | some q => q.phase < q.clock
  | none => true

/-- Whether lossless trace holds a core's issue (R407). -/
def State.traceFull (s : State) (core : Nat) : Bool :=
  let t := (s.core core).trace
  t.cfg.on && t.cfg.lossless && 256 ≤ t.buf.length

/-- Whether a fibre's run waits for the scrub of a frame it must write (R370). -/
def State.scrubHolds (s : State) (fb : Fibre) : Bool := fb.frames.any s.scrubbing.contains

/-- The bundle that a fibre at a run belongs to; none when the run is not fetched, calls a slot under replacement (R68,
R81), or is held by a scrub (R370). -/
def State.bundleOf (s : State) (g : Group) (core : Nat) (fb : Fibre) : Option Bundle :=
  let sc := s.scan g core fb.pc fb.mc
  if sc.stop == some .miss || sc.stop == some .held || sc.calls.any (s.replacing g.part) || s.scrubHolds fb then none
  else
    let touched := sc.touches (fb.mc.map (·.2))
    let mine := (g.readyOn core).filter fun o =>
      (if fb.landed then o.fid == fb.fid else !o.landed && o.fid / 32 == fb.fid / 32) && o.pc == fb.pc &&
        o.mc == fb.mc && !o.blocked touched && !s.scrubHolds o
    match mine.map (·.rdy.toNat) with
    | [] => none
    | x :: xs =>
      let oldest := xs.foldl min x
      some
        { grp := g.gid, team := fb.fid / 32, pc := fb.pc, mc := fb.mc, fids := mine.map (·.fid), prio := g.pol.prio
          overdue := g.pol.promise && oldest + g.pol.fair ≤ s.tick.toNat
          rdy := oldest, slot := s.slotOf g.gid core }

/-- Every bundle of a core that could issue. -/
def State.bundles (s : State) (core : Nat) : List Bundle :=
  s.groups.flatMap fun g =>
    if s.groupRuns g then ((g.readyOn core).filterMap (s.bundleOf g core)).dedup else []

/-- The addresses that the fetch of ready runs on a core has no translation for. -/
def State.fetchMisses (s : State) (core : Nat) : List (Group × Nat × DWord) :=
  s.groups.flatMap fun g =>
    if s.groupRuns g then
      (g.readyOn core).filterMap fun fb =>
        let sc := s.scan g core fb.pc fb.mc
        if sc.stop == some .miss then some (g, fb.fid, packetWord fb.pc sc.words.length) else none
    else []

/-! ## The choice -/

/-- Lexicographic order of keys. -/
def lexLess : List Nat → List Nat → Bool
  | [], _ => false
  | _ :: _, [] => false
  | a :: as, b :: bs => a < b || (a == b && lexLess as bs)

/-- The item of a list with the least key. -/
def least {α : Type} (key : α → List Nat) : List α → Option α
  | [] => none
  | x :: xs =>
    match least key xs with
    | none => some x
    | some y => if lexLess (key y) (key x) then some y else some x

/-- Oldest first; then lowest team, program counter and group slot (R122 steps 4 and 5). -/
def Bundle.key (b : Bundle) : List Nat := [b.rdy, b.team, b.pc.toNat, b.slot, b.fids.headD 0]

/-- The bundle that stays sticky (R123): the fibres of the last run that have entered a handler after it (R422), else
those that stand together where its lowest live member stands; none when a wait of the run has not ended. -/
def State.sticky (s : State) (core : Nat) : Option LastRun :=
  match (s.core core).last with
  | none => none
  | some l =>
    match s.group? l.grp with
    | none => none
    | some g =>
      let live (fids : List Nat) : List Fibre := (fids.map g.fibre).filter (·.st != .free)
      if !l.sticky || !s.groupRuns g || (live l.fids).any (·.wait.isSome) then none
      else
        match live l.entered, live l.fids with
        | fb :: rest, _ => some { l with pc := l.hpc, fids := (fb :: rest).map (·.fid) }
        | [], fb :: _ => some { l with pc := fb.pc }
        | [], [] => none

/-- Whether a bundle is made of fibres of the sticky run at its packet, and which of them. -/
def LastRun.narrow (l : LastRun) (b : Bundle) : Option Bundle :=
  let mine := b.fids.filter l.fids.contains
  if b.grp = l.grp && b.pc = l.pc && !mine.isEmpty then some { b with fids := mine } else none

/-- Whether a bundle stands where the last run left its fibres: after it, or at the handler they have entered
(R422). -/
def LastRun.stands (l : LastRun) (b : Bundle) : Bool :=
  b.grp = l.grp && b.team = l.team && ((!l.fids.isEmpty && b.pc == l.pc) || (!l.entered.isEmpty && b.pc == l.hpc))

/-- Whether YIELD has set a bundle back for this pick (R125). -/
def LastRun.holdsBack (l : LastRun) (b : Bundle) : Bool := l.setBack && l.stands b

/-- Steps 3 to 5 of R122 without a sticky bundle, YIELD's preference first (R125). -/
def pickOldest (last : Option LastRun) (l : List Bundle) : Option Bundle :=
  let other := l.filter fun b => last.any fun k => k.prefer && b.grp == k.grp && b.team == k.team && !k.stands b
  let ahead := l.filter fun b => !(last.any (·.holdsBack b))
  least Bundle.key (if !other.isEmpty then other else if !ahead.isEmpty then ahead else l)

/-- Whether a sticky bundle that is not ready still keeps the pick: within the bound of R99 after its run (R123). -/
def LastRun.keepsPick (l : LastRun) (now : DWord) : Bool := now.toNat ≤ l.since.toNat + 16

/-- The next bundle of a core (R122, R123). -/
def State.choose (s : State) (core : Nat) : Option Bundle :=
  let all := s.bundles core
  let top := (all.map (·.prio)).foldl max 0
  let kept := all.filter (·.prio == top)
  match least Bundle.key (kept.filter (·.overdue)) with
  | some b => some b
  | none =>
    match s.sticky core with
    | none => pickOldest (s.core core).last kept
    | some l =>
      match kept.filterMap l.narrow with
      | b :: _ => some b
      | [] =>
        let own := ((s.group? l.grp).map (·.pol.prio)).getD 0
        if own < top || !l.keepsPick s.tick then pickOldest (s.core core).last kept else none

/-- Whether a core picks on this tick: it stands between runs and nothing holds its issue. -/
def State.mayPick (s : State) (core : Nat) : Bool := (s.core core).run.isNone && !s.traceFull core

/-- A run started by the bundle that was picked (R61, R64, R120), with its trace record (R406). -/
def State.startRun (s : State) (core : Nat) (b : Bundle) : State :=
  match s.group? b.grp with
  | none => s
  | some g =>
    let s := if b.mc.isSome then s
      else (List.range (s.scan g core b.pc b.mc).words.length).foldl
        (fun s k => s.keepFetched g core (packetWord b.pc k)) (s.fillTlb core g.vf (pageOf b.pc.toNat))
    let s := s.modFibres b.grp b.fids fun fb =>
      { fb with st := .issuing, frames := [], ctx := { fb.ctx with lat := {} } }
    let s := s.modCore core fun c =>
      { c with
        run := some { grp := b.grp, fids := b.fids, start := b.pc, pkt := b.pc, mc := b.mc }
        last := none }
    s.traceStart core g.vf b.grp b.fids b.pc

/-- BUNDLE_PICK (R122). -/
def execBundlePick (core : Nat) (s : State) : Host.Outcome State Fault Refusal :=
  if !s.mayPick core then .next s
  else
    let t := (s.fetchMisses core).foldl
      (fun s q => s.askWalk (stackOf core) q.1.part q.1.vf q.2.2.toNat false (.fibre q.1.gid q.2.1)) s
    match s.choose core with
    | some b => if s.edge (((s.group? b.grp).map (·.part)).getD 0) then .next (t.startRun core b) else .next t
    | none => .next t

end Sys2Proof.Machine
end

