-- ==== Sys2Proof/Machine/Queues.lean ====
section
/-!
DEFINITION. Graph queues (R132): the descriptor, QEMIT and QRECV (R133).
-/

namespace Sys2Proof.Machine

/-- A queue descriptor (R132). -/
structure QueueDesc where
  ring : Nat
  succ : Nat
  persistent : Bool
  closed : Bool
  rbytes : Nat
  cap : Nat
  ccount : Nat
  cdl : Nat
  tail : Nat
  head : Nat
  deriving DecidableEq, Repr

/-- A descriptor from its 64 bytes as a number. -/
def QueueDesc.ofNat (v : Nat) : QueueDesc :=
  { ring := bits v 0 64, succ := bits v 64 64, persistent := v.testBit 176, closed := v.testBit 177
    rbytes := bits v 184 8, cap := bits v 192 16, ccount := bits v 208 16, cdl := bits v 224 32
    tail := bits v 256 64, head := bits v 320 64 }

/-- The registered queue of a virtual function at a descriptor address. -/
def State.graphQueue? (s : State) (vf : Nat) (desc : DWord) : Option GraphQueue :=
  (s.vf? vf).bind fun v => v.graphs.find? (·.desc == desc)

/-- A registered queue changed. -/
def State.modQueue (s : State) (vf : Nat) (desc : DWord) (u : GraphQueue → GraphQueue) : State :=
  s.modVf vf fun v => { v with graphs := change (·.desc == desc) u v.graphs }

/-- The descriptor read at scope D; none when it does not translate. -/
def State.readDesc (s : State) (part vf : Nat) (desc : DWord) : Option QueueDesc × State :=
  let r := s.virtRead part vf desc.toNat 64
  (r.1.map QueueDesc.ofNat, r.2)

/-- Registers of a record (R132). -/
def QueueDesc.regs (d : QueueDesc) : Nat := min (d.rbytes / 4) 16

/-- Registers that a record of the queue at a descriptor fills, 1 while the descriptor cannot be read (R132, R133). -/
def State.recordRegs (s : State) (g : Group) (desc : DWord) : Nat :=
  match s.graphQueue? g.vf desc, (s.readDesc g.part g.vf desc).1 with
  | some _, some d => d.regs
  | _, _ => 1

/-- The address of record n (R132). -/
def QueueDesc.record (d : QueueDesc) (n : Nat) : Nat := d.ring + 64 * (n % d.cap)

/-- The registers that a wait has captured, as a number. -/
def wordsNat : List Word → Nat
  | [] => 0
  | w :: ws => w.toNat + 2 ^ 32 * wordsNat ws

/-- The outcomes that QEMIT and QRECV share; none goes on with the queue and its descriptor (R133). No condition holds
for a queue that is not registered or for registers past the window (log entry 36). -/
def queueRefused (s : State) (g : Group) (w : Wait) (d : Option QueueDesc) : Option Ev :=
  match s.graphQueue? g.vf w.a, d with
  | none, _ => some (.imm false .noslot 1 s noResult)
  | some _, none => some .wait
  | some _, some d =>
    if g.kern.window < w.bound + d.regs then some (.imm false .noslot 2 s noResult) else none

/-- Whether a queue takes no more records. -/
def State.queueClosed (s : State) (g : Group) (w : Wait) (d : QueueDesc) : Bool :=
  d.closed || ((s.graphQueue? g.vf w.a).any (·.closed))

/-- QEMIT's outcomes (R133). -/
def qemitEval (s : State) (g : Group) (fb : Fibre) (w : Wait) : Ev :=
  let r := s.readDesc g.part g.vf w.a
  match queueRefused r.2 g w r.1, r.1 with
  | some e, _ => e
  | none, none => .wait
  | none, some d =>
    let s := r.2
    if s.queueClosed g w d then .imm true .closed 0 s noResult
    else if d.cap ≤ d.tail - d.head then .wait
    else
      let s := s.release (fb.onCore g) 4
      let words := ((w.data.head?).map (·.2)).getD []
      match s.virtWrite g.part g.vf (d.record d.tail) (4 * d.regs) (wordsNat words) with
      | (none, _) => .wait
      | (some s, _) =>
        match s.virtWrite g.part g.vf (w.a.toNat + 32) 8 (d.tail + 1) with
        | (none, _) => .wait
        | (some s, _) =>
          let s := s.modQueue g.vf w.a fun q => { q with appended := sset 0 q.appended d.tail s.tick }
          .ok 0 s fun f => if f = fb.fid then (1, d.tail) else (0, 0)

/-- QRECV's outcomes (R133): a record there is taken first, whatever the queue (R98). -/
def qrecvEval (s : State) (g : Group) (fb : Fibre) (w : Wait) : Ev :=
  let r := s.readDesc g.part g.vf w.a
  match queueRefused r.2 g w r.1, r.1 with
  | some e, _ => e
  | none, none => .wait
  | none, some d =>
    let s := r.2
    if d.tail = d.head then
      if !d.persistent then .imm false .noslot 3 s noResult
      else if s.queueClosed g w d then .imm false .closed 0 s noResult
      else .wait
    else
      match s.virtRead g.part g.vf (d.record d.head) (4 * d.regs) with
      | (none, _) => .wait
      | (some v, s) =>
        match s.virtWrite g.part g.vf (w.a.toNat + 40) 8 (d.head + 1) with
        | (none, _) => .wait
        | (some s, _) =>
          let s := s.modQueue g.vf w.a fun q => { q with appended := sset 0 q.appended d.head 0 }
          .ok 0 (s.acquire (fb.onCore g) 4) fun f => if f = fb.fid then (d.regs, v) else (0, 0)

/-- QEMIT and QRECV as waits. -/
def qemitKind : WaitKind := { cls := 7, pipe := .X, eval := qemitEval }
def qrecvKind : WaitKind := { cls := 7, pipe := .X, eval := qrecvEval }

/-- QEMIT (R133): the registers from B are read at issue. -/
def execQemit (f : F3) (s : State) : Host.Outcome State Fault Refusal :=
  s.issue (.qemit f) f.c noCheck fun s r =>
    s.startEach r qemitKind
      (fun e fb =>
        { e.mkWait r (.qemit f) fb f.x (e.op64 fb f.a) 0 0 with
          bound := mapReg e.mp f.b.toNat
          data := [(0, (List.range 16).map (e.regAt fb f.b))] })
      noPlace

/-- QRECV (R133). -/
def execQrecv (f : F3) (s : State) : Host.Outcome State Fault Refusal :=
  s.issue (.qrecv f) f.c noCheck fun s r =>
    s.startEach r qrecvKind
      (fun e fb => { e.mkWait r (.qrecv f) fb f.x (e.op64 fb f.a) 0 0 with bound := mapReg e.mp f.d.toNat })
      noPlace

end Sys2Proof.Machine
end

