-- ==== Sys2Proof/Machine/Scratch.lean ====
section
/-!
DEFINITION. The scratchpad words and barrier words: LDS, STS, LDSC, FEMK, BINIT, BARV, BWAIT and BAW
(R251 to R265).
-/

namespace Sys2Proof.Machine

/-- The scratchpad check of a word over the members it uses (R252). -/
def State.padCheck (s : State) (r : Run) (fbs : List Fibre) (addr : Fibre → Word)
    (causes : Group → Fibre → List Nat) : Check :=
  match s.group? r.grp with
  | none => .ok
  | some g =>
    match padFault (fbs.map fun fb => (fb.fid, addr fb, causes g fb)) with
    | some t => .fault t
    | none => .ok

/-- Causes of a data word of n bytes (R252); barrier tells that it may not touch the barrier area. -/
def dataCauses (g : Group) (fb : Fibre) (a : Word) (n : Nat) (barrier : Bool) : List Nat :=
  padCauses g fb a n ++ (if a.toNat % n ≠ 0 then [3] else []) ++
    (if barrier && g.inBarriers a.toNat n then [4] else [])

/-- Causes of a barrier word (R252): alignment is never its own cause. -/
def barrierCauses (g : Group) (fb : Fibre) (a : Word) : List Nat :=
  padCauses g fb a 32 ++ (if g.isBarrier a.toNat then [] else [4])

/-! ## LDS and LDSC -/

/-- The size code of a control word (R254). -/
def padSize (b : Word) : BitVec 3 := b.extractLsb' 0 3

/-- Causes of a control word: reserved bits, size 7, and the plain bit of LDSC (R252, R254). -/
def controlCauses (b : Word) (consume : Bool) : List Nat :=
  if b.extractLsb' 4 28 ≠ 0 || padSize b = 7 || (consume && b.getLsbD 3) then [5] else []

/-- The members whose D register does not suit the size their own B names, and the causes (R254). -/
def sizeMisfits (e : Env) (f : F3) (fbs : List Fibre) : List (Nat × Nat) :=
  if 64 ≤ f.d.toNat then []
  else fbs.flatMap fun fb =>
    let n := ldRegs (padSize (e.op32 fb f.b))
    (regCauses e.mp e.window n n f.d.toNat).map fun c => (fb.fid, c)

/-- The checks of LDS and LDSC at issue: D against the sizes, then the addresses. -/
def ldsCheck (f : F3) (consume : Bool) (s : State) (r : Run) : Check :=
  let e := s.env r
  let bad := sizeMisfits e f (s.members r)
  match lowest (bad.map (·.2)) with
  | some c => .fault { kind := 7, cause := c, failing := maskOf (bad.map (·.1)) }
  | none =>
    s.padCheck r (s.members r) (fun fb => e.op32 fb f.a) fun g fb =>
      let b := e.op32 fb f.b
      dataCauses g fb (e.op32 fb f.a) (ldSize (padSize b)) consume ++ controlCauses b consume

/-- Cond, result and immediate outcome of LDS and LDSC (R255). -/
def ldsEval (consume : Bool) (s : State) (g : Group) (fb : Fibre) (w : Wait) : Ev :=
  let pa := g.padAddr w.a.toNat
  let b := w.b.setWidth 32
  let n := ldSize (padSize b)
  if !(b.getLsbD 3 && !consume) && !s.isFull pa then .wait
  else if s.padBroken pa n then
    .imm false .faulted 2 (s.reportBadAt g.part pa) noResult
  else
    let s := s.padCorrect pa n
    let v := ldExtend (padSize b) (mle s.mem pa n)
    let s := if s.isFull pa then s.acquireFired (fb.onCore g) (firedLine pa) else s
    let s := if consume then (s.setFull pa false).unfire (firedLine pa) else s
    .ok 0 s fun f => if f = fb.fid then (ldRegs (padSize b), v) else (0, 0)

/-- LDS and LDSC as waits (R255). -/
def ldsKind (consume : Bool) : WaitKind := { cls := 3, pipe := .M, eval := ldsEval consume }

/-- The operands of a scratchpad wait: the 32-bit address and the 32-bit second operand. -/
def padWait (r : Run) (i : Instr) (f : F3) (e : Env) (fb : Fibre) : Wait :=
  e.mkWait r i fb f.x ((e.op32 fb f.a).setWidth 64) ((e.op32 fb f.b).setWidth 64) 0

/-- LDS (R255): the columns read in ascending fid once the tick's stores are done (R257), so its wait is tested
with the others of the tick. -/
def execLds (f : F3) (s : State) : Host.Outcome State Fault Refusal :=
  s.issue (.lds f) f.c (ldsCheck f false) fun s r => s.placeEach r (padWait r (.lds f) f)

/-- LDSC (R255), tested as LDS is. -/
def execLdsc (f : F3) (s : State) : Host.Outcome State Fault Refusal :=
  s.issue (.ldsc f) f.c (ldsCheck f true) fun s r => s.placeEach r (padWait r (.ldsc f) f)

/-! ## STS and FEMK -/

/-- The bytes and the fill of one STS (R253, R257). -/
def State.padStore (s : State) (pa n v : Nat) (fill : Bool) : State :=
  let s := s.padWrite pa n v
  if fill then s.setFull pa true else s

/-- STS (R253). -/
def execSts (f : F3) (s : State) : Host.Outcome State Fault Refusal :=
  s.issue (.sts f) f.c
    (fun s r =>
      let e := s.env r
      s.padCheck r (s.members r) (fun fb => e.op32 fb f.a) fun g fb =>
        dataCauses g fb (e.op32 fb f.a) (stSize f.x) true ++
          (if (e.op32 fb f.b).extractLsb' 1 31 ≠ 0 then [5] else []))
    fun s r =>
      match s.group? r.grp with
      | none => s
      | some g =>
        let e := s.env r
        (s.members r).foldl (init := s) fun s fb =>
          s.padStore (g.padAddr (e.op32 fb f.a).toNat) (stSize f.x) (e.storeData fb f.d (stRegs f.x))
            ((e.op32 fb f.b).getLsbD 0)

/-- Causes of FEMK (R252): a length of zero touches no barrier. -/
def femkCauses (g : Group) (fb : Fibre) (a n : Word) : List Nat :=
  padCauses g fb a (max n.toNat 1) ++ (if a.toNat % 128 ≠ 0 || n.toNat % 128 ≠ 0 then [3] else []) ++
    (if g.inBarriers a.toNat n.toNat && n ≠ 0 then [4] else [])

/-- FEMK (R256). -/
def execFemk (f : F3) (s : State) : Host.Outcome State Fault Refusal :=
  s.issue (.femk f) f.c
    (fun s r =>
      let e := s.env r
      s.padCheck r (s.members r) (fun fb => e.op32 fb f.a) fun g fb =>
        femkCauses g fb (e.op32 fb f.a) (e.op32 fb f.b))
    fun s r =>
      match s.group? r.grp with
      | none => s
      | some g =>
        let e := s.env r
        (s.members r).foldl (init := s) fun s fb =>
          (List.range ((e.op32 fb f.b).toNat / 128)).foldl (init := s) fun s k =>
            s.setFull (g.padAddr ((e.op32 fb f.a).toNat + 128 * k)) (f.x == 1)

/-! ## Barrier words -/

/-- The address checks of a barrier word of every member. -/
def barCheck (f : F3) (s : State) (r : Run) : Check :=
  let e := s.env r
  s.padCheck r (s.members r) (fun fb => e.op32 fb f.a) fun g fb => barrierCauses g fb (e.op32 fb f.a)

/-- Whether a wait stands at the barrier object of an address. -/
def Wait.onBarrier (w : Wait) (a : Nat) : Bool :=
  ((w.word.extractLsb' 24 7).toNat == 0x76 || (w.word.extractLsb' 24 7).toNat == 0x77) && w.a.toNat == a

/-- Every wait on an object ended with CLOSED and a detail, its arrival discarded (R261, R265). -/
def State.closeBarrier (s : State) (g : Group) (a detail : Nat) : State :=
  let ends : WaitKind := { cls := 2, pipe := .M, eval := fun _ _ _ _ => .wait }
  g.fibres.foldl (init := s) fun s fb =>
    let close (s : State) (w : Option Wait) : State := match w with
      | some w =>
        if w.onBarrier a then s.endWait ends { w with arr := .none } g.gid fb.fid .closed detail (0, 0) else s
      | none => s
    close (close s fb.wait) fb.saved

/-- An object whose bytes cannot be read correctly closes every wait on it with detail 3, and the supervisor is
notified (R265). -/
def barBroken (s : State) (g : Group) (a : Nat) : Option State :=
  if s.padBroken (g.padAddr a) 32 then
    some ((s.reportBadAt g.part (g.padAddr a)).closeBarrier g a 3)
  else none

/-- BWAIT's outcomes (R265). -/
def bwaitEval (s : State) (g : Group) (fb : Fibre) (w : Wait) : Ev :=
  match barBroken s g w.a.toNat with
  | some s' => .imm true .closed 3 s' noResult
  | none =>
    let s := s.padCorrect (g.padAddr w.a.toNat) 32
    let b := readBar s.mem (g.padAddr w.a.toNat)
    if b.flags % 2 = 0 then .imm true .closed 2 s noResult
    else if b.done w.b.toNat then
      .ok 0 (s.acquireFired (fb.onCore g) (firedBar (g.padAddr w.a.toNat))) fun f =>
        if f = fb.fid then (1, b.phase) else (0, 0)
    else .ask s

/-- BWAIT as a wait. -/
def bwaitKind : WaitKind := { cls := 2, pipe := .M, eval := bwaitEval }

/-- BAW's outcomes (R265): bound holds the reason of a refused arrival. -/
def bawEval (s : State) (g : Group) (fb : Fibre) (w : Wait) : Ev :=
  if w.bound = 3 then .imm true .closed 2 s noResult
  else if w.bound ≠ 0 then .imm true .mismatch w.bound s noResult
  else
    match barBroken s g w.a.toNat with
    | some s' => .imm true .closed 3 s' noResult
    | none =>
      let s := s.padCorrect (g.padAddr w.a.toNat) 32
      match w.arr with
      | .barrier _ p _ =>
        if (readBar s.mem (g.padAddr w.a.toNat)).done p then
          .ok 0 (s.acquireFired (fb.onCore g) (firedBar (g.padAddr w.a.toNat))) fun f => if f = fb.fid then (1, p) else (0, 0)
        else .ask s
      | _ => .wait

/-- BAW as a wait. -/
def bawKind : WaitKind := { cls := 2, pipe := .M, eval := bawEval }

/-- BAW's arrival (R262): the fibre's wait keeps what it placed, or the reason of the refusal. None is placed at
an object that cannot be read (R265). -/
def bawPlace (g : Group) (fid : Nat) (w : Wait) (s : State) : State :=
  let pa := g.padAddr w.a.toNat
  let addb := (w.b.extractLsb' 16 16).toNat
  if s.padBroken pa 32 then s
  else
    let s := s.padCorrect pa 32
    match (readBar s.mem pa).arrive fid addb (w.b.extractLsb' 0 16).toNat with
    | .error k => s.modFibre g.gid fid fun fb => { fb with wait := fb.wait.map fun w => { w with bound := k } }
    | .ok (b, p) =>
      (s.putBar pa b).modFibre g.gid fid fun fb =>
        { fb with wait := fb.wait.map fun w => { w with arr := .barrier w.a.toNat p addb } }

/-- BWAIT (R265). -/
def execBwait (f : F3) (s : State) : Host.Outcome State Fault Refusal :=
  s.issue (.bwait f) f.c (barCheck f) fun s r => s.startEach r bwaitKind (padWait r (.bwait f) f) noPlace

/-- BAW (R265). -/
def execBaw (f : F3) (s : State) : Host.Outcome State Fault Refusal :=
  s.issue (.baw f) f.c (barCheck f) fun s r => s.startEach r bawKind (padWait r (.baw f) f) bawPlace

/-- BARV by one member (R264). At an object that cannot be read, which closes its waits (R265), the spec states no
result: a free value (log entry 126). -/
def barvOne (e : Env) (f : F3) (g : Group) (s : State) (fb : Fibre) : State :=
  let a := (e.op32 fb f.a).toNat
  let wd := e.op32 fb f.b
  let answer (s : State) (v : Nat) : State := s.modFibre g.gid fb.fid (·.put32 e .M f.d (BitVec.ofNat 32 v))
  match barBroken s g a with
  | some s' => answer s'.draw.2 s'.draw.1.toNat
  | none =>
    let s := s.padCorrect (g.padAddr a) 32
    match (readBar s.mem (g.padAddr a)).arrive fb.fid (wd.extractLsb' 16 16).toNat (wd.extractLsb' 0 16).toNat with
    | .error k => answer s (2 ^ 31 + k)
    | .ok (b, p) => answer (s.putBar (g.padAddr a) b) p

/-- BARV (R264). -/
def execBarv (f : F3) (s : State) : Host.Outcome State Fault Refusal :=
  s.issue (.barv f) f.c (barCheck f) fun s r =>
    match s.group? r.grp with
    | none => s
    | some g => (s.members r).foldl (barvOne (s.env r) f g) s

/-- BINIT, once for the bundle from its lowest member's operands (R261, R252). -/
def execBinit (f : F3) (s : State) : Host.Outcome State Fault Refusal :=
  s.issue (.binit f) f.c
    (fun s r =>
      let e := s.env r
      s.padCheck r [s.lead r] (fun fb => e.op32 fb f.a) fun g fb =>
        barrierCauses g fb (e.op32 fb f.a) ++ (if (e.op32 fb f.b).extractLsb' 16 16 ≠ 0 then [5] else []))
    fun s r =>
      match s.group? r.grp with
      | none => s
      | some g =>
        let e := s.env r
        let fb := s.lead r
        let a := (e.op32 fb f.a).toNat
        let s := s.closeBarrier g a 1
        (s.unfire (firedBar (g.padAddr a))).putBar (g.padAddr a) (Bar.initial (e.op32 fb f.b).toNat (e.regAt fb f.d 0).toNat).settle

end Sys2Proof.Machine
end

