-- ==== Sys2Proof/Machine/Sync.lean ====
section
/-!
DEFINITION. The atomic words (R303 to R309), and the waits of global memory and time: LDWT (R224),
FENCE (R310 to R313) and SLEEP (R109).
-/

namespace Sys2Proof.Machine

/-! ## Atomics -/

/-- The new value of ATOM and REDM (R304). -/
def atomOp (z : BitVec 3) (old v : Word) : Word :=
  match z.toNat with
  | 0 => old + v
  | 1 => old &&& v
  | 2 => old ||| v
  | 3 => old ^^^ v
  | 4 => if v.slt old then v else old
  | 5 => if old.slt v then v else old
  | 6 => if v.ult old then v else old
  | _ => if old.ult v then v else old

/-- The new value of ATOX and the flags it raises (R305); 64-bit under Z 1 and 2. -/
def atoxOp (z : BitVec 3) (old v : Nat) : Nat × BitVec 5 :=
  match z.toNat with
  | 0 => (v, 0)
  | 1 => (v, 0)
  | 2 => ((old + v) % 2 ^ 64, 0)
  | 3 => (if v ≤ old then 0 else old + 1, 0)
  | 4 => (if old = 0 || v < old then v else old - 1, 0)
  | 5 => f32.finish .rne false (fsum .rne [f32.decode old, f32.decode v])
  | 6 => fminmax f32 false false old v
  | _ => fminmax f32 false true old v

/-- What an atomic asks of the checks (R231, R232, R307, R400). -/
def atomSpec (e : Env) (size : Nat) (dest : Option (BitVec 7)) : AccSpec :=
  { size := size, acc := .rmw, watchRead := dest.isSome, watchWrite := true, locate := dest.isSome
    ecc := true, dest := dest.bind (destReg e) }

/-- One member's indivisible read-modify-write: the old value, whether it met an uncorrectable error,
and the state after (R307). A peer's answer is a free value (log entry 15). -/
def State.rmwReq (s : State) (g : Group) (spec : AccSpec) (q : Req) (f : Nat → Option Nat) : Nat × Bool × State :=
  let t := s.transReq g spec.acc q
  let pa := t.paOf
  let core := s.cur
  let s := s.fillTlb core g.vf (pageOf q.va.toNat)
  if (s.aperture? g.part pa).isSome then
    let d := s.draw
    (d.1.toNat % 256 ^ spec.size, false, { d.2 with peers := d.2.peers.filter fun w => !w.reads g.gid q.fid })
  else
    let s := if spec.locate then s.resolveLine g.part core (pa / 256) (pteHost t.entryOf) else s
    let s := s.modFibre g.gid q.fid (·.wroteBytes pa spec.size)
    let near := s.served .rmw core pa spec.size
    let bad := s.uncorrectable (pteProt t.entryOf) pa spec.size && !near
    let s := if near then s else s.correctRead g.part (pteProt t.entryOf) pa spec.size
    let s := if bad then s.reportBadAt g.part pa else s
    let r := s.rmw core pa spec.size (pteHost t.entryOf) f
    (r.1, bad, r.2)

/-- The atomics of a bundle, ascending by member (R307): op gives the new value, none where nothing is written, and
flags from the old value, dest the n registers that receive the old one. -/
def atomAll (spec : AccSpec) (dest : Option (BitVec 7 × Nat)) (op : Fibre → Nat → Option Nat × BitVec 5) (s : State)
    (r : Run) (g : Group) (l : List Req) : State :=
  let e := s.env r
  l.foldl (init := s) fun s q =>
    let fb := g.fibre q.fid
    let v := s.rmwReq g spec q fun old => (op fb old).1
    match dest with
    | none => v.2.2
    | some d =>
      v.2.2.modFibre r.grp q.fid fun fb' =>
        fb'.putLater e .M d.1 d.2 v.1 (op fb v.1).2 (if v.2.1 then some q.va else none)

/-- An atomic word for the bundle that is issuing. -/
def State.issueAtom (s : State) (i : Instr) (f : F3) (size : Nat) (dest : Option Nat)
    (op : Env → Fibre → Nat → Option Nat × BitVec 5) : Host.Outcome State Fault Refusal :=
  s.issueMem i f.c (fun e => atomSpec e size (dest.map fun _ => f.d)) (fun e fb => [{ fid := fb.fid, va := e.ea fb f }])
    fun s r g l =>
      atomAll (atomSpec (s.env r) size (dest.map fun _ => f.d)) (dest.map fun n => (f.d, n)) (op (s.env r)) s r g l

/-- ATOM (R304). -/
def execAtom (f : F3) (s : State) : Host.Outcome State Fault Refusal :=
  s.issueAtom (.atom f) f 4 (some 1) fun e fb old =>
    (some (atomOp f.x (BitVec.ofNat 32 old) (e.regAt fb f.d 0)).toNat, 0)

/-- Registers and bytes of ATOX (R305). -/
def atoxRegs (z : BitVec 3) : Nat := pairIf (z = 1 || z = 2)

/-- ATOX (R305). -/
def execAtox (f : F3) (s : State) : Host.Outcome State Fault Refusal :=
  s.issueAtom (.atox f) f (4 * atoxRegs f.x) (some (atoxRegs f.x)) fun e fb old =>
    let q := atoxOp f.x old (if atoxRegs f.x = 2 then (e.pairAt fb f.d 0).toNat else (e.regAt fb f.d 0).toNat)
    (some q.1, q.2)

/-- Registers of a CAS value (R306). -/
def casRegs (z : BitVec 3) : Nat := pairIf (z = 1)

/-- CAS: the location is written where it holds the comparand, and only there (R306). -/
def execCas (f : F3) (s : State) : Host.Outcome State Fault Refusal :=
  s.issueAtom (.cas f) f (4 * casRegs f.x) (some (casRegs f.x)) fun e fb old =>
    let n := casRegs f.x
    let val (k : Nat) : Nat := if n = 2 then (e.pairAt fb f.d (2 * k)).toNat else (e.regAt fb f.d k).toNat
    (if old = val 0 then some (val 1) else none, 0)

/-- REDM (R304). -/
def execRedm (f : F3) (s : State) : Host.Outcome State Fault Refusal :=
  s.issueAtom (.redm f) f 4 none fun e fb old =>
    (some (atomOp f.x (BitVec.ofNat 32 old) (e.regAt fb f.d 0)).toNat, 0)

/-! ## LDWT -/

/-- What LDWT's address translates to for the waiting core at this tick (R224, R338). -/
def Wait.target (s : State) (g : Group) (core : Nat) (w : Wait) : Trans :=
  s.translate (some core) (stackOf core) g.part g.vf w.a.toNat .read

/-- The word as a load by the core would read it at this tick (R224). -/
def State.watchWord (s : State) (g : Group) (core pa prot : Nat) (host : Bool) : Word × State :=
  if (s.aperture? g.part pa).isSome then (s.draw.1.setWidth 32, s.draw.2)
  else
    let s := s.refresh core (pa / 256)
    let r := (if s.servedNear core pa 4 then s else s.correctRead g.part prot pa 4).loadBytes core pa 4 host
    (BitVec.ofNat 32 r.1, r.2)

/-- LDWT's outcomes (R224). A test that finds no translation asks for a walk, and one that failed is reported to
the supervisor, as any access's, and joins the page's record, whose end it waits for (R337, R340). -/
def ldwtEval (s : State) (g : Group) (fb : Fibre) (w : Wait) : Ev :=
  let core := fb.onCore g
  let who := Requester.fibre g.gid fb.fid
  if w.bound = 1 then .wait
  else
  match w.target s g core with
  | .miss => .ask (s.askWalk (stackOf core) g.part g.vf w.a.toNat false who)
  | .fault c =>
    .ask ((s.reportFault g.part g.vf (pageOf w.a.toNat) c who).modFibre g.gid fb.fid fun fb =>
      { fb with wait := fb.wait.map fun w => { w with bound := 1 } })
  | .violation => .ask (s.violate g.part who.master)
  | .ok pa e _ =>
    let shut := match s.readers? (pa / 256) with
      | some l => !l.contains core
      | none => false
    if shut then .imm false .faulted 1 s noResult
    else if s.uncorrectable (pteProt e) pa 4 && !(s.refresh core (pa / 256)).servedNear core pa 4 then
      .imm false .faulted 2 (s.reportBadAt g.part pa) noResult
    else
      let r := s.watchWord g core pa (pteProt e) (pteHost e)
      if r.1 = w.b.setWidth 32 then .wait
      else .ok 0 (r.2.acquire core 4) fun f => if f = fb.fid then (1, r.1.toNat) else (0, 0)

/-- The last value read, which D receives when the deadline ends the wait: every value read before an OK
equals the comparand (R224). -/
def ldwtLate (s : State) (_ : Group) (_ : Fibre) (w : Wait) : Nat × Result × State :=
  (0, (1, (w.b.setWidth 32).toNat), s)

/-- LDWT as a wait. -/
def ldwtKind : WaitKind := { cls := 4, pipe := .M, eval := ldwtEval, late := ldwtLate }

/-- LDWT: checked as a 32-bit load at issue, then a wait of each member (R224). -/
def execLdwt (f : F3) (s : State) : Host.Outcome State Fault Refusal :=
  let spec : AccSpec := { size := 4, acc := .read, watchRead := true, locate := true }
  s.issueMem (.ldwt f) f.c (fun _ => spec) (fun e fb => [{ fid := fb.fid, va := e.op64 fb f.a }])
    fun s r g l =>
      let s := l.foldl (init := s) fun s q =>
        let t := s.transReq g .read q
        (s.fillTlb s.cur g.vf (pageOf q.va.toNat)).resolveLine g.part s.cur (t.paOf / 256) (pteHost t.entryOf)
      s.startEach r ldwtKind
        (fun e fb => e.mkWait r (.ldwt f) fb f.x (e.op64 fb f.a) ((e.op32 fb f.b).setWidth 64) 0)
        noPlace

/-! ## FENCE -/

/-- Kind and scope of a fence word (R310). -/
def fenceKind (w : Wait) : Nat := (w.a.extractLsb' 3 2).toNat
def fenceScope (w : Wait) : Nat := (w.a.extractLsb' 0 3).toNat

/-- Whether the release part of a fence has reached a scope (R313): no store to a peer is unanswered, which is
performed at its target alone (R360); and no byte the fibre has written is left to move, or the flush has had the
time it needs for every scope up to it (log entry 10). What other fibres' writes may come before the fence has been
performed at its issue (log entry 123). -/
def fenceReached (s : State) (g : Group) (fb : Fibre) (w : Wait) (scope : Nat) : Bool :=
  let far := s.peers.any fun q => q.store && q.chan.isNone && q.grp == g.gid && (fb.synced || q.fid == fb.fid)
  !far &&
    (s.released (fb.onCore g) scope fb.wrote ||
      ((List.range (scope + 1)).all fun k =>
        k ≤ 2 || w.issued.toNat + Config.flushTicks w.bound k ≤ s.tick.toNat))

/-- The scopes up to the fence's own that its release part has not reached, bit 0 for C (R313). -/
def fenceMask (s : State) (g : Group) (fb : Fibre) (w : Wait) : Nat :=
  if fenceKind w = 1 then 0
  else (List.range (fenceScope w)).foldl (fun m k => if fenceReached s g fb w (k + 1) then m else m + 2 ^ k) 0

/-- What a fence of a kind that has reached a scope has done for a fibre. -/
def fenceDone (s : State) (g : Group) (fb : Fibre) (kind scope : Nat) : State :=
  let core := fb.onCore g
  let s := if kind = 1 then s
    else
      let s := s.release core scope
      if scope < 4 then s else s.releaseFibres g.gid [fb.fid]
  if kind = 2 then s else (s.acquire core scope).syncFibres g.gid [fb.fid]

/-- FENCE's condition (R313). -/
def fenceEval (s : State) (g : Group) (fb : Fibre) (w : Wait) : Ev :=
  if fenceMask s g fb w = 0 then
    .ok 0 (fenceDone s g fb (fenceKind w) (fenceScope w)) fun f => if f = fb.fid then (1, 0) else (0, 0)
  else .wait

/-- A fence that ends on its deadline acts as one of the widest scope it reached (R313). -/
def fenceLate (s : State) (g : Group) (fb : Fibre) (w : Wait) : Nat × Result × State :=
  let u := fenceMask s g fb w
  let widest := ((List.range (fenceScope w)).filter fun k => !u.testBit k).length
  (u, (1, u), fenceDone s g fb (fenceKind w) widest)

/-- FENCE as a wait. -/
def fenceWait : WaitKind := { cls := 5, pipe := .M, eval := fenceEval, late := fenceLate, fence := true }

/-- Other fibres' writes that may come before a member's fence performed at its scope as it issues (R313, R321; log
entry 123). -/
def State.fenceOthers (s : State) (r : Run) (k : Nat) : State :=
  if k / 8 % 4 = 1 then s
  else (s.members r).foldl (fun s fb => if fb.synced then s.releaseOthers s.cur (k % 8) fb.wrote else s) s

/-- FENCE (R313). -/
def execFence (f : F3) (s : State) : Host.Outcome State Fault Refusal :=
  s.issue (.fence f) f.c noCheck fun s r =>
    let s := s.fenceOthers r (BitVec.ofInt 64 (inlineValue f.a)).toNat
    let n := s.serial
    ({ s with serial := n + 1 }).startEach r fenceWait
      (fun e fb =>
        { e.mkWait r (.fence f) fb f.x (BitVec.ofInt 64 (inlineValue f.a)) 0 0 with bound := n })
      noPlace

/-! ## SLEEP -/

/-- SLEEP's condition (R109). -/
def sleepEval (s : State) (g : Group) (fb : Fibre) (w : Wait) : Ev :=
  if passed w.deadline (s.tickAt (fb.onCore g)) fb.rtk then .ok 0 s noResult else .wait

/-- SLEEP as a wait. -/
def sleepKind : WaitKind := { cls := 1, pipe := .A, eval := sleepEval }

/-- SLEEP (R109). -/
def execSleep (f : F3) (s : State) : Host.Outcome State Fault Refusal :=
  s.issue (.sleep f) f.c noCheck fun s r =>
    s.startEach r sleepKind (fun e fb => e.mkWait r (.sleep f) fb f.x 0 0 0) noPlace

end Sys2Proof.Machine
end

