-- ==== Sys2Proof/Machine/Tiers.lean ====
section
/-!
DEFINITION. Vertical FIFOs and power gates: VFPSH, VFPOP and PGATE (R374 to R383).
-/

namespace Sys2Proof.Machine

/-- Entries of a FIFO (R374). -/
def fifoSize : Nat := 16

/-- The incoming FIFO of a core: the outgoing one of its partner. -/
def State.incoming (s : State) (core : Nat) : List FifoEntry := (s.core (partnerOf core)).fifo

/-- The gate of a core as PGATE and PGST number it (R380, R383). -/
def Gate.num : Gate → Nat
  | .opened => 0 | .pending => 1 | .closed => 2

/-- Groups that hold a core: placed there, or ended there and not yet returned (R421). -/
def State.groupsOn (s : State) (core : Nat) : List Group :=
  s.groups.filter fun g => g.core == core && g.st != .descheduled && !g.gone

/-- Whether a descheduled group can resume only on a core (R375, R361). -/
def State.boundTo (s : State) (core : Nat) : Bool :=
  s.groups.any fun g => g.core == core && g.st == .descheduled && (g.pinned || g.undrained)

/-- Whether a fibre is landed on a core. -/
def State.landedOn (s : State) (core : Nat) : Bool :=
  s.groups.any fun g => g.fibres.any fun fb => fb.place == .landed core

/-- The four things that let a pending gate close (R380). -/
def State.quiet (s : State) (core : Nat) : Bool :=
  (s.incoming core).isEmpty && (s.groupsOn core).isEmpty && !s.landedOn core && !s.boundTo core

/-- A gate closes: the L1 empties, its placed lines and dirty bytes moving outward and its instructions dropped,
and the TLB loses its contents (R381). -/
def State.closeGate (s : State) (core : Nat) : State :=
  let lines := (s.copies.filter (·.unit == .l1 core)).map (·.line)
  let s := lines.foldl (fun s l => s.evict (.l1 core) l) s
  ({ s with
    tlb := s.tlb.filter (·.core != some core)
    fetched := s.fetched.filter (·.core != core) }).modCore core fun c => { c with gate := .closed }

/-- A core's incoming entries moved in order to the spill area (R382). -/
def State.spillIncoming (s : State) (core : Nat) : State :=
  let l := s.incoming core
  (s.modCore core fun c => { c with spill := c.spill ++ l }).modCore (partnerOf core) fun c => { c with fifo := [] }

/-- A gate opened: the spilled entries return ahead of any new push (R380, R382). -/
def State.openGate (s : State) (core : Nat) : State :=
  let l := (s.core core).spill
  (s.modCore core fun c => { c with gate := .opened, force := false, spill := [] }).modCore (partnerOf core)
    fun c => { c with fifo := l ++ c.fifo }

/-- The FIFO entries and spill areas of a pair discarded once no group of the partition is placed on, or
pinned to, either core (R375). -/
def State.dropPair (s : State) (core : Nat) : State :=
  let idle (c : Nat) : Bool :=
    (s.groupsOn c).isEmpty && !(s.groups.any fun g => g.core == c && g.st == .descheduled && g.pinned)
  if idle core && idle (partnerOf core) then
    let clear (c : Core) : Core := { c with fifo := [], spill := [] }
    ((s.modCore core clear).modCore (partnerOf core) clear)
  else s

/-! ## VFPSH and VFPOP -/

/-- What VFPSH and VFPOP give where their condition does not hold: a key word with bits above its key is NOSLOT
(R377). -/
def Wait.keyRefused (w : Wait) (s : State) : Ev :=
  if (w.b.extractLsb' 16 16) ≠ 0 then .imm false .noslot 2 s noResult else .wait

/-- The key of a key word. -/
def Wait.key (w : Wait) : BitVec 16 := w.b.extractLsb' 0 16

/-- VFPSH's outcomes (R377): data holds each member's value. A free entry is taken first, whatever the key word's upper
bits (R98); a fibre that is away has no FIFO (log entry 36). -/
def vfpshEval (s : State) (g : Group) (fb : Fibre) (w : Wait) : Ev :=
  if fb.place ≠ .home then .imm false .noslot 1 s noResult
  else if (s.core (partnerOf g.core)).gate ≠ .opened then .imm true .closed 1 s noResult
  else if fifoSize ≤ (s.core g.core).fifo.length then w.keyRefused s
  else
    let lanes := w.data.foldl (fun m q => sset 0 m q.1 (q.2.headD 0)) []
    .ok 0 (s.modCore g.core fun c =>
      { c with fifo := c.fifo ++ [{ key := w.key, mask := w.mask, lanes := lanes }] }) noResult

/-- VFPOP's outcomes (R377): no entry has a key above 16 bits. -/
def vfpopEval (s : State) (g : Group) (fb : Fibre) (w : Wait) : Ev :=
  if fb.place ≠ .home then .imm false .noslot 1 s noResult
  else
    match s.incoming g.core with
    | [] => w.keyRefused s
    | e :: _ =>
      if e.key.setWidth 32 ≠ w.b.setWidth 32 then w.keyRefused s
      else
        .ok 0 (s.modCore (partnerOf g.core) fun c => { c with fifo := c.fifo.drop 1 }) fun f =>
          (2, (sget 0 e.lanes (memberOf f)).toNat + 2 ^ 32 * e.mask.toNat)

/-- WSTAT bit 8 of a VFPOP that times out behind another key (R377). -/
def vfpopLate (s : State) (g : Group) (fb : Fibre) (w : Wait) : Nat × Result × State :=
  let other := match s.incoming g.core with
    | [] => false
    | e :: _ => e.key != w.key
  (if other && !w.expired (s.tickAt (fb.onCore g)) fb.rtk then 1 else 0, (0, 0), s)

/-- VFPSH and VFPOP as waits. -/
def vfpshKind : WaitKind := { cls := 10, pipe := .M, eval := vfpshEval }
def vfpopKind : WaitKind := { cls := 10, pipe := .M, eval := vfpopEval, late := vfpopLate }

/-- A group that uses the FIFOs is pinned (R375). -/
def State.pin (s : State) (gid : Nat) : State := s.modGroup gid fun g => { g with pinned := true }

/-- VFPSH, once for the bundle (R377). -/
def execVfpsh (f : F3) (s : State) : Host.Outcome State Fault Refusal :=
  s.issue (.vfpsh f) f.c noCheck fun s r =>
    let e := s.env r
    let lanes := (s.members r).map fun fb => (memberOf fb.fid, [e.op32 fb f.a])
    (s.pin r.grp).startShared r vfpshKind fun e fb =>
      { e.mkWait r (.vfpsh f) fb f.x 0 ((e.op32 fb f.b).setWidth 64) 0 with data := lanes }

/-- VFPOP, once for the bundle (R377). -/
def execVfpop (f : F3) (s : State) : Host.Outcome State Fault Refusal :=
  s.issue (.vfpop f) f.c noCheck fun s r =>
    (s.pin r.grp).startShared r vfpopKind fun e fb =>
      e.mkWait r (.vfpop f) fb f.x 0 ((e.op32 fb f.b).setWidth 64) 0

/-! ## PGATE -/

/-- Illegal operand fields of PGATE, as its NOSLOT detail; 0 when the request stands (R380). -/
def pgateRefused (s : State) (g : Group) (w : Wait) : Nat :=
  if w.a.extractLsb' 10 22 ≠ 0 || w.b.extractLsb' 2 30 ≠ 0 then 1
  else if (s.coresOf g.part).contains (w.a.extractLsb' 0 10).toNat then 0
  else 2

/-- What a standing request does to the target's gate (R380): the state, and the entries in flight. -/
def State.requestGate (s : State) (t : Nat) (force open_ : Bool) : State × Nat :=
  if open_ then (s.openGate t, 0)
  else if (s.core t).gate = .closed then (s, 0)
  else
    let s := s.modCore t fun c => { c with gate := .pending, force := c.force || force }
    let forced := (s.core t).force
    let s := if forced then s.spillIncoming t else s
    let n := if forced then 0 else (s.incoming t).length
    (if s.quiet t then s.closeGate t else s, n)

/-- PGATE's outcomes after its request has been made (R380): bound is 1 plus the entries in flight. -/
def pgateEval (s : State) (g : Group) (_ : Fibre) (w : Wait) : Ev :=
  let refused := pgateRefused s g w
  if refused ≠ 0 then .imm true .noslot refused s noResult
  else
    let gate := (s.core (w.a.extractLsb' 0 10).toNat).gate
    let d : Nat → Result := fun _ => (1, gate.num)
    if w.b.getLsbD 1 || gate = .closed then .ok 0 s d
    else .imm false .deferred (w.bound - 1) s d

/-- PGATE as a wait. -/
def pgateKind : WaitKind := { cls := 12, pipe := .X, eval := pgateEval }

/-- PGATE, once for the bundle from its lowest member's operands (R380). -/
def execPgate (f : F3) (s : State) : Host.Outcome State Fault Refusal :=
  s.issue (.pgate f) f.c noCheck fun s r =>
    match s.group? r.grp with
    | none => s
    | some g =>
      let fb := s.lead r
      let e := s.env r
      let w := e.mkWait r (.pgate f) fb f.x ((e.op32 fb f.a).setWidth 64) ((e.op32 fb f.b).setWidth 64) 0
      let q := if pgateRefused s g w = 0 then
          s.requestGate (w.a.extractLsb' 0 10).toNat (w.b.getLsbD 0) (w.b.getLsbD 1)
        else (s, 0)
      q.1.startShared r pgateKind fun _ _ => { w with bound := q.2 + 1 }

end Sys2Proof.Machine
end

