-- ==== Sys2Proof/Machine/Xlane.lean ====
section
/-!
DEFINITION. The cross-lane words XSHF to XFFS: the rendezvous (R136, R137) and their results (R138).
-/

namespace Sys2Proof.Machine

/-- The members of a mask, ascending. -/
def maskMembers (m : BitVec 32) : List Nat := maskList 32 m.toNat

/-- The value of a member at its arrival, and the member its old D names (R136). -/
def Rendezvous.val (v : Rendezvous) (m : Nat) : Word := sget 0 v.vals m
def Rendezvous.target (v : Rendezvous) (m : Nat) : Nat := ((sget 0 v.olds m).extractLsb' 0 5).toNat

/-- One f32 addition of the tree: round to nearest, subnormals kept (R138). A value that meets no addition passes as it is, a
NaN too (DESIGN CHOICE, log entry 145). -/
def treeAdd (x y : Option (Nat × BitVec 5)) : Option (Nat × BitVec 5) :=
  match x, y with
  | some a, some b =>
    let r := f32.finish .rne false (fsum .rne [f32.decode a.1, f32.decode b.1])
    some (r.1, r.2 ||| a.2 ||| b.2)
  | some a, none => some a
  | none, y => y

/-- One level of the pairwise tree (R138). -/
def treeLevel : List (Option (Nat × BitVec 5)) → List (Option (Nat × BitVec 5))
  | x :: y :: l => treeAdd x y :: treeLevel l
  | l => l

/-- XRDF's sum and flags over positions 0 to 31 (R138). -/
def Rendezvous.fsum (v : Rendezvous) : Nat × BitVec 5 :=
  let leaves := (List.range 32).map fun m => if v.mask.getLsbD m then some ((v.val m).toNat, 0#5) else none
  match treeLevel (treeLevel (treeLevel (treeLevel (treeLevel leaves)))) with
  | some r :: _ => r
  | _ => (0, 0)

/-- The members that send to a member, ascending (XPSH). -/
def Rendezvous.senders (v : Rendezvous) (m : Nat) : List Nat := (maskMembers v.mask).filter (v.target · == m)

/-- The result of a cross-lane word for a member and its detail (R138). -/
def Rendezvous.result (v : Rendezvous) (m : Nat) : Word × Nat :=
  let l := maskMembers v.mask
  match v.op with
  | 0x5D => if v.mask.getLsbD (v.target m) then (v.val (v.target m), 0) else (v.val m, 2)
  | 0x5E =>
    match (v.senders m).reverse with
    | [] => (0, 2)
    | k :: ks => (v.val k, if ks.isEmpty then 0 else 1)
  | 0x5F => (l.foldl (fun x k => x + v.val k) 0, 0)
  | 0x60 => (BitVec.ofNat 32 v.fsum.1, 0)
  | 0x61 => (l.foldl (fun x k => if (v.val k).slt x then v.val k else x) (v.val (l.headD 0)), 0)
  | 0x62 => (l.foldl (fun x k => if x.slt (v.val k) then v.val k else x) (v.val (l.headD 0)), 0)
  | 0x63 => ((l.filter (· ≤ m)).foldl (fun x k => x + v.val k) 0, 0)
  | 0x64 => (l.foldl (fun x k => if v.val k = 0 then x else x ||| (1#32 <<< k)) 0, 0)
  | _ => (BitVec.ofNat 32 (((l.filter fun k => v.val k ≠ 0).head?).getD 32), 0)

/-- An arrival's immediate outcome, in the order of R137: bound 1 and 2 are MISMATCH, 3 is NOSLOT. -/
def xEval (s : State) (_ : Group) (_ : Fibre) (w : Wait) : Ev :=
  if w.bound = 0 then .wait
  else if w.bound = 3 then .imm false .noslot 1 s noResult
  else .imm false .mismatch w.bound s noResult

/-- A cross-lane word as a wait: its condition holds only as the last arrival completes it. -/
def xKind : WaitKind := { cls := 9, pipe := .X, eval := xEval }

/-- The wait of a member that has arrived at a rendezvous: in progress, or interrupted by a handler. -/
def Fibre.atRendezvous (fb : Fibre) (pkt : DWord) : Option Wait :=
  let here (w : Option Wait) : Option Wait := w.filter fun w => w.arr == .rendezvous && w.pkt == pkt
  (here fb.wait).orElse fun _ => here fb.saved

/-- Completion of a rendezvous for every member of its mask on one tick (R137, R138). -/
def State.completeRendezvous (s : State) (gid : Nat) (v : Rendezvous) : State :=
  let fl := if v.op = 0x60 then v.fsum.2 else 0
  let s := s.modGroup gid fun g =>
    { g with rdvs := g.rdvs.filter fun u => !(u.team == v.team && u.pkt == v.pkt) }
  (maskMembers v.mask).foldl (init := s) fun s m =>
    let fid := v.team * 32 + m
    match (s.fibre? gid fid).bind (·.atRendezvous v.pkt) with
    | none => s
    | some w =>
      let r := v.result m
      (s.endWait xKind w gid fid .ok r.2 (1, r.1.toNat)).modFibre gid fid fun fb =>
        { fb with ctx := { fb.ctx with fpctl := fb.ctx.fpctl ||| flagBits fl } }

/-- Whether an arrival is refused, and how (R137). -/
def Group.arrivalRefused (g : Group) (fid : Nat) (w : Wait) : Nat :=
  let mask := w.b.setWidth 32
  let open_ := g.rdvs.find? fun v => v.team == fid / 32 && v.pkt == w.pkt
  if !mask.getLsbD (memberOf fid) then 1
  else if open_.any fun v => v.mask != mask then 2
  else if (match (g.fibre fid).place with | .landed _ => true | _ => false) then 3
  else 0

/-- A member's arrival (R137): refused, counted, or the last one. -/
def xPlace (g : Group) (fid : Nat) (w : Wait) (s : State) : State :=
  let m := memberOf fid
  let refused := g.arrivalRefused fid w
  if refused ≠ 0 then
    s.modFibre g.gid fid fun fb => { fb with wait := fb.wait.map fun w => { w with bound := refused } }
  else
    let v : Rendezvous := ((g.rdvs.find? fun v => v.team == fid / 32 && v.pkt == w.pkt)).getD
      { team := fid / 32, pkt := w.pkt, op := (w.word.extractLsb' 24 7).toNat, mask := w.b.setWidth 32
        arrived := 0, vals := [], olds := [] }
    let v : Rendezvous := { v with
      arrived := v.arrived ||| (1#32 <<< m)
      vals := sset 0 v.vals m (w.a.setWidth 32)
      olds := sset 0 v.olds m (w.d.setWidth 32) }
    let s := s.modFibre g.gid fid fun fb => { fb with wait := fb.wait.map fun w => { w with arr := .rendezvous } }
    if v.arrived = v.mask then s.completeRendezvous g.gid v
    else s.modGroup g.gid fun g =>
      { g with rdvs := g.rdvs.filter (fun u => !(u.team == v.team && u.pkt == v.pkt)) ++ [v] }

/-- A cross-lane word for the bundle that is issuing. -/
def State.issueX (s : State) (i : Instr) (f : F3) : Host.Outcome State Fault Refusal :=
  s.issue i f.c noCheck fun s r =>
    s.startEach r xKind
      (fun e fb => e.mkWait r i fb f.x ((e.op32 fb f.a).setWidth 64) ((e.op32 fb f.b).setWidth 64)
        (if f.d.toNat < 64 then (e.regAt fb f.d 0).setWidth 64 else 0))
      xPlace

/-- XSHF (R138). -/
def execXshf (f : F3) (s : State) : Host.Outcome State Fault Refusal := s.issueX (.xshf f) f
/-- XPSH (R138). -/
def execXpsh (f : F3) (s : State) : Host.Outcome State Fault Refusal := s.issueX (.xpsh f) f
/-- XRDI (R138). -/
def execXrdi (f : F3) (s : State) : Host.Outcome State Fault Refusal := s.issueX (.xrdi f) f
/-- XRDF (R138). -/
def execXrdf (f : F3) (s : State) : Host.Outcome State Fault Refusal := s.issueX (.xrdf f) f
/-- XRMN (R138). -/
def execXrmn (f : F3) (s : State) : Host.Outcome State Fault Refusal := s.issueX (.xrmn f) f
/-- XRMX (R138). -/
def execXrmx (f : F3) (s : State) : Host.Outcome State Fault Refusal := s.issueX (.xrmx f) f
/-- XSCN (R138). -/
def execXscn (f : F3) (s : State) : Host.Outcome State Fault Refusal := s.issueX (.xscn f) f
/-- XVOT (R138). -/
def execXvot (f : F3) (s : State) : Host.Outcome State Fault Refusal := s.issueX (.xvot f) f
/-- XFFS (R138). -/
def execXffs (f : F3) (s : State) : Host.Outcome State Fault Refusal := s.issueX (.xffs f) f

end Sys2Proof.Machine
end

