-- ==== Sys2Proof/Machine/Fibres.lean ====
section
/-!
DEFINITION. What happens to a fibre outside its words: deferred results land (R67), waits end (R98), traps
are entered or sent to the supervisor (R345, R351), a migrating fibre arrives (R135), stores are
acknowledged (R360, R361).
-/

namespace Sys2Proof.Machine

/-! ## Results and waits -/

/-- Whether the run ahead of a fibre meets its scoreboard, so that it is not ready for it (R68). -/
def State.blockedAt (s : State) (g : Group) (fb : Fibre) : Bool :=
  fb.blocked ((s.scan g (fb.onCore g) fb.pc fb.mc).touches (fb.mc.map (·.2)))

/-- DEFERRED_RESULT_LANDING: the oldest entry of a fibre's scoreboard is written (R67, R69), unless its core is
gated (R412). A fibre that it leaves ready for its run became ready on this tick (R68, R122). -/
def execDeferredResultLanding (gid fid : Nat) (s : State) : Host.Outcome State Fault Refusal :=
  match s.group? gid, s.fibre? gid fid with
  | some g, some fb =>
    match fb.board with
    | [] => .next s
    | p :: rest =>
      if s.stopped g.part then .next s
      else
        let freed := s.blockedAt g fb && !s.blockedAt g { fb with board := rest }
        .next (s.modFibre gid fid fun fb =>
          { fb with
            board := rest
            rdy := if freed then s.tick else fb.rdy }.land p)
  | _, _ => .next s

/-- The waiting word of an opcode. -/
def waitKindOf (op : Nat) : Option WaitKind :=
  match op with
  | 0x03 => some csldKind
  | 0x26 | 0x27 => some mmaKind
  | 0x2C => some gathrKind
  | 0x2D => some mtileKind
  | 0x4D => some sleepKind
  | 0x55 => some forkKind
  | 0x57 => some fjoinKind
  | 0x5A => some qemitKind
  | 0x5B => some qrecvKind
  | 0x5C => some migrKind
  | 0x5D | 0x5E | 0x5F | 0x60 | 0x61 | 0x62 | 0x63 | 0x64 | 0x65 => some xKind
  | 0x66 => some vfpshKind
  | 0x67 => some vfpopKind
  | 0x6C => some ldwtKind
  | 0x70 => some (ldsKind false)
  | 0x72 => some (ldsKind true)
  | 0x76 => some bwaitKind
  | 0x77 => some bawKind
  | 0x7C => some fenceWait
  | 0x7D => some pgateKind
  | _ => none

/-- Whether a fibre stands at a boundary of its own core where a fibre-level trap may be entered (R345, R353). -/
def Fibre.atBoundary (fb : Fibre) : Bool :=
  fb.held.isNone && fb.sysc.isNone && (fb.st == .ready || fb.st == .waiting) &&
    (match fb.place with | .transit _ _ _ => false | _ => true)

/-- Whether a fibre has a fibre-level trap to enter: after its run, or a promise miss (R346, R353). -/
def Fibre.mustEnter (fb : Fibre) : Bool :=
  fb.atBoundary && (fb.entry.isSome || (!fb.misses.isEmpty && !fb.ctx.inhandler))

/-- A wait that is tested on this tick: its group is resident, neither is held or frozen (R103, R351, R368, R412). A
wait that ERET goes on with is not tested where a trap entry takes the resumption's place (R350). -/
def State.waitLive (s : State) (gid fid : Nat) : Option (Group × Fibre × Wait × WaitKind) :=
  match s.group? gid with
  | none => none
  | some g =>
    match g.fibre? fid with
    | none => none
    | some fb =>
      match fb.wait with
      | none => none
      | some w =>
        if (fb.st == .waiting || fb.st == .issuing) && fb.held.isNone && !(w.resumed && fb.mustEnter) &&
            (g.st == .placed || g.st == .stopping) && !g.frozen && !s.stopped g.part then
          (waitKindOf w.op).map fun k => (g, fb, w, k)
        else none

/-- The state in which a fibre's wait is tested: on the core where the fibre is. -/
def State.atFibre (s : State) (g : Group) (fb : Fibre) : State := { s with cur := fb.onCore g }

/-- WAIT_CONDITION_MET: a wait whose condition holds ends with OK (R98). -/
def execWaitConditionMet (gid fid : Nat) (s : State) : Host.Outcome State Fault Refusal :=
  match s.waitLive gid fid with
  | none => .next s
  | some (g, fb, _, k) => .next ((s.atFibre g fb).tryCond k gid fid)

/-- WAIT_IMMEDIATE_OUTCOME: a wait that meets an immediate outcome ends with it (R98). -/
def execWaitImmediateOutcome (gid fid : Nat) (s : State) : Host.Outcome State Fault Refusal :=
  match s.waitLive gid fid with
  | none => .next s
  | some (g, fb, _, k) => .next ((s.atFibre g fb).tryImmediate k gid fid)

/-- WAIT_DEADLINE_PASSED: a wait whose deadline has passed ends (R98, R101, R103). A wait ends on its issue
tick through the tests of its word alone. -/
def execWaitDeadlinePassed (gid fid : Nat) (s : State) : Host.Outcome State Fault Refusal :=
  match s.waitLive gid fid with
  | none => .next s
  | some (g, fb, _, k) => .next ((s.atFibre g fb).tryDeadline k gid fid)

/-! ## Traps -/

/-- The packet at which a fibre that stands at a boundary resumes: its next run, or the wait (R344). -/
def Fibre.resumeAt (fb : Fibre) : DWord := ((fb.wait.map (·.pkt)).getD fb.pc)

/-- Entry of the trap that comes first for a fibre (R353). -/
def State.enterNext (s : State) (gid fid : Nat) : State :=
  match s.fibre? gid fid with
  | none => s
  | some fb =>
    match fb.entry, fb.misses with
    | some t, _ => s.enterTrap gid fid { t with epc := fb.resumeAt }
    | none, t :: rest =>
      let own := 1#32 <<< memberOf fid
      (s.modFibre gid fid fun fb => { fb with misses := rest }).enterTrap gid fid
        { t with epc := fb.resumeAt, mask := own, failing := own }
    | none, [] => s

/-- Whether a fibre enters its trap now: the entry of a hit that has started a freeze waits for the release (R403). -/
def State.entersNow (s : State) (g : Group) (fb : Fibre) : Bool :=
  fb.mustEnter && !(fb.entry.any (·.late) && s.freezeNear g.part)

/-- FIBRE_TRAP_ENTRY: the lowest fibre of a group with a trap to enter enters it (R345), also when a freeze of the
group waits for its next run (R353). -/
def execFibreTrapEntry (gid : Nat) (s : State) : Host.Outcome State Fault Refusal :=
  match s.group? gid with
  | none => .next s
  | some g =>
    if s.stopped g.part || g.exit.isSome || !(g.st == .placed || g.st == .stopping) then .next s
    else
      match g.fibres.find? (s.entersNow g) with
      | some fb => .next (s.enterNext gid fb.fid)
      | none => .next s

/-- Whether a fibre is held by a trap whose record the supervisor has not had. -/
def Fibre.unsent (fb : Fibre) : Bool := fb.held.isSome && !fb.sent

/-- SUPERVISOR_TRAP: the record of the lowest held fibre goes to the partition's firmware (R351), and of a supervisor
call the request with its registers (R349). -/
def execSupervisorTrap (gid : Nat) (s : State) : Host.Outcome State Fault Refusal :=
  match s.group? gid with
  | none => .next s
  | some g =>
    match g.fibres.find? (·.unsent) with
    | none => .next s
    | some fb =>
      match fb.held with
      | none => .next s
      | some t =>
        let s := (s.modFibre gid fb.fid fun fb => { fb with sent := true }).report g.part (.trap gid fb.fid g.vf t)
        match fb.sysc with
        | some (code, reg) => .next (s.report g.part (.call gid fb.fid g.vf code reg))
        | none => .next s

/-! ## Migration and store acknowledgements -/

/-- Where a migrating fibre is going, once it may arrive: its stores are acknowledged, its home slot is
resident when it goes home (R135), and the stack that it goes to is released (R371). -/
def State.arrivesAt (s : State) (g : Group) (fb : Fibre) : Option (Nat × BitVec 7 × Bool) :=
  match fb.place with
  | .transit target d _ =>
    if fb.unacked ≠ 0 || s.stopped g.part || g.exit.isSome then none
    else
      match target with
      | some c => if s.stackUp (stackOf c) then some (c, d, false) else none
      | none => if g.st == .placed || g.st == .stopping then some (g.core, d, true) else none
  | _ => none

/-- MIGR_ARRIVAL: the fibre is ready on its new core, and the arrival acquires (R135). -/
def execMigrArrival (gid fid : Nat) (s : State) : Host.Outcome State Fault Refusal :=
  match s.group? gid with
  | none => .next s
  | some g =>
    match g.fibre? fid with
    | none => .next s
    | some fb =>
      match s.arrivesAt g fb with
      | none => .next s
      | some (core, d, home) =>
        .next ((s.acquire core 4).modFibre gid fid fun fb =>
          { fb.putRegs none d 1 core with
            st := .ready
            rdy := s.tick
            slotOn := none
            slots := []
            place := if home then .home else .landed core
            leftAs := if home then [] else fb.leftAs
            ftab := if home then none else fb.ftab })

/-- Stores of a fibre to peers that are not answered yet (R394). -/
def State.peerStores (s : State) (gid fid : Nat) : List PeerWait :=
  s.peers.filter fun w => w.grp == gid && w.fid == fid && w.store && s.tick.toNat < w.start.toNat + Config.peerTicks w.id

/-- Whether a store of a fibre can be acknowledged: it is performed at scope C, or its peer has answered (R360). -/
def State.mayAck (s : State) (g : Group) (fb : Fibre) : Bool :=
  !s.stopped g.part && (s.peerStores g.gid fb.fid).length < fb.unacked

/-- One store of a fibre acknowledged, the oldest first; with the last one of a landing slot the slot is free, and with
the last one of the group its undrained flag (R135, R361). -/
def Group.ackStore (g : Group) (fid : Nat) : Group :=
  let g := g.modFibre fid fun fb =>
    let n := fb.unacked - 1
    { fb with
      unacked := n
      slotOn := if n = 0 then none else fb.slotOn
      slots := (fb.slots.map fun q => (q.1, q.2 - 1)).filter (·.2 ≠ 0) }
  if g.fibres.all (·.unacked == 0) then { g with undrained := false } else g

/-- Whether every access that an invalidation waits for has been performed and acknowledged (R341). -/
def State.invalidated (s : State) (v : Invalidation) : Bool :=
  (v.owed.all fun q => q.2.2 = 0 || (s.fibre? q.1 q.2.1).all (·.unacked == 0)) &&
    v.peers.all fun id => !s.peers.any (·.id == id)

/-- An invalidation completed: its status, or the old frames of a remap returned to the supervisor (R333, R341). -/
def State.closeInvalidation (s : State) (v : Invalidation) : State :=
  match v.frames with
  | none => s.status v.part false
  | some (f, n) => (List.range n).foldl (fun s k => s.report v.part (.returned (f + k))) s

/-- Every invalidation whose accesses are done completed. -/
def State.closeInvalidations (s : State) : State :=
  if s.invalidations.isEmpty then s
  else
    let fin := s.invalidations.filter s.invalidated
    fin.foldl State.closeInvalidation { s with invalidations := s.invalidations.filter fun v => !s.invalidated v }

/-- The undrained flag of the saved record of a group cleared with its last acknowledgement (R357, R361). -/
def State.clearUndrained (s : State) (g : Group) (frame : Nat) : State :=
  let a := frame * pageBytes + 22
  if g.undrained && (g.fibres.all (·.unacked == 0)) then s.putHome a 1 ((mread s.mem a).toNat / 2 * 2) else s

/-- One store of a fibre acknowledged, for its group, the group's saved record and the invalidations that wait for it
(R341, R360, R361). -/
def State.ackStore (s : State) (gid fid : Nat) : State :=
  let due (v : Invalidation) : Invalidation :=
    { v with owed := change (fun q => q.1 == gid && q.2.1 == fid) (fun q => (q.1, q.2.1, q.2.2 - 1)) v.owed }
  let s : State := { s with invalidations := s.invalidations.map due }
  let s := match s.group? gid with
    | none => s
    | some g =>
      match g.frame with
      | some frame => s.clearUndrained { g.ackStore fid with undrained := g.undrained } frame
      | none => s
  s.modGroup gid (·.ackStore fid)

/-- STORE_ACKNOWLEDGE (R360). -/
def execStoreAcknowledge (gid fid : Nat) (s : State) : Host.Outcome State Fault Refusal :=
  match s.group? gid with
  | none => .next s
  | some g =>
    match g.fibre? fid with
    | none => .next s
    | some fb =>
      if !s.mayAck g fb then .next s
      else
        let left := (s.peerStores gid fid).map (·.id)
        let s := { s with
          peers := s.peers.filter fun w => !(w.grp == gid && w.fid == fid && w.store && !left.contains w.id) }
        .next (s.ackStore gid fid)

/-- The drain deadline in ticks (R360). -/
def drainTicks : Nat := 65536

/-- A fibre whose departure by MIGR has stalled (R361). -/
def Fibre.stalledMigr (fb : Fibre) (now : DWord) : Bool :=
  match fb.place with
  | .transit _ _ left => fb.unacked ≠ 0 && left.toNat + drainTicks ≤ now.toNat
  | _ => false

/-- A fibre that does not depart after all: it is held where it was, at the MIGR (R361). -/
def Fibre.stayPut (fb : Fibre) : Fibre :=
  let pc := fb.pc - BitVec.ofNat 64 packetBytes
  { fb with
    pc := pc
    st := .ready
    place := match fb.slotOn with | some c => .landed c | none => .home
    slotOn := none
    ftab := if fb.slotOn.isSome then fb.ftab else none
    held := some { kind := 14, detail := min fb.unacked 65535, epc := pc, mask := 1#32 <<< memberOf fb.fid
                   failing := 1#32 <<< memberOf fb.fid }
    sent := false }

/-- Whether the drain of a group's save has stalled and the supervisor has not been told (R361). -/
def Group.stalledSave (g : Group) (now : DWord) : Bool :=
  g.st == .stopping && !g.stalled && g.fibres.any (·.unacked ≠ 0) &&
    (match g.drain with
      | some t => t.toNat + drainTicks ≤ now.toNat
      | none => false)

/-- The trap of a stalled save (R344): the stores unacknowledged, for the lowest fibre that issued one. -/
def Group.stallTrap (g : Group) : Nat × Trap :=
  let left := g.fibres.filter (·.unacked ≠ 0)
  let f := ((left.map (·.fid)).foldl min (left.headD { fid := 0 }).fid)
  (f, { kind := 14, detail := min ((left.map (·.unacked)).foldl (· + ·) 0) 65535, epc := (g.fibre f).pc
        mask := 1#32 <<< memberOf f, failing := 1#32 <<< memberOf f })

/-- DRAIN_STALL (R361): the save of a group goes on undrained, and the supervisor has a trap of kind 14, which
names the lowest fibre with stores unacknowledged (log entry 127); a fibre that was to migrate stays where it
was. -/
def execDrainStall (gid : Nat) (s : State) : Host.Outcome State Fault Refusal :=
  match s.group? gid with
  | none => .next s
  | some g =>
    if g.stalledSave s.tick then
      .next ((s.modGroup gid fun g => { g with stalled := true, undrained := true }).report g.part
        (.trap gid g.stallTrap.1 g.vf g.stallTrap.2))
    else
      match g.fibres.find? (·.stalledMigr s.tick) with
      | some fb => .next (s.modFibre gid fb.fid (·.stayPut))
      | none => .next s

end Sys2Proof.Machine
end

