-- ==== Sys2Proof/Machine/Clock.lean ====
section
/-!
DEFINITION. GLOBAL_TICK: what every tick counts (R84, R85, R112, R384, R407, R408).
-/

namespace Sys2Proof.Machine

/-! ## Stall reasons (R408) -/

/-- Whether a fibre of a group waits in one of some words. -/
def Group.waitsIn (g : Group) (ops : List Nat) : Bool :=
  g.fibres.any fun fb => fb.st == .waiting && fb.wait.any fun w => ops.contains w.op

/-- Whether a ready fibre of a group is blocked on its scoreboard (R68). -/
def State.boardBlocks (s : State) (g : Group) : Bool :=
  (g.readyOn g.core).any fun fb => fb.blocked ((s.scan g g.core fb.pc fb.mc).touches (fb.mc.map (·.2)))

/-- The opcodes of the next chain group of a core's run. -/
def State.nextOps (s : State) (core : Nat) : List Nat :=
  let s : State := { s with cur := core }
  match s.run? with
  | none => []
  | some r =>
    match s.group? r.grp with
    | none => []
    | some g =>
      match s.packet g r with
      | .ok l => (chainGroup (l.drop (r.idx % 3))).map fun w => (w.extractLsb' 24 7).toNat
      | .error _ => []

/-- The cores on which a run of a group stands. -/
def State.runCores (s : State) (gid : Nat) : List Nat := (s.cores.filter fun c => c.run.any (·.grp == gid)).map (·.id)

/-- What a run that issues nothing in a cycle waits for, by its next chain group: with TRAIL alone, space on the
scoreboard (R67); with a word of which a core has one in flight at a time, its pipe (R164, R187); else a latch or an
operand (R60). How many cycles each takes is timing, and not modelled (log entry 110). -/
def State.runReason (s : State) (core : Nat) : Nat :=
  let ops := s.nextOps core
  if ops = [0x01] then 3
  else if ops.any [0x0F, 0x3C, 0x3D, 0x3E].contains then 2
  else 1

/-- Whether a ready bundle of a group has lost its core to another group: a run of another stands there, or the core has
issued for another, or a sticky bundle of another keeps the pick (R122, R123). -/
def State.lostPick (s : State) (g : Group) : Bool :=
  let k := s.core g.core
  (s.bundles g.core).any (·.grp == g.gid) &&
    (k.run.any (·.grp != g.gid) || (k.issueAt = some s.tick && k.last.any (·.grp != g.gid)) ||
      (s.sticky g.core).any (·.grp != g.gid))

/-- The lowest reason that holds for a group in a cycle in which it issues nothing (R408). -/
def State.stallReason (s : State) (g : Group) : Nat :=
  let runs := (s.runCores g.gid).map s.runReason
  if s.traceFull g.core then 0
  else if !runs.isEmpty then (lowest runs).getD 1
  else if (s.fetchMisses g.core).any (·.1.gid == g.gid) then 4
  else if s.lostPick g then 5
  else if s.boardBlocks g then 6
  else if g.waitsIn [0x76, 0x77] then 7
  else if g.waitsIn [0x70, 0x72, 0x6C] then 8
  else if g.waitsIn [0x7C] then 9
  else if g.waitsIn [0x5D, 0x5E, 0x5F, 0x60, 0x61, 0x62, 0x63, 0x64, 0x65] then 10
  else if g.waitsIn [0x66, 0x67] then 11
  else if g.waitsIn [0x26, 0x27, 0x2C, 0x2D] then 12
  else if g.waitsIn [0x55, 0x57, 0x5A, 0x5B, 0x5C, 0x7D, 0x03] then 13
  else if g.waitsIn [0x4D] then 14
  else 15

/-! ## One group over one tick -/

/-- Whether a run of a group is in progress on some core. -/
def State.inRun (s : State) (gid : Nat) : Bool := s.cores.any fun c => c.run.any (·.grp == gid)

/-- Whether a group is resident, so that its ticks count (R85, R354): until the runs in progress at its
descheduling have finished. -/
def State.resident (s : State) (g : Group) : Bool :=
  !s.stopped g.part && g.exit.isNone && (g.st == .placed || (g.st == .stopping && s.inRun g.gid))

/-- Whether a group's stall reasons count: until its descheduling has completed (R354 step 6, R408). -/
def State.countsStall (s : State) (g : Group) : Bool :=
  !s.stopped g.part && g.exit.isNone && (g.st == .placed || g.st == .stopping)

/-- Whether a fibre's resident ticks advance in its resident group (R85). -/
def Fibre.resides (fb : Fibre) : Bool :=
  fb.st != .free && (match fb.place with | .transit _ _ _ => false | _ => true)

/-- A group at the end of a tick: resident ticks (R85), and in a cycle that counts one stall reason (R408). -/
def Group.endTick (g : Group) (counts cycle : Bool) (reason : Nat) : Group :=
  let live (fb : Fibre) : Fibre :=
    { fb with
      rtk := if counts && fb.resides then fb.rtk + 1 else fb.rtk
      wait := fb.wait.map fun w => { w with resumed := false } }
  { g with
    fibres := g.fibres.map live
    stall := if cycle && !g.issued then sset 0 g.stall reason (sget 0 g.stall reason + 1) else g.stall
    issued := false }

/-- One resident tick charged to a region's block, or owed while its stack is under reset (R110, R373). -/
def State.chargeBlock (s : State) (b : Nat) : State :=
  if s.homeUp b then s.charge b 64 8 (· + 1)
  else { s with owedTicks := sset 0 s.owedTicks b (sget 0 s.owedTicks b + 1) }

/-- The resident ticks of a group charged to its region and to every ancestor (R110, R112). -/
def State.chargeTick (s : State) (g : Group) : State :=
  if s.resident g then (s.ancestors regionDepth g.region).foldl State.chargeBlock s else s

/-- A core at the end of a tick: lossless trace counts the cycle it has cost, one in which nothing has issued on a core
with resident fibres, at home or landed (R407). -/
def State.coreEndTick (s : State) (c : Core) : Core :=
  let here (g : Group) : Bool := g.core = c.id || g.fibres.any fun fb => fb.place == .landed c.id
  let lost := s.traceFull c.id && c.issueAt ≠ some s.tick && s.groups.any fun g => here g && s.resident g && s.edge g.part
  if lost then { c with trace := { c.trace with perturb := c.trace.perturb + 1 } } else c

/-- Everything a tick counts, and the tick itself. -/
def State.endTick (s : State) : State :=
  let t := (s.groups.foldl State.chargeTick s).closeInvalidations
  { t with
    tick := s.tick + 1
    did := []
    turn := []
    groups := t.groups.map fun g => g.endTick (s.resident g) (s.countsStall g && s.edge g.part) (s.stallReason g)
    cores := t.cores.map s.coreEndTick
    parts := t.parts.map fun q => { q with phase := (q.phase + q.clock) % 16 } }

/-- GLOBAL_TICK (R84). A device freeze in force stops the tick (R412). -/
def execGlobalTick (s : State) : Host.Outcome State Fault Refusal :=
  if s.freeze.any (·.inForce) then .next s
  else if s.tick = -1 then .fault .tickExhausted
  else .next s.endTick

end Sys2Proof.Machine
end

