-- ==== Sys2Proof/Machine/Placement.lean ====
section
/-!
DEFINITION. Placing groups (R112 to R119, R13 to R15, R247, R354): charges, what a core can hold, the
choice of a core, a group's first state, the launch of successor groups (R134).
-/

namespace Sys2Proof.Machine

/-! ## Charges (R110, R112, R355) -/

/-- Bytes of a group's scratchpad window (R13). -/
def Kernel.padBytes (k : Kernel) : Nat := (k.spbytes + 32 * k.barriers + 127) / 128 * 128

/-- Whether a group holds its core, operand buffer and accumulators: not while it is descheduled, nor once it has
ended so (R355). -/
def Group.holdsCore (g : Group) : Bool := g.st != .descheduled && !g.gone

/-- The groups of a list that a region and its descendants hold. -/
def State.groupsIn (s : State) (block : Nat) : List Group :=
  s.groups.filter fun g => (s.ancestors regionDepth g.region).contains block

/-- What some groups charge (R110): channels, distinct cores, operand-buffer and scratchpad bytes. -/
structure Charges where
  chans : Nat
  cores : Nat
  ob : Nat
  sp : Nat
  deriving DecidableEq, Repr

def sumOf {α : Type} (f : α → Nat) (l : List α) : Nat := (l.map f).foldl (· + ·) 0

def chargesOf (l : List Group) : Charges :=
  { chans := sumOf (·.kern.chan) l
    cores := ((l.filter (·.holdsCore)).map (·.core)).dedup.length
    ob := sumOf (·.kern.opbytes) (l.filter (·.holdsCore))
    sp := sumOf (fun g => g.spl - g.spb) l }

/-- The charge fields of a region's block written (R110 bytes 83:72); not while its home is being reset: STACK_RELEASE
makes up for it (R373). -/
def State.rechargeBlock (s : State) (b : Nat) : State :=
  if s.homeUp b then
    let c := chargesOf (s.groupsIn b)
    (((s.putHome (b + 82) 2 c.chans).putHome (b + 80) 2 c.cores).putHome (b + 76) 4 c.ob).putHome (b + 72) 4 c.sp
  else s

/-- The charge fields of a region's block and of its ancestors' written (R110, R112). -/
def State.recharge (s : State) (region : Nat) : State :=
  (s.ancestors regionDepth region).foldl State.rechargeBlock s

/-- Whether the groups of a region and its descendants, a group among them, stay within its budgets (R112). -/
def State.withinBudget (s : State) (g : Group) (block : Nat) : Bool :=
  let c := chargesOf (g :: (s.groupsIn block).filter (·.gid != g.gid))
  let d := s.defaultsOf g.part
  c.chans ≤ s.budgetField 6 d.chans 50 2 block && c.cores ≤ s.budgetField 5 d.cores 48 2 block &&
    c.ob ≤ s.budgetField 4 d.obbud 44 4 block && c.sp ≤ s.budgetField 3 d.spbud 40 4 block

/-- Whether every charged region stays within its budgets, none of their blocks on a stack under reset (R112, R373). -/
def State.affordable (s : State) (g : Group) : Bool :=
  s.regionUp g.region && (s.ancestors regionDepth g.region).all (s.withinBudget g)

/-! ## What a core can hold (R115) -/

/-- Whether some groups fit on one core together. -/
def coreHolds (l : List Group) : Bool :=
  l.length ≤ 32 && sumOf (fun g => g.kern.teams * 32 + g.kern.landing) l ≤ 2048 &&
    sumOf (fun g => g.kern.teams * 32 * g.kern.window + g.kern.landing * 64) l ≤ 131072 &&
    sumOf (·.kern.opbytes) l ≤ 262144 && sumOf (·.units) l ≤ 16 && sumOf (·.kern.chan) l ≤ 8

/-- The scratchpad windows held in a cluster's pool (R247). -/
def State.windows (s : State) (cluster : Nat) : List (Nat × Nat) :=
  (s.groups.filter fun g => clusterOf g.core == cluster).map fun g => (g.spb, g.spl)

/-- The lowest free run of n bytes in a cluster's pool (R247). -/
def State.freeRun (s : State) (cluster n : Nat) : Option Nat :=
  let w := s.windows cluster
  let starts := 0 :: w.map (·.2)
  let ok (a : Nat) : Bool := a + n ≤ 2 ^ 24 && w.all fun q => a + n ≤ q.1 || q.2 ≤ a
  match starts.filter ok with
  | [] => none
  | a :: as => some (as.foldl min a)

/-- A group put on a core, with its window there; none when it does not fit (R115, R116, R381). -/
def State.fitOn (s : State) (g : Group) (core : Nat) (keepWindow pendingOk : Bool) : Option Group :=
  let gate := (s.core core).gate
  if !(gate = .opened || (pendingOk && gate = .pending)) then none
  else if !coreHolds (g :: (s.groupsOn core).filter (·.gid != g.gid)) then none
  else
    let n := g.kern.padBytes
    match (if keepWindow then some g.spb else s.freeRun (clusterOf core) n) with
    | none => none
    | some a =>
      let g := { g with core := core, spb := a, spl := a + n, st := .placed, lastPlaced := s.tick }
      if s.affordable g then some g else none

/-- The core that R116 chooses among some cores: the fewest resident groups of the launch, then the lowest
core id. -/
def State.coreFor (s : State) (g : Group) (cores : List Nat) (keepWindow pendingOk : Bool) : Option Group :=
  least (fun h => [((s.groupsOn h.core).filter (·.launch == g.launch)).length, h.core])
    (cores.filterMap fun c => s.fitOn g c keepWindow pendingOk)

/-! ## A group's first state -/

/-- The bytes from an offset of a section of an image, by the section's type (R10); none when its pages no longer
translate (log entry 118). -/
def State.sectionRead (s : State) (part vf image type off n : Nat) : List Byte × State :=
  match (s.image? image).bind fun m => m.sections.find? (·.1 == type) with
  | some (_, addr, _) =>
    let r := s.virtBytes part vf (addr + off) n
    (r.1.getD [], r.2)
  | none => ([], s)

/-- Where a group's initial block stands: its address and bytes (R14). -/
def State.padSource (s : State) (g : Group) : Option (Nat × Nat) :=
  ((((s.launch? g.launch).bind fun l => s.image? l.image).bind fun m => m.sections.find? (·.1 == 5)).map fun q =>
    (q.2.1 + g.kern.spsrc, g.kern.spinit))

/-- The window of a placed group: zero and empty, the initial block copied and its lines full (R13, R14). -/
def State.fillWindow (s : State) (g : Group) : State :=
  let base := poolBase (clusterOf g.core)
  let s := { s with
    mem := mzero s.mem (base + g.spb) (g.spl - g.spb)
    errors := s.errors.filter fun e => !((base + g.spb) / 32 ≤ e.1 && e.1 < (base + g.spl) / 32)
    full := s.full.filter fun q => !((base + g.spb) / 128 ≤ q.1 && q.1 < (base + g.spl) / 128) }
  let image := ((s.launch? g.launch).map (·.image)).getD 0
  let r := s.sectionRead g.part g.vf image 5 g.kern.spsrc g.kern.spinit
  let s := { r.2 with mem := mwb r.2.mem (base + g.spb) r.1 }
  (List.range ((r.1.length + 127) / 128)).foldl (fun s k => s.setFull (base + g.spb + 128 * k) true) s

/-- A fibre as a launch starts it (R15, R88, R119). -/
def Fibre.initial (fid : Nat) (k : Kernel) (args : Sparse Word) (now : DWord) : Fibre :=
  { fid := fid, st := .ready, pc := k.entry, rdy := now, ctx := { regs := args } }

/-- The fibres that a launch starts (R15). -/
def Kernel.start (k : Kernel) (args : Sparse Word) (now : DWord) : List Fibre :=
  (List.range k.teams).flatMap fun t =>
    (List.range k.fibres).map fun m => Fibre.initial (t * 32 + m) k args now

/-- The group that a launch places at a linear index, before it has a core (R113, R119, R195, R267, R408). -/
def State.newGroup (s : State) (l : Launch) (index : Nat) : Group :=
  { gid := s.serial, part := l.part, vf := l.vf, launch := l.id, index := index, gridx := l.gridx, region := l.region
    kern := l.kern, pol := s.policyOf l.part l.region, placedAt := s.tick, fmttab := l.kern.fmttab
    chans := (List.range l.kern.chan).map fun n => { n := n }
    fibres := l.kern.start l.args s.tick }

/-- A group that has its core enters the machine. -/
def State.enterGroup (s : State) (g : Group) : State :=
  let s := { s with groups := s.groups ++ [g], serial := s.serial + 1 }
  ((s.fillWindow g).recharge g.region).traceGroup g false

/-! ## GROUP_PLACEMENT -/

/-- The next group of a launch for a stack: an index to be placed again (R216), else the next of its range
(R114, R116). -/
def Launch.nextOn (l : Launch) (st : Nat) : Option Nat :=
  match l.again.find? (·.2 == st) with
  | some (i, _) => some i
  | none => (l.ranges.find? fun r => r.1 == st && r.2.1 < r.2.2).map (·.2.1)

/-- A launch after its next group on a stack has been placed. -/
def Launch.placedOn (l : Launch) (st index : Nat) : Launch :=
  if l.again.contains (index, st) then { l with again := l.again.erase (index, st) }
  else
    { l with
      ranges := l.ranges.map fun r => if r.1 = st ∧ r.2.1 = index then (r.1, r.2.1 + 1, r.2.2) else r }

/-- Whether a group would fit on a core without some of the groups there. -/
def State.fitsWithout (s : State) (g : Group) (core : Nat) (keepWindow pendingOk : Bool) (off : Group → Bool) : Bool :=
  let t := { s with groups := s.groups.map fun h => if off h then { h with st := .descheduled } else h }
  (t.fitOn g core keepWindow pendingOk).isSome

/-- The groups of lower priority that stand on a core of a group's partition. -/
def State.below (s : State) (g : Group) (core : Nat) : List Group :=
  s.groups.filter fun h => h.part == g.part && h.st == .placed && h.pol.prio < g.pol.prio && h.core == core

/-- The group to be pre-empted next so that a group of higher priority fits on a core (R354): of those on a core that
would suffice alone, or else of those that would together, the lowest priority, then the most recently placed. None while
groups that are stopping already make room for it. -/
def State.victim (s : State) (g : Group) (cores : List Nat) (keepWindow pendingOk : Bool) : Option Group :=
  let going (c : Nat) (h : Group) : Bool := h.core == c && h.st == .stopping
  let pick (l : List Group) : Option Group :=
    least (fun h => [h.pol.prio, 2 ^ 64 - h.lastPlaced.toNat, h.core]) l
  let alone (c : Nat) (h : Group) : Bool := s.fitsWithout g c keepWindow pendingOk fun k => going c k || k.gid == h.gid
  let together (c : Nat) : Bool :=
    s.fitsWithout g c keepWindow pendingOk fun k => going c k || (s.below g c).any (·.gid == k.gid)
  if cores.any fun c => s.fitsWithout g c keepWindow pendingOk (going c) then none
  else
    (pick (cores.flatMap fun c => (s.below g c).filter (alone c))).orElse fun _ =>
      pick ((cores.filter together).flatMap (s.below g))

/-- A group descheduled by the scheduler, to be resumed once a core fits it (R354). -/
def State.makeRoom (s : State) (gid : Nat) : State := s.modGroup gid fun h => { h with st := .stopping, resume := true }

/-- GROUP_PLACEMENT: the next group of a launch on a stack gets a core, or the scheduler makes room for it
(R116, R354). -/
def execGroupPlacement (launch st : Nat) (s : State) : Host.Outcome State Fault Refusal :=
  match s.launch? launch with
  | none => .next s
  | some l =>
    match l.nextOn st with
    | none => .next s
    | some index =>
      if !s.stackUp st || s.stopped l.part then .next s
      else
        let g := s.newGroup l index
        let cores := (coreSet (s.coresOf l.part)).filter (stackOf · == st)
        match s.coreFor g cores false false with
        | some g =>
          let a := s.padSource g
          if a.any fun q => (s.virtBytes g.part g.vf q.1 q.2).2.awayIn g.part g.vf q.1 q.2 then .next s
          else
          let s := s.modLaunch launch (·.placedOn st index)
          .next ((if l.claim.isSome then s.acquire g.core 4 else s).enterGroup g)
        | none =>
          match s.victim g cores false false with
          | some h => .next (s.makeRoom h.gid)
          | none => .next s

/-! ## Launches -/

/-- The fields of a launch record (R21). -/
structure LaunchRecord where
  args : List Byte
  argbytes : Nat
  fair : Nat
  escal : Nat
  flags : Nat
  prio : Nat
  gridx : Nat
  gridy : Nat
  khdr : Nat
  reserved : Bool
  deriving DecidableEq, Repr

/-- A launch record from its 64 bytes (R21). -/
def LaunchRecord.ofBytes (l : List Byte) : LaunchRecord :=
  let n (a k : Nat) : Nat := ((l.drop a).take k).foldr (fun b v => b.toNat + 256 * v) 0
  { args := l.drop 32, argbytes := n 28 4, fair := n 24 4, escal := n 18 2, flags := n 17 1, prio := n 16 1
    gridx := n 8 4, gridy := n 12 4, khdr := n 0 4
    reserved := n 4 4 ≠ 0 || n 20 4 ≠ 0 || n 17 1 / 8 ≠ 0 }

/-- The first words of a launch in g0 upward (R15). -/
def argWords (bytes : List Byte) (n : Nat) : Sparse Word :=
  (List.range (n / 4)).foldl (init := []) fun m k =>
    sset 0 m k ((((bytes.drop (4 * k)).take 4).foldr (fun b v => b.toNat + 256 * v) 0 : Nat) : BitVec 32)

/-- The block that firmware takes for the region of the n-th launch (R22, log entry 16). -/
def launchBlock (n : Nat) : Nat := 128 * (Config.regionBlock n % 2 ^ 34)

/-- The region block of a launch: a child of the virtual function's root with the launch record's fields
(R22, R110, R111). Its override bits are those of escal, prio, the three flags and fair. A launch waits for a block of
its partition (State.roomForLaunch). -/
def State.launchRegion (s : State) (vf : Nat) (r : LaunchRecord) : Nat × State :=
  let at_ := launchBlock s.serial
  let root := ((s.vf? vf).map (·.root)).getD 0
  let m := mzero s.mem at_ 128
  let m := mwle m at_ root 8
  let m := mwle m (at_ + 52) r.escal 2
  let m := mwle m (at_ + 54) (r.prio % 16) 1
  let m := mwle m (at_ + 55) (r.flags % 8) 1
  let m := mwle m (at_ + 56) r.fair 4
  let m := mwle m (at_ + 60) (2 ^ 7 + 2 ^ 8 + 2 ^ 9 + 2 ^ 10 + 2 ^ 11 + 2 ^ 12) 4
  let part := ((s.vf? vf).bind (·.part)).getD 0
  (at_, ({ s with mem := m }).modPart part fun q => { q with regions := q.regions ++ [at_] })

/-- Region blocks that a partition holds at most (R111). -/
def maxRegions : Nat := 4096

/-- Whether a partition may have one region block more. -/
def State.roomForRegion (s : State) (part : Nat) : Bool :=
  ((s.part? part).map (·.regions.length)).getD maxRegions < maxRegions

/-- Whether a block is a region of a partition. -/
def State.isRegion (s : State) (part addr : Nat) : Bool := (s.part? part).any fun q => q.regions.contains addr

/-- Whether the launch that takes a number finds a region block: its partition may have one more, and the block is one
of its frames, no region yet and its home up (R111, R363, R373). -/
def State.roomForLaunch (s : State) (part n : Nat) : Bool :=
  s.roomForRegion part && s.owns part (launchBlock n) && !s.isRegion part (launchBlock n) && s.homeUp (launchBlock n)

/-- The ranges of linear indices of n groups over the stacks that hold cores of a partition (R114). -/
def State.ranges (s : State) (part n : Nat) : List (Nat × Nat × Nat) :=
  let cores := s.coresOf part
  let on (k : Nat) : Nat := (cores.filter fun c => stackOf c < k).length
  ((List.range 8).filter fun st => cores.any (stackOf · == st)).map fun st =>
    (st, n * on st / cores.length, n * on (st + 1) / cores.length)

/-- A launch of n groups entered (R114). -/
def State.addLaunch (s : State) (part vf image : Nat) (k : Kernel) (r : LaunchRecord) (n : Nat) (args : Sparse Word)
    (origin : Option (Nat × Nat × DWord)) (claim : Option (DWord × Nat × Nat)) : State :=
  let q := s.launchRegion vf r
  let s := q.2
  { s with
    launches := s.launches ++
      [{ id := s.serial, part := part, vf := vf, image := image, khdr := r.khdr, kern := k, gridx := r.gridx
         gridy := r.gridy, args := args, region := q.1, ranges := s.ranges part n, total := n, origin := origin
         claim := claim }]
    serial := s.serial + 1 }

/-! ## SUCCESSOR_GROUP_LAUNCH -/

/-- The sequence numbers of a queue's records that no group has claimed, oldest first (R134). -/
def GraphQueue.unclaimed (q : GraphQueue) (d : QueueDesc) : List Nat :=
  ((List.range (d.tail - d.head)).map (d.head + ·)).filter fun n => sget 0 q.taken n = 0

/-- The records that a successor group claims now; none when the queue waits (R134). -/
def State.successorClaim (s : State) (q : GraphQueue) (d : QueueDesc) : Option (Nat × Nat) :=
  match q.unclaimed d with
  | [] => none
  | n :: rest =>
    let m := rest.length + 1
    let aged := (sget 0 q.appended n).toNat + d.cdl ≤ s.tick.toNat
    if !d.persistent && 1 ≤ d.ccount && (d.ccount ≤ m || aged) then some (n, min m d.ccount) else none

/-- The records at a queue's head that successor groups have finished freed, in order (R134); nothing while the
descriptor cannot be written. -/
def State.freeHead (s : State) (part vf : Nat) (desc : DWord) : State :=
  let r := s.readDesc part vf desc
  match r.1, r.2.graphQueue? vf desc with
  | some d, some q =>
    let k := (((List.range (d.tail - d.head)).map (d.head + ·)).takeWhile fun i => sget 0 q.taken i == 2).length
    if k = 0 then r.2
    else
      let w := r.2.virtWrite part vf (desc.toNat + 40) 8 (d.head + k)
      match w.1 with
      | none => w.2
      | some t => t.modQueue vf desc fun q =>
        { q with
          taken := q.taken.filter fun e => d.head + k ≤ e.1
          appended := q.appended.filter fun e => d.head + k ≤ e.1 }
  | _, _ => r.2

/-- SUCCESSOR_GROUP_LAUNCH (R134). -/
def execSuccessorGroupLaunch (vf : Nat) (desc : BitVec 64) (s : State) : Host.Outcome State Fault Refusal :=
  let s := match (s.vf? vf).bind (·.part) with
    | some part =>
      let done (q : GraphQueue) : Bool := q.taken.any fun e => e.2 == 2
      if (s.graphQueue? vf desc).any done then s.freeHead part vf desc else s
    | none => s
  match s.graphQueue? vf desc, (s.vf? vf).bind (·.part) with
  | some q, some part =>
    let r := s.readDesc part vf desc
    match r.1 with
    | none => .next r.2
    | some d =>
      match (if s.roomForLaunch part s.serial then r.2.successorClaim q d else none) with
      | none => .next s
      | some (n, m) =>
        let b := r.2.virtBytes part vf d.succ 64
        let rec_ := LaunchRecord.ofBytes (b.1.getD [])
        match (if b.1.isNone then none else (b.2.image? q.image).bind (·.kernels[rec_.khdr]?)) with
        | none => .next b.2
        | some k =>
          let s := b.2.modQueue vf desc fun q =>
            { q with taken := (List.range m).foldl (fun t i => sset 0 t (n + i) 1) q.taken }
          let a := d.record n
          let args : Sparse Word := sset 0 (sset 0 (sset 0 (sset 0 [] 0 (BitVec.ofNat 32 a)) 1
            (BitVec.ofNat 32 (a / 2 ^ 32))) 2 (BitVec.ofNat 32 m)) 3 (BitVec.ofNat 32 n)
          .next (s.addLaunch part vf q.image k { rec_ with gridx := 1, gridy := 1 } 1 args none (some (desc, n, m)))
  | _, _ => .next s

end Sys2Proof.Machine
end

