-- ==== Sys2Proof/Machine/Context.lean ====
section
/-!
DEFINITION. Pre-emption (R354 to R361): descheduling a group, its context record, and its resumption.
-/

namespace Sys2Proof.Machine

/-! ## The context record (R356 to R358) -/

/-- The header section (R357). Where the task record of a launch stands is a free value (log entry 127). -/
def Group.contextHeader (g : Group) (gridx khdr : Nat) (now : DWord) : List Byte :=
  let live := g.live.length
  leBytes 0 8 ++ leBytes now.toNat 8 ++ leBytes 0 4 ++ leBytes (g.core % 1024) 2 ++
    leBytes ((if g.undrained then 1 else 0) + if g.pinned then 2 else 0) 1 ++ leBytes g.chans.length 1 ++
    leBytes khdr 2 ++ leBytes g.rdvs.length 2 ++ leBytes live 4 ++ leBytes (g.index % gridx) 4 ++
    leBytes (g.index / gridx) 4 ++ leBytes g.index 8 ++ leBytes g.region 8 ++ leBytes (Config.taskRecord g.launch).toNat 8 ++
    storeBytes g.fmttab 0 16 4 ++ storeBytes g.stall 0 16 8

/-- A gathering rendezvous (R356): team, opcode, packet, masks, and each member's value and target. -/
def Rendezvous.bytes (v : Rendezvous) : List Byte :=
  leBytes v.team 1 ++ leBytes v.op 1 ++ leBytes 0 6 ++ leBytes v.pkt.toNat 8 ++ leBytes v.mask.toNat 4 ++
    leBytes v.arrived.toNat 4 ++ storeBytes v.vals 0 32 4 ++ storeBytes v.olds 0 32 1 ++ leBytes 0 8

/-- A channel (R356). -/
def Channel.bytes (c : Channel) : List Byte :=
  leBytes c.st 1 ++ leBytes (if c.st = 2 then 1 else 0) 1 ++ leBytes c.done 2 ++ leBytes 0 4 ++ leBytes c.cur.toNat 8 ++
    leBytes c.prom.toNat 8 ++ leBytes c.lastf.toNat 8 ++ leBytes 0 32

/-- A reservation record (R200). The offset of scales that an entry has none of may stand at the end of the buffer, past
what 18 bits hold. -/
def Reservation.pack (r : Reservation) : Nat :=
  r.base + (if r.drain then 2 ^ 39 else 0) + r.rows * 2 ^ 40 + r.rowbytes * 2 ^ 48 + (if r.valid then 2 ^ 64 else 0) +
    r.kind * 2 ^ 65 + (if r.cmp then 2 ^ 67 else 0) + r.blk * 2 ^ 68 + r.sofs % 2 ^ 18 * 2 ^ 70 + r.gen * 2 ^ 88 +
    r.desc.toNat * 2 ^ 96

/-- The contents of a B slot: the ready and faulted marks, the load sequence, elements and scales (R356). -/
def Group.slotBytes (g : Group) (slot : Nat) : List Byte :=
  let t := g.tileAt slot (g.slotSeq slot)
  padTo 4096 (leBytes (if t.ready then 1 else 0) 1 ++ leBytes (t.fault.getD 0) 1 ++ leBytes 0 2 ++ leBytes t.seq 4 ++
    leBytes t.fmt.toNat 4 ++ leBytes t.desc.toNat 4 ++ storeBytes t.scales 0 64 2 ++ storeBytes t.elems 0 1024 2)

/-- A tile's bytes: 32 rows of 32 columns, of 4 bytes in an FP32 tile and of 2 in a narrow one (R194, R356). -/
def Group.tileBytes (g : Group) (tile : Nat) : List Byte :=
  storeBytes g.acc (1024 * tile) 1024 (if tile < g.kern.acc32 then 4 else 2)

/-- A fibre's part of a context record. One that is away is written as it stood when it left, with flags bit 4
set (R356). -/
def Fibre.savedRecord (fb : Fibre) (window : Nat) (now : DWord) : List Byte :=
  if fb.place = .home then fb.recordAll window (fb.readyTicks now).toNat
  else fb.leftAs.mapIdx fun k b => if k = 90 then b ||| 16 else b

/-- The context record of a group (R356). -/
def Group.contextRecord (g : Group) (gridx khdr : Nat) (now : DWord) : List Byte :=
  g.contextHeader gridx khdr now ++
    padTo 64 (g.live.flatMap fun fb => fb.savedRecord g.kern.window now) ++
    padTo 64 (g.rdvs.flatMap Rendezvous.bytes) ++ padTo 64 (g.chans.flatMap Channel.bytes) ++
    (List.range 32).flatMap (fun i => leBytes (g.entry i).pack 16) ++
    padTo 64 ((List.range g.tiles).flatMap fun t => leBytes (sget 0 g.saveq t) 2) ++
    padTo 64 (mrb g.ob 0 g.kern.opbytes) ++
    padTo 64 ((List.range g.units).flatMap g.slotBytes) ++ (List.range g.tiles).flatMap g.tileBytes

/-! ## CONTEXT_SAVE -/

/-- Whether every channel of a group has paused or halted (R268). -/
def Group.chansQuiet (g : Group) : Bool :=
  g.chans.all fun c => c.job.isNone && c.owed.isEmpty && (c.st = 0 || c.st = 3 || c.paused)

/-- Whether a group that is being descheduled has come to rest: no run, no trap still to be entered (R353), channels
paused with their writes performed (R354 steps 1 to 4). -/
def State.atRest (s : State) (g : Group) : Bool :=
  g.st == .stopping && !s.inRun g.gid && !(g.fibres.any (·.mustEnter)) && g.chansQuiet && !s.stopped g.part

/-- Whether every store of a group is acknowledged (R360). -/
def Group.drained (g : Group) : Bool := g.fibres.all (·.unacked == 0)

/-- A group as its save leaves it: the ages of its ready fibres kept, its sequencers and gathers at their
boundaries (R354, R358). -/
def Group.saved (g : Group) (now : DWord) (frame : Nat) : Group :=
  { g with
    st := .descheduled
    drain := none
    stalled := false
    frame := some frame
    fibres := g.fibres.map fun fb => { fb with age := fb.readyTicks now, wrote := [], synced := false } }

/-- The cores that the fibres of a group have written from: its own, and those its fibres are landed on. -/
def Group.coresUsed (g : Group) : List Nat :=
  (g.core :: g.fibres.filterMap fun fb => match fb.place with | .landed c => some c | _ => none).dedup

/-- The entries of a page table that may be valid: those that memory, a cache or a notice holds a byte of. -/
def State.tableEntries (s : State) (table : Nat) : List Nat :=
  let mine (a : Nat) : Option Nat := if table ≤ a && a < table + 16384 then some ((a - table) / 8) else none
  let ofLine (l : Nat) : List Nat := (List.range 32).filterMap fun k => mine (256 * l + 8 * k)
  (s.mem.filterMap (fun c => mine c.1) ++ s.copies.flatMap (fun c => ofLine c.line) ++
    s.notices.flatMap fun n => ofLine n.line).dedup

/-- Whether a leaf below a table of a level maps one of n frames from the first (R335, R336). -/
def State.mapsFrames (s : State) (lo n : Nat) : Nat → Nat → Bool
  | 0, _ => false
  | level + 1, table =>
    (s.tableEntries table).any fun i =>
      let e := BitVec.ofNat 64 (s.readCoherent (table + 8 * i) 8).1
      pteV e &&
        if pteLeaf e then pteAddr e / 65536 < lo + n && lo < pteAddr e / 65536 + leafPages level
        else s.mapsFrames lo n level (pteAddr e)

/-- Whether n frames can take the record of a group: they are its partition's, no page table of its virtual function maps
them, and no stack that homes them is under reset (R356, R363, R373). -/
def State.maySave (s : State) (g : Group) (frame n : Nat) : Bool :=
  ((List.range n).all fun k => s.owns g.part ((frame + k) * pageBytes) && s.homeUp ((frame + k) * pageBytes)) &&
    !(s.vf? g.vf).any fun v => s.mapsFrames frame n 4 v.tableRoot.toNat

/-- CONTEXT_SAVE (R354 steps 4 to 6): the scoreboards land and the drain begins; once it has ended the
writes are released at scope D, the record is written and the core's resources return. A frame that the record may not
be written to is not taken (R356, R363). -/
def execContextSave (gid frame : Nat) (s : State) : Host.Outcome State Fault Refusal :=
  match s.group? gid with
  | none => .next s
  | some g =>
    let khdr := match s.launch? g.launch with
      | some l => l.khdr
      | none => 0
    let frames := ((g.contextRecord g.gridx khdr s.tick).length + pageBytes - 1) / pageBytes
    if !s.atRest g || !s.maySave g frame frames then .next s
    else
      let g := { g.restSeqs with fibres := g.fibres.map (·.landAll), drain := some (g.drain.getD s.tick) }
      let s := s.modGroup gid fun _ => g
      if !g.drained && !g.stalled then .next s
      else
        let s := g.coresUsed.foldl (fun s c => s.release c 4) s
        let s := { s with
          mem := mwb s.mem (frame * pageBytes) (g.contextRecord g.gridx khdr s.tick) }
        .next (((s.modGroup gid (·.saved s.tick frame)).recharge g.region).dropPair g.core)

/-! ## PREEMPT, TICK_BUDGET_EXHAUSTED and RESUME_GROUP -/

/-- A command refused: the resource it names is not the partition's (R352). -/
def State.refuse (s : State) (part : Nat) : Host.Outcome State Fault Refusal := .next (s.status part true)

/-- A group of a partition that has not ended. -/
def State.groupOf (s : State) (part gid : Nat) : Option Group :=
  (s.group? gid).bind fun g => if g.part = part ∧ g.exit.isNone then some g else none

/-- PREEMPT: no bundle of the group starts a new run (R352, R354 step 1). -/
def execPreempt (part gid : Nat) (s : State) : Host.Outcome State Fault Refusal :=
  match s.groupOf part gid with
  | none => s.refuse part
  | some g =>
    let s := if g.st = .placed then s.modGroup gid fun g => { g with st := .stopping } else s
    .next (s.status part false)

/-- Whether a region's resident ticks have reached its budget (R112). -/
def State.exhausted (s : State) (part block : Nat) : Bool :=
  let b := s.tickBudget part block
  b ≠ 0 && b ≤ s.regionField block 64 8

/-- The placed groups of a region and its descendants. -/
def State.placedIn (s : State) (block : Nat) : List Group := (s.groupsIn block).filter (·.st == .placed)

/-- TICK_BUDGET_EXHAUSTED: every group of the region and its descendants is descheduled, and the supervisor
is notified (R112). -/
def execTickBudgetExhausted (block : Nat) (s : State) : Host.Outcome State Fault Refusal :=
  match s.placedIn block with
  | [] => .next s
  | g :: _ =>
    if !s.exhausted g.part block then .next s
    else
      let l := (s.placedIn block).map (·.gid)
      let s := { s with
        groups := change (fun h => l.contains h.gid) (fun h => { h with st := .stopping, overBudget := true })
          s.groups }
      .next (s.report g.part (.budget block))

/-- The cores on which a descheduled group may resume (R359, R361, R375). -/
def Group.resumeCores (g : Group) : List Nat :=
  if g.pinned || g.undrained then [g.core] else clusterCores (clusterOf g.core)

/-- A resumed fibre: its age is kept, and its wait tells a passed wall deadline from one that passes now
(R103, R358). -/
def Fibre.resumed (fb : Fibre) (now : DWord) : Fibre :=
  { fb with
    rdy := now - fb.age
    wait := fb.wait.map fun w => { w with resumed := true } }

/-- A group as it resumes on a core (R359). -/
def Group.resumed (g : Group) (now : DWord) : Group :=
  { g with
    resume := false
    frame := none
    overBudget := false
    fibres := g.fibres.map (·.resumed now)
    chans := g.chans.map fun c => { c with paused := false } }

/-- Whether a group is descheduled and nothing but the lack of a core keeps it so. -/
def State.mayResume (s : State) (g : Group) : Bool :=
  g.st == .descheduled && g.exit.isNone && s.stackUp (stackOf g.core) && !s.stopped g.part

/-- Where a descheduled group resumes now; none when no core fits. -/
def State.resumeSpot (s : State) (g : Group) : Option Group :=
  if s.mayResume g then s.coreFor g g.resumeCores true (g.pinned || g.undrained) else none

/-- The group that the scheduler makes give way to one that resumes (R354). -/
def State.resumeVictim (s : State) (g : Group) : Option Group :=
  if s.mayResume g then s.victim g g.resumeCores true (g.pinned || g.undrained) else none

/-- RESUME_GROUP: a descheduled group is placed again on a core of its cluster; the resume acquires at scope
D (R359). A group that no core takes waits for one, for which the scheduler may make room (R354), and the command has its
status at once. -/
def execResumeGroup (part gid : Nat) (s : State) : Host.Outcome State Fault Refusal :=
  match s.groupOf part gid with
  | none => s.refuse part
  | some g =>
    let s := if g.resume then s else s.status part false
    match s.resumeSpot g with
    | none =>
      let t := if g.st = .placed then s else s.modGroup gid fun g => { g with resume := true }
      .next (match s.resumeVictim g with
        | some h => t.makeRoom h.gid
        | none => t)
    | some h =>
      let s := (s.acquire h.core 4).modGroup gid fun _ => h.resumed s.tick
      .next (s.recharge g.region)

end Sys2Proof.Machine
end

