-- ==== Sys2Proof/Machine/Endings.lean ====
section
/-!
DEFINITION. Ends of groups and launches: kills (R216, R352, R361), the return of a group's allotments
(R131), exit records (R410), the completion of a host command (R390).
-/

namespace Sys2Proof.Machine

/-! ## Completions (R390) -/

/-- Where a host address lies among the physical addresses (R331). -/
def hostAddr (a : Nat) : Nat := 2 ^ 49 + a % 2 ^ 49

/-- Bytes written one after the other at scope Y, from a physical address (R332). -/
def State.putBytes (s : State) (pa : Nat) : List Byte → State
  | [] => s
  | b :: bs => (s.writeCoherent pa 1 b.toNat).putBytes (pa + 1) bs

/-- The queue of a virtual function. -/
def State.queue? (s : State) (vf q : Nat) : Option HostQueue := (s.vf? vf).bind fun v => v.queues.find? (·.q == q)

/-- A queue of a virtual function changed; one that has never been written rests. -/
def State.modHostQueue (s : State) (vf q : Nat) (u : HostQueue → HostQueue) : State :=
  s.modVf vf fun v => { v with queues := upsert (·.q == q) { q := q } u v.queues }

/-- The completion of a command: 32 bytes at its ring position, after every write is performed at scope Y, then
the queue's vector (R390). -/
def State.complete (s : State) (vf q pos status value : Nat) : State :=
  match s.queue? vf q with
  | none => s
  | some h =>
    match h.cmds.find? (·.pos == pos) with
    | none => s
    | some c =>
      let bytes := leBytes pos 4 ++ leBytes status 4 ++ leBytes s.tick.toNat 8 ++ leBytes value 8 ++ leBytes c.tag.toNat 8
      let part := ((s.vf? vf).bind (·.part)).getD 0
      let s := (s.quiesce part).putBytes (hostAddr (h.cbase.toNat + 32 * (pos % 2 ^ h.lgn))) bytes
      let s := s.modHostQueue vf q fun h => { h with cmds := h.cmds.filter (·.pos != pos) }
      { s with msix := s.msix ++ [(vf, h.vector)] }

/-! ## Kills -/

/-- A group killed as in R216 steps 1 to 4: every fibre ends at once, tiles, operand buffer and B slots are
zero-filled, the stores performed stand. A channel that a violation has frozen stops where it is. The FIFO entries of a pair
to which only a descheduled group was pinned go with it (R375). -/
def State.killGroup (s : State) (gid cause : Nat) (code : Word) : State :=
  let pair (s : State) : State := match s.group? gid with
    | some g => if g.gone then s.dropPair g.core else s
    | none => s
  let s := pair (s.finishGroup gid cause code)
  let drop (c : Core) : Core := { c with run := c.run.filter fun r => r.grp != gid }
  let s : State := { s with cores := s.cores.map drop }
  s.modGroup gid fun g =>
    let g := (g.live.map Fibre.fid).foldl (fun (g : Group) f => g.endFibre f 0) g
    { g with
      frozen := false
      res := []
      ob := []
      btiles := []
      acc := []
      obBad := []
      accBad := []
      chans := change (fun c => g.frozen || c.frozen) (fun c => { c with frozen := false, st := 0, job := none }) g.chans }

/-- Kills of a linear index of a launch so far (R216). -/
def Launch.killsOf (l : Launch) (index : Nat) : Nat := sget 0 l.kills index

/-- Whether a kill is followed by a relaunch: both flags are set and it is not the fourth (R23, R216). -/
def Group.relaunches (g : Group) (kills : Nat) : Bool := g.pol.relaunch && g.kern.relaunch && kills < 4

/-- GROUP_KILL: the operand fetch of an MTILE has faulted (R216). -/
def execGroupKill (gid : Nat) (s : State) : Host.Outcome State Fault Refusal :=
  match s.group? gid with
  | none => .next s
  | some g =>
    match g.killAt with
    | none => .next s
    | some va =>
      if g.exit.isSome then .next s
      else
        let s := (s.killGroup gid 2 0).modLaunch g.launch fun l =>
          { l with kills := sset 0 l.kills g.index (l.killsOf g.index + 1) }
        let kills := match s.launch? g.launch with
          | some l => l.killsOf g.index
          | none => 4
        .next (if g.relaunches kills then s else s.report g.part (.killed gid (s.faultDomain g.part g.region) va))

/-- KILL: the supervisor ends a group, without relaunch (R352). -/
def execKill (part gid : Nat) (s : State) : Host.Outcome State Fault Refusal :=
  match s.groupOf part gid with
  | none => s.refuse part
  | some _ => .next ((s.killGroup gid 3 0).status part false)

/-- DECLARE_STORES_LOST: the group is killed, its unacknowledged stores no longer count, and the exit record
names the loss (R361); which address the record gives, the spec leaves open. -/
def execDeclareStoresLost (part gid : Nat) (s : State) : Host.Outcome State Fault Refusal :=
  match s.groupOf part gid with
  | none => s.refuse part
  | some _ =>
    let d := s.draw
    let s := (d.2.killGroup gid 6 0).modGroup gid fun g =>
      { g with
        killAt := some d.1
        undrained := false
        fibres := g.fibres.map fun fb => { fb with unacked := 0, slotOn := none, slots := [] } }
    .next (({ s with peers := s.peers.filter fun w => !(w.grp == gid && w.store) }).status part false)

/-! ## GROUP_ALLOTMENT_RETURN -/

/-- The exit record of a group that has ended, by the tick of its end (R410). -/
def Group.exitRecord (g : Group) (khdr kills : Nat) (now : DWord) : List Byte :=
  let e := g.exit.getD (0, 0)
  let fva := if e.1 = 2 ∨ e.1 = 6 then (g.killAt.getD 0).toNat else 0
  leBytes (g.endedAt.getD now).toNat 8 ++ leBytes 0 8 ++ leBytes g.placedAt.toNat 8 ++ leBytes g.index 4 ++ leBytes e.2.toNat 4 ++
    leBytes e.1 1 ++ leBytes kills 1 ++ leBytes khdr 2 ++ leBytes g.core 4 ++ leBytes fva 8 ++ leBytes 0 16 ++
    storeBytes g.stall 0 16 8

/-- The exit record appended to the ring of the virtual function, if the supervisor has named one (R410). -/
def State.writeExit (s : State) (g : Group) (khdr kills : Nat) : State :=
  match (s.vf? g.vf).bind (·.exitRing) with
  | none => s
  | some (base, n, k) =>
    (s.putBytes (base + 192 * k) (g.exitRecord khdr kills s.tick)).modVf g.vf fun v =>
      { v with exitRing := some (base, n, if k + 1 < n then k + 1 else 0) }

/-- The records a successor group claimed freed: head moves past the freed records in order (R134). -/
def State.freeClaim (s : State) (part vf : Nat) (desc : DWord) (n m : Nat) : State :=
  (s.modQueue vf desc fun q =>
    { q with taken := (List.range m).foldl (fun t i => sset 0 t (n + i) 2) q.taken }).freeHead part vf desc

/-- A launch after one of its groups has ended for good: the exit code of the lowest-indexed group with a
nonzero one is kept (R390). -/
def Launch.note (l : Launch) (g : Group) : Launch :=
  let e := g.exit.getD (0, 0)
  let code := if e.2 = 0 then l.code
    else match l.code with
      | some (i, v) => if i ≤ g.index then some (i, v) else some (g.index, e.2)
      | none => some (g.index, e.2)
  { l with ended := l.ended + 1, code := code, killed := l.killed || 2 ≤ e.1 }

/-- A launch whose last group has ended: its command completes and its records are freed (R134, R390). -/
def State.endLaunch (s : State) (id : Nat) : State :=
  match s.launch? id with
  | none => s
  | some l =>
    if l.ended < l.total then s
    else
      let s := match l.claim with
        | some (desc, n, m) => s.freeClaim l.part l.vf desc n m
        | none => s
      let s := match l.origin with
        | some (q, pos, _) =>
          s.complete l.vf q pos (if l.killed then 18 else 0) (match l.code with | some (_, v) => v.toNat | none => 0)
        | none => s
      ({ s with launches := s.launches.filter (·.id != id) }).modPart l.part fun q =>
        { q with regions := q.regions.filter (· ≠ l.region) }

/-- Whether an ended group holds its allotments no longer: its stores are acknowledged, its channels have
stopped, no run of it is in progress (R131). What its end writes waits for a stack under reset (R373). -/
def State.returnable (s : State) (g : Group) : Bool :=
  g.st == .ended && g.drained && s.homeUp (hostAddr 0) &&
    (((s.vf? g.vf).bind (·.exitRing)).all fun r => s.homeUp (r.1 + 192 * r.2.2)) && !s.inRun g.gid && !s.stopped g.part &&
    g.chans.all fun c => c.job.isNone && c.owed.isEmpty && (c.st = 0 || c.st = 3)

/-- GROUP_ALLOTMENT_RETURN (R131). -/
def execGroupAllotmentReturn (gid : Nat) (s : State) : Host.Outcome State Fault Refusal :=
  match s.group? gid with
  | none => .next s
  | some g =>
    if !s.returnable g then .next s
    else
      let khdr := match s.launch? g.launch with
        | some l => l.khdr
        | none => 0
      let kills := match s.launch? g.launch with
        | some l => l.killsOf g.index
        | none => 0
      let again := (g.exit.getD (0, 0)).1 == 2 && g.relaunches kills
      let s := s.writeExit g khdr kills
      let s := { s with
        groups := s.groups.filter (·.gid != gid)
        peers := s.peers.filter (·.grp != gid) }
      let s := (s.recharge g.region).dropPair g.core
      let s := s.modLaunch g.launch fun l =>
        if again then { l with again := l.again ++ [(g.index, stackOf g.core)] } else l.note g
      .next (s.endLaunch g.launch)

end Sys2Proof.Machine
end

