-- ==== Sys2Proof/Machine/MemoryEvents.lean ====
section
/-!
DEFINITION. Steps of the memory system that no word takes: page walks (R339), evictions and their notices
(R230, R329, R330), ownership and forced publishes (R322, R323, R328), soft errors, the patrol and page
scrubs (R241, R242, R369, R370), and the supervisor's commands over pages (R333, R340, R341).
-/

namespace Sys2Proof.Machine

/-! ## Walks -/

/-- PAGE_WALK: a walk that holds a slot of the walker pool runs, once for all that ask (R338, R339). -/
def execPageWalk (vf page : Nat) (s : State) : Host.Outcome State Fault Refusal :=
  match s.walks.find? fun w => w.vf == vf && w.page == page && w.started with
  | none => .next s
  | some w => .next (s.runWalk (w.askers.headD 0) vf page w.write w.by_)

/-! ## Caches and directories -/

/-- CAPACITY_EVICTION (R230, R329). -/
def execCapacityEviction (unit : CacheId) (line : Nat) (s : State) : Host.Outcome State Fault Refusal :=
  .next (s.evict unit line)

/-- A list without its first item that meets a test. -/
def dropFirst {α : Type} (p : α → Bool) : List α → List α
  | [] => []
  | x :: xs => if p x then xs else x :: dropFirst p xs

/-- EVICTION_NOTICE: the parent directory applies a child's next notice (R329). -/
def execEvictionNotice (child : CacheId) (s : State) : Host.Outcome State Fault Refusal :=
  match s.notices.find? (·.child == child) with
  | none => .next s
  | some n => .next (({ s with notices := dropFirst (·.child == child) s.notices }).applyNotice n)

/-- GONE_REPLY: a request has crossed a child's notice about a line. The child's reply names its latest notice; the
parent holds the retry until it has applied the child's notices up to that one, in their sequence, and then serves
it without the child (R330). -/
def execGoneReply (child : CacheId) (line : Nat) (s : State) : Host.Outcome State Fault Refusal :=
  if s.notices.any fun n => n.child == child && n.line == line then .next (s.drain (·.child == child)) else .next s

/-- OWNERSHIP_REQUEST: a core takes exclusive ownership of an unplaced line; a placed one stays owned at its
placement level, and one of host bias is cached no nearer than its home (R328, R332). One for a line of
another partition names a cluster outside the line's: it is not performed, and the group that stands on the core is frozen
(R367, R368). -/
def execOwnershipRequest (core line : Nat) (s : State) : Host.Outcome State Fault Refusal :=
  if !s.holdsAddr (s.clusterPart (clusterOf core)) (line * 256) then
    .next (match s.groupsOn core with
      | [] => s
      | g :: _ => s.violate g.part (.group g.gid))
  else
    match s.line? line with
    | some _ => .next (s.settle line)
    | none => .next (if s.hostBiased (line * 256) then s.settle line else s.own core line 0xF)

/-- Whether a forced publish of a holder for a line has been sent and not performed. -/
def Publish.isSent (q : Publish) (holder : CacheId) (line : Nat) : Bool :=
  q.holder == holder && q.line == line && q.stage == .sent

/-- The forced publishes sent to a holder for a line moved to a stage. -/
def State.stagePublishes (s : State) (holder : CacheId) (line : Nat) (g : PublishStage) : State :=
  { s with publishes := change (·.isSent holder line) (fun q => { q with stage := g }) s.publishes }

/-- A holder's writes performed at the scope it shares with a reader: its stack's when the reader stands on that
stack, else the device's (R322). -/
def State.publishFrom (s : State) (holder : CacheId) (reader : Nat) : State :=
  let near (k : Nat) : State :=
    let s := s.publishCluster k
    if k / 16 = stackOf reader then s else s.publishL2 (k / 16) (s.clusterPart k)
  match holder with
  | .l1 c => near (clusterOf c)
  | .ck k => near k
  | .l2 st => s.publishL2 st (s.clusterPart (clusterOf reader))

/-- FORCED_PUBLISH: a holder performs its writes at the common scope for the reads that wait for it (R322). -/
def execForcedPublish (holder : CacheId) (line : Nat) (s : State) : Host.Outcome State Fault Refusal :=
  let readers := (s.publishes.filter (·.isSent holder line)).map (·.reader)
  .next ((readers.foldl (fun s c => s.publishFrom holder c) s).stagePublishes holder line .performed)

/-- Whether a forced publish of a holder for a line has not completed within the drain deadline (R323, R360). -/
def Publish.isLate (q : Publish) (holder : CacheId) (line : Nat) (now : DWord) : Bool :=
  q.isSent holder line && q.since.toNat + drainTicks ≤ now.toNat

/-- FORCED_PUBLISH_DEADLINE: the reads are served nonetheless, and the supervisor is notified (R323). -/
def execForcedPublishDeadline (holder : CacheId) (line : Nat) (s : State) : Host.Outcome State Fault Refusal :=
  let late := s.publishes.filter (·.isLate holder line s.tick)
  let t : State :=
    { s with publishes := change (·.isLate holder line s.tick) (fun q => { q with stage := .late }) s.publishes }
  .next (((late.map fun q => s.clusterPart (clusterOf q.reader)).dedup).foldl (fun t p => t.report p (.publish line)) t)

/-- The translation of a page by one core dropped. -/
def State.dropCorePage (s : State) (core vf page : Nat) : State :=
  { s with
    tlb := s.tlb.filter fun t => !(t.core == some core && t.vf == vf && t.page ≤ page && page < t.page + t.pages) }

/-- MOVED_REFUSAL: an access under a translation made before a switch is not performed at the old home; its
requester translates again (R333). -/
def execMovedRefusal (core vf page : Nat) (s : State) : Host.Outcome State Fault Refusal :=
  .next (s.dropCorePage core vf page)

/-! ## Soft errors -/

/-- One byte of a word's error record after more of its bits have flipped. -/
def flipByte (w : BitVec 288) (flips : BitVec 256) (k : Nat) : BitVec 8 × Bool :=
  let old := w.extractLsb' (8 * k) 8
  let new := flips.extractLsb' (8 * k) 8
  let written := w.getLsbD (256 + k)
  if written then (if new = 0 then (old, true) else (new, false)) else (old ^^^ new, false)

/-- A word's error record after more of its bits have flipped. -/
def flipWord (w : BitVec 288) (flips : BitVec 256) : BitVec 288 :=
  let bytes := (List.range 32).map (flipByte w flips)
  if bytes.all fun b => b.1 == 0 then 0
  else
    let low := (bytes.mapIdx fun k b => b.1.toNat * 2 ^ (8 * k)).foldl (· + ·) 0
    let high := (bytes.mapIdx fun k b => if b.2 then 2 ^ (256 + k) else 0).foldl (· + ·) 0
    BitVec.ofNat 288 (low + high)

/-- Bits of a 32-byte word of HBM or a column flip, with its check bits recording which (R241). Whey is never
protected (R243); host memory is not the device's. -/
def State.flipMemory (s : State) (addr : Nat) (flips : BitVec 256) : State :=
  let k := addr / 32
  if addr / 2 ^ 49 % 2 = 1 && addr < 2 ^ 50 then s
  else
    let mem := (List.range 32).foldl
      (fun m i => mwrite m (32 * k + i) (mread m (32 * k + i) ^^^ flips.extractLsb' (8 * i) 8)) s.mem
    if 2 ^ 52 ≤ addr then { s with mem := mem }
    else { s with mem := mem, errors := sset 0 s.errors k (flipWord (sget 0 s.errors k) flips) }

/-- An error in a group's operand stores: one flipped bit is corrected where it stands, more make the word
uncorrectable until it is written in full (R195). The width of a code word is the model's (log entry 129). -/
def State.flipStore (s : State) (gid : Nat) (flips : BitVec 256) (u : Group → Group) : State :=
  match s.group? gid with
  | none => s
  | some g =>
    if flips = 0 || g.st == .descheduled then s
    else if correctable.popCount256 flips = 1 then s.operandError g true
    else s.modGroup gid u

/-- The contents of a slot that landed last made uncorrectable (R195). -/
def Group.spoilSlot (g : Group) (slot : Nat) : Group :=
  let seq := ((g.btiles.filter fun t => t.slot == slot && t.ready).map (·.seq)).foldl max 0
  if g.units ≤ slot then g
  else
    { g with
      btiles := upsert (fun t => t.slot == slot && t.seq == seq) { slot := slot, seq := seq, ready := true }
        (fun t => if t.fault.isSome then t else { t with fault := some 2, flawed := true }) g.btiles }

/-- SOFT_ERROR (R195, R241). -/
def execSoftError (place : ErrorPlace) (flips : BitVec 256) (s : State) : Host.Outcome State Fault Refusal :=
  match place with
  | .memory addr => .next (s.flipMemory addr flips)
  | .operand g k =>
    .next (s.flipStore g flips fun g => if 32 * k < g.kern.opbytes then { g with obBad := g.obBad ++ [k] } else g)
  | .slot g b => .next (s.flipStore g flips (·.spoilSlot b))
  | .accumulator g k =>
    .next (s.flipStore g flips fun g => if k < 1024 * g.tiles then { g with accBad := g.accBad ++ [k] } else g)

/-- SCRUB_PATROL: the scrub engine corrects a correctable error of a strong or light page in place (R242). -/
def execScrubPatrol (word : Nat) (s : State) : Host.Outcome State Fault Refusal :=
  let w := sget 0 s.errors word
  let prot := s.protOf (32 * word)
  if w = 0 || prot = 2 || !correctable prot w then .next s
  else .next (s.correctWord ((s.ownerOf (32 * word)).getD 0) word)

/-! ## Page scrubs (R369, R370) -/

/-- Bytes of memory from an address zero-filled: their errors, lines, notices and cached copies of the old owner
are dropped without writeback (R369). -/
def State.zeroBytes (s : State) (lo n : Nat) : State :=
  let covered (line : Nat) : Bool := lo ≤ 256 * line && 256 * line + 256 ≤ lo + n
  { s with
    mem := mzero s.mem lo n
    errors := s.errors.filter fun e => !(lo ≤ 32 * e.1 && 32 * e.1 + 32 ≤ lo + n)
    lines := s.lines.filter fun l => !covered l.line
    copies := s.copies.filter fun c => !covered c.line
    notices := s.notices.filter fun m => !covered m.line
    fetched := s.fetched.filter fun c => !covered c.line }

/-- A frame zero-filled, its whey with it (R243, R369). -/
def State.zeroFrame (s : State) (frame : Nat) : State :=
  (s.zeroBytes (frame * 65536) 65536).zeroBytes (wheyBase frame) 8192

/-- Bytes of a cluster's column zero-filled and their full bits cleared (R253, R369). -/
def State.zeroColumns (s : State) (cluster lo hi : Nat) : State :=
  let a := poolBase cluster + lo
  let t := s.zeroBytes a (hi - lo)
  { t with full := t.full.filter fun q => !(a / 128 ≤ q.1 && q.1 * 128 + 128 ≤ poolBase cluster + hi) }

/-- SCRUB_HOLD_END: the scrub engine has done with a frame, and writes to it perform again (R370). -/
def execScrubHoldEnd (frame : Nat) (s : State) : Host.Outcome State Fault Refusal :=
  .next { s with
    scrubbing := s.scrubbing.filter (· ≠ frame)
    heldWrites := sdel frame s.heldWrites }

/-- The groups and fibres that a core holds changed: the groups placed on it, and the fibres that stand there. -/
def State.modHeld (s : State) (core : Nat) (u : Group → Group) (v : Fibre → Fibre) : State :=
  let there (g : Group) (fb : Fibre) : Bool := match fb.place with
    | .home => g.core = core && g.st != .descheduled
    | .landed c => c = core
    | _ => false
  { s with
    groups := s.groups.map fun g =>
      let g := { g with fibres := g.fibres.map fun fb => if there g fb then v fb else fb }
      if g.core = core && g.st != .descheduled then u g else g }

/-- A fibre whose registers are zero-filled (R369). -/
def Fibre.wipe (fb : Fibre) : Fibre := { fb with ctx := { fb.ctx with regs := [] }, poison := 0, badAt := [] }

/-- The translations to a frame invalidated (R369). -/
def State.dropFrame (s : State) (frame : Nat) : State :=
  let maps (t : TlbEntry) : Bool := pteAddr t.entry / 65536 ≤ frame && frame < pteAddr t.entry / 65536 + t.pages
  { s with tlb := s.tlb.filter (!maps ·) }

/-- What the scrub engine does to a resource of a partition; none when the resource is not its own (R369). -/
def State.scrubResource (s : State) (part : Nat) (what : Resource) : Option State :=
  let own (c : Nat) : Bool := (s.coresOf part).contains c
  let stores (c : Nat) (u : Group → Group) : Option State := if own c then some (s.modHeld c u id) else none
  match what with
  | .frame n =>
    if s.owns part (n * 65536) then
      let t := (s.zeroFrame n).dropFrame n
      some { t with scrubbing := if t.scrubbing.contains n then t.scrubbing else t.scrubbing ++ [n] }
    else none
  | .columns k => if own (coreAt k 0) then some (s.zeroColumns k 0 (2 ^ 24)) else none
  | .columnRange k lo hi =>
    if own (coreAt k 0) && decide (lo ≤ hi) && decide (hi ≤ 2 ^ 24) then some (s.zeroColumns k lo hi) else none
  | .registerFile c =>
    if own c then some (s.modHeld c id Fibre.wipe) else none
  | .operandBuffer c => stores c fun g => { g with ob := [], obBad := [] }
  | .bBuffer c => stores c fun g =>
    { g with btiles := g.btiles.map fun t => if t.ready then { slot := t.slot, seq := t.seq, ready := true } else t }
  | .accumulators c => stores c fun g => { g with acc := [], accBad := [] }
  | .controlStore => some (s.modPart part fun q => { q with store := q.store.filter (!·.images.isEmpty) })
  | .traceBuffer c =>
    if own c then some (s.modCore c fun k => { k with trace := { k.trace with buf := [], late := [] } }) else none
  | .watchpoints c => if own c then some (s.modCore c fun k => { k with watch := [] }) else none
  | .counters => some (s.modPart part fun q => { q with counters := [] })
  | .verticalFifo c => if own c then some (s.modCore c fun k => { k with fifo := [], spill := [] }) else none

/-- SCRUB (R352, R369). -/
def execScrub (part : Nat) (what : Resource) (s : State) : Host.Outcome State Fault Refusal :=
  match s.scrubResource part what with
  | some t => .next (t.status part false)
  | none => s.refuse part

/-! ## Pages (R333, R340, R341) -/

/-- Whether a virtual function is attached to a partition. -/
def State.attached (s : State) (part vf : Nat) : Bool := (s.vf? vf).any (·.part == some part)

/-- The translations and walks of a page range dropped, and its completion left to wait for the stores of the
function's fibres that are not acknowledged and for its requests to peers (R341). -/
def State.invalidate (s : State) (part vf lo hi : Nat) (frames : Option (Nat × Nat)) : State :=
  let mine := s.groups.filter (·.vf == vf)
  let owed := mine.flatMap fun g =>
    g.fibres.filterMap fun fb => if fb.unacked = 0 then none else some (g.gid, fb.fid, fb.unacked)
  let peers := (s.peers.filter fun w => mine.any (·.gid == w.grp)).map (·.id)
  let t := s.dropPages vf lo hi
  ({ t with
    invalidations := t.invalidations ++
      [{ part := part, vf := vf, lo := lo, hi := hi, owed := owed, peers := peers, frames := frames }] } : State).closeInvalidations

/-- INVALIDATE: the range of pages loses its translations and its walks; the command completes once every access
made under them has been performed and acknowledged (R341). -/
def execInvalidate (part vf lo hi : Nat) (s : State) : Host.Outcome State Fault Refusal :=
  if !s.attached part vf then s.refuse part else .next (s.invalidate part vf lo hi none)

/-- Whether an LDWT's wait is held until the end of a fault record of a page, which its test has joined (R224, R340). -/
def Wait.heldFor (w : Wait) (page : Nat) : Bool := w.op == 0x6C && w.bound == 1 && pageOf w.a.toNat == page

/-- Whether a fibre's wait is. -/
def Fibre.waitsOn (fb : Fibre) (page : Nat) : Bool := fb.wait.any (·.heldFor page)

/-- A fibre whose waits for a page's record are tested again. -/
def Fibre.rejoin (fb : Fibre) (page : Nat) : Fibre :=
  let free (w : Wait) : Wait := if w.heldFor page then { w with bound := 0 } else w
  { fb with wait := fb.wait.map free, saved := fb.saved.map free }

/-- Whether a trap holds a fibre for a translation fault on a page (R340). -/
def Trap.onPage (t : Trap) (page : Nat) : Bool := t.kind = 10 && pageOf t.fva.toNat = page

/-- A fibre released from its hold: it continues at a packet (R352). -/
def Fibre.release (fb : Fibre) (pc : DWord) (now : DWord) : Fibre :=
  { fb with
    held := none
    sent := false
    pc := pc
    mc := if pc = fb.pc then fb.mc else none
    rdy := now
    wait := fb.wait.map fun w => { w with resumed := true } }

/-- The fibres that a fault on a page holds, by group (R340). -/
def State.joined (s : State) (vf page : Nat) : List (Nat × Nat × Trap) :=
  (s.groups.filter (·.vf == vf)).flatMap fun g =>
    g.fibres.filterMap fun fb => match fb.held with
      | some t => if t.onPage page then some (g.gid, fb.fid, t) else none
      | none => none

/-- The fibres whose LDWT has joined the record of a page, by group, each with the trap it would take (R340). -/
def State.joinedWaits (s : State) (part vf page : Nat) : List (Nat × Nat × Trap) :=
  let cause := ((s.record? part vf page).map (·.cause)).getD 0
  (s.groups.filter (·.vf == vf)).flatMap fun g =>
    (g.fibres.filter (·.waitsOn page)).map fun fb =>
      let own := 1#32 <<< memberOf fb.fid
      (g.gid, fb.fid,
        { kind := 10, cause := cause, fva := (fb.wait.map (·.a)).getD 0, epc := (fb.wait.map (·.pkt)).getD 0
          mask := own, failing := own })

/-- A page's fault record ended, and what waits for it without a fibre set going again (R340). -/
def State.endRecord (s : State) (part vf page : Nat) : State :=
  let wake (g : Group) : Group :=
    { g with
      chans := change (·.stuck == some page) (fun c => { c with stuck := none }) g.chans
      gathers := change (·.stuck == some page) (fun q => { q with stuck := none }) g.gathers
      btiles := change (·.stuck == some page) (fun t => { t with stuck := none }) g.btiles
      fibres := g.fibres.map (·.rejoin page) }
  { s with
    packets := change (fun p => p.part == part && p.stuck == some page && p.through.any (·.1 == vf))
      (fun p => { p with stuck := none }) s.packets
    faults := s.faults.filter fun r => !(r.part == part && r.vf == vf && r.page == page)
    groups := s.groups.map fun g => if g.vf == vf then wake g else g }

/-- RESOLVED: every joined requester translates again (R340). -/
def execResolved (part vf page : Nat) (s : State) : Host.Outcome State Fault Refusal :=
  if !s.attached part vf then s.refuse part
  else
    let s := (s.joined vf page).foldl
      (fun s q => s.modFibre q.1 q.2.1 fun fb => fb.release fb.pc s.tick) s
    .next ((s.endRecord part vf page).status part false)

/-- The step of a gather that a page stops: 0 its index list, 1 its rows and scales (R212). -/
def Gather.stepOn (q : Gather) (page : Nat) : Nat :=
  if !q.spad && pageOf (q.list.toNat + 4 * q.done) = page then 0 else 1

/-- The engine records of a group that wait for a page end with cause 4, those whose own words could not be written
among them; its gathers fault (R282, R288, R212). -/
def State.failEngines (s : State) (gid page : Nat) : State :=
  match s.group? gid with
  | none => s
  | some g =>
    let s := s.modGroup gid fun g =>
      { g with
        gathers := change (·.stuck == some page) (fun q => { q with stuck := none, fault := some (q.stepOn page, q.done) })
          g.gathers }
    let s := s.modGroup gid fun g =>
      (g.btiles.filter (·.stuck == some page)).foldl (fun g t => g.landTile { t with stuck := none, fault := some 2 }) g
    (g.chans.filter (·.stuck == some page)).foldl (init := s) fun s c =>
      let s := s.modChan gid c.n fun c => { c with stuck := none, owed := [] }
      match c.job, c.owed with
      | none, [] => s.faultRecord g c { bytes := 0, ptr := c.cur } (faultWord 4 0 0 0 0) false
      | none, _ => s
      | some t, q :: _ => if q.1 = t.ptr then s.faultRecord g c t (t.stopWord 4) false else s
      | some t, [] =>
        let r := Record.of t.bytes
        if r.indexed && t.badIdx.isNone && t.idx.length < r.rows then s.modJob gid c.n fun t => { t with badIdx := some 4 }
        else s.faultRecord g c t (t.stopWord 4) true

/-- The peer requests that wait for a page fail (R340, R393). -/
def State.failPackets (s : State) (part vf page : Nat) : State :=
  let mine (p : Packet) : Bool := p.part == part && p.stuck == some page && p.through.any (·.1 == vf)
  (s.packets.filter mine).foldl
    (fun s p => { s with answers := s.answers ++ [{ sender := p.sender, seq := p.seq, failed := true }] })
    { s with packets := s.packets.filter fun p => !mine p }

/-- What a fibre held for a page takes from UNRESOLVABLE: a trap of kind 6 (R340, R344). -/
def Trap.unresolved (t : Trap) : Trap := { t with kind := 6 }

/-- UNRESOLVABLE: every joined core word is handed to its group's fault domain as kind 6, and every engine
record faults (R340, R344). -/
def execUnresolvable (part vf page : Nat) (s : State) : Host.Outcome State Fault Refusal :=
  if !s.attached part vf then s.refuse part
  else
    let waits := s.joinedWaits part vf page
    let s := (s.joined vf page).foldl (init := s) fun s q =>
      (s.modFibre q.1 q.2.1 fun fb => fb.release fb.pc s.tick).enterTrap q.1 q.2.1 q.2.2.unresolved
    let s := waits.foldl (fun s q => s.enterTrap q.1 q.2.1 q.2.2.unresolved) s
    let s := s.failPackets part vf page
    let s := ((s.groups.filter (·.vf == vf)).map Group.gid).foldl (fun s g => s.failEngines g page) s
    .next ((s.endRecord part vf page).status part false)

/-! ## REMAP (R242, R333) -/

/-- The leaf that maps a page, where the supervisor may install another; none when there is none. -/
def State.leafOf (s : State) (part vf page : Nat) : Option Leaf × State :=
  match s.vf? vf with
  | none => (none, s)
  | some v =>
    let r := s.walkFrom part page 4 v.tableRoot.toNat
    (match r.1 with
      | .leaf l => some l
      | _ => none, r.2)

/-- The level of a leaf by the pages it maps (R335). -/
def Leaf.level (l : Leaf) : Nat := if l.pages = 1 then 0 else if l.pages = 2048 then 1 else 2

/-- An entry installed in a leaf, and the old one invalidated everywhere (R333, R341). -/
def State.install (s : State) (part vf : Nat) (l : Leaf) (entry : DWord) (frames : Option (Nat × Nat)) : State :=
  ((s.writeCoherent l.at_ 8 entry.toNat).noteAttr entry l.pages).invalidate part vf l.page (l.page + l.pages) frames

/-- The check bits of some 32-byte words recomputed for a new attribute over the data as it stands: what the old
attribute corrects is corrected first, a word that it reports keeps its bytes and stays poisoned, whatever the new attribute
corrects, until it is written in full, and words of no protection carry no record (R241, R242). -/
def State.recheck (s : State) (part old new : Nat) (mine : Nat → Bool) : State :=
  ((s.errors.map (·.1)).filter mine).foldl (init := s) fun s k =>
    if old ≠ 2 && correctable old (sget 0 s.errors k) then s.correctWord part k
    else if old = 2 || new = 2 then { s with errors := sset 0 s.errors k 0 }
    else { s with errors := sset 0 s.errors k (sget 0 s.errors k ||| BitVec.ofNat 288 (2 ^ 256 - 1)) }

/-- Whether a 32-byte word lies in some frames. -/
def inFrames (frame n k : Nat) : Bool := decide (frame ≤ k / 2048) && decide (k / 2048 < frame + n)

/-- Whey of some frames zeroed, what caches hold of it dropped (R242). -/
def State.zeroWhey (s : State) (frame n : Nat) : State := s.zeroBytes (wheyBase frame) (8192 * n)

/-- Lines of frames that become host biased moved to their home L2, and nothing of them kept nearer (R332). -/
def State.demoteFrames (s : State) (part frame n : Nat) : State :=
  let mine (line : Nat) : Bool := inFrames frame n (8 * line)
  let t := (s.lines.filter fun k => mine k.line).foldl (fun s k => s.place part k.line k.readers k.sticky true)
    (s.dropCopies fun c => mine c.line && (s.line? c.line).isNone)
  { t with fetched := t.fetched.filter fun c => !mine c.line }

/-- What a new entry changes of the frames it maps besides the mapping: the check bits and the whey when the
attribute changes (R242), the places of lines when they become host biased (R332). -/
def State.reattribute (s : State) (part : Nat) (old new : DWord) (n : Nat) : State :=
  let frame := pteAddr new / 65536
  let s := if pteProt old = pteProt new then s
    else (s.recheck part (pteProt old) (pteProt new) (inFrames frame n)).zeroWhey frame n
  if pteHost new && !pteHost old then s.demoteFrames part frame n else s

/-- A line as the scrub engine copies it to a new frame: its bytes where it is coherent, with the soft errors that
stand in memory (R333). -/
def State.copyLine (s : State) (old new : Nat) : State :=
  { s with
    mem := mwle s.mem (256 * new) (s.homeLine old).toNat 256
    errors := (List.range 8).foldl
      (fun m k => sset 0 m (8 * new + k) (if s.heldWord (8 * old + k) then 0 else sget 0 m (8 * old + k))) s.errors }

/-- The frames of a page copied to its new frames by the scrub engine as the window opens, whey included; what
stood in the new frames is gone (R333). -/
def State.copyFrames (s : State) (old new n : Nat) : State :=
  let s : State := (List.range n).foldl (fun s k => s.zeroFrame (new + k)) s
  let lines : List Nat := s.mem.map (fun c => c.1 / 256) ++ s.errors.map (fun e => e.1 / 8) ++ s.copies.map (·.line)
  let live := lines.dedup
  let s := (live.filter fun line => inFrames old n (8 * line)).foldl
    (fun s line => s.copyLine line (line - 256 * old + 256 * new)) s
  let w := wheyBase old
  { s with
    mem := (s.mem.filter fun (c : Nat × Byte) => w ≤ c.1 && c.1 < w + 8192 * n).foldl
      (fun m c => mwrite m (c.1 - w + wheyBase new) c.2) s.mem }

/-- A placed line's copy at its new home after a switch. -/
def movedUnit (u : CacheId) (line line' : Nat) : CacheId := if u == .l2 (homeOf line) then .l2 (homeOf line') else u

/-- Reader sets and sticky bits moved to the new frames with their lines; other copies of the old frames are
dropped, since the new entry finds the lines at their new home (R333). -/
def State.moveLines (s : State) (old new n : Nat) : State :=
  let here (line : Nat) : Bool := inFrames old n (8 * line)
  let moved (line : Nat) : Nat := line - 256 * old + 256 * new
  let copies := s.copies.filter fun c => !(here c.line && (s.line? c.line).isNone)
  { s with
    lines := s.lines.map fun l => if here l.line then { l with line := moved l.line } else l
    copies := copies.map fun c =>
      if here c.line then { c with line := moved c.line, unit := movedUnit c.unit c.line (moved c.line) } else c
    fetched := s.fetched.filter fun c => !here c.line }

/-- Whether a partition owns every frame that an entry maps at a leaf. -/
def State.ownsLeaf (s : State) (part : Nat) (entry : DWord) (l : Leaf) : Bool :=
  (List.range l.pages).all fun k => s.owns part (pteAddr entry + 65536 * k)

/-- The number of the first page past the virtual address space (R335). A REMAP of page columnPages + n names the
n-th 64 KiB of the columns, whose attribute its entry gives (R249, log entry 54). -/
def columnPages : Nat := 2 ^ 44

/-- REMAP of 64 KiB of column: its attribute (R249). -/
def State.remapColumn (s : State) (part n : Nat) (entry : DWord) : Host.Outcome State Fault Refusal :=
  let a := 2 ^ 50 + 65536 * n
  if 2 ^ 15 ≤ n || pteProt entry = 3 || s.ownerOf a != some part then s.refuse part
  else
    let t := s.recheck part (s.padProt a) (pteProt entry) fun k => a ≤ 32 * k && 32 * k < a + 65536
    .next ({ t with padAttrs := sset 0 t.padAttrs n (pteProt entry) }.status part false)

/-- Whether no frame of some is homed on a stack under reset (R373). -/
def State.framesUp (s : State) (frame n : Nat) : Bool := (List.range n).all fun k => s.homeUp ((frame + k) * 65536)

/-- Whether the walk of a page meets a table on a stack under reset (R373). -/
def State.walkHeld (s : State) (part vf page : Nat) : Bool :=
  (s.vf? vf).any fun v => (s.walkFrom part page 4 v.tableRoot.toNat).1 == .held

/-- A supervisor's command that waits for a stack under reset, and one that waits no longer (R373). -/
def State.retryLater (s : State) (i : Instr) : State :=
  { s with retries := if s.retries.contains i then s.retries else s.retries ++ [i] }

def State.retried (s : State) (i : Instr) : State := { s with retries := s.retries.filter (· ≠ i) }

/-- Whether a new entry of a leaf needs no copy: it keeps the frame, or maps a side window. -/
def keepsFrame (old new : DWord) : Bool := pteAddr new = pteAddr old || pteSide old || pteSide new

/-- REMAP: the dual-home window opens, and the scrub engine copies the page; a change that keeps the frame needs
no copy, and has its status once the old entry's invalidation has ended (R333, R341). It waits while a table or a frame is
on a stack under reset (R373). -/
def execRemap (part vf page : Nat) (entry : BitVec 64) (s : State) : Host.Outcome State Fault Refusal :=
  if columnPages ≤ page then s.remapColumn part (page - columnPages) entry
  else if !s.attached part vf then (s.retried (.remap part vf page entry)).refuse part
  else if s.walkHeld part vf page then .next (s.retryLater (.remap part vf page entry))
  else
    let r := ((s.retried (.remap part vf page entry)).quiesce part).leafOf part vf page
    match r.1 with
    | none => r.2.refuse part
    | some l =>
      if pteMalformed entry l.level || !pteV entry || !pteLeaf entry || !r.2.ownsLeaf part entry l then r.2.refuse part
      else if !(s.framesUp (pteAddr l.entry / 65536) l.pages && s.framesUp (pteAddr entry / 65536) l.pages) then
        .next (s.retryLater (.remap part vf page entry))
      else if keepsFrame l.entry entry then
        let t := if pteSide l.entry || pteSide entry then r.2 else r.2.reattribute part l.entry entry l.pages
        .next (t.install part vf l entry none)
      else if r.2.remaps.any fun w => w.vf == vf && w.page == l.page then r.2.refuse part
      else
        let t := r.2.copyFrames (pteAddr l.entry / 65536) (pteAddr entry / 65536) l.pages
        .next { t with
          remaps := t.remaps ++
            [{ part := part, vf := vf, page := l.page, pages := l.pages, old := l.entry, new := entry }] }

/-- REMAP_SWITCH: the copy is complete; the reader sets move, the new entry is installed and the old one
invalidated, and the old frames return to the supervisor once no access is left under it (R333). It waits while a table
or a new frame is on a stack under reset (R373). -/
def execRemapSwitch (part vf page : Nat) (s : State) : Host.Outcome State Fault Refusal :=
  match s.remaps.find? fun r => r.part == part && r.vf == vf && r.page == page with
  | none => .next s
  | some w =>
    if s.walkHeld part vf page || !s.framesUp (pteAddr w.new / 65536) w.pages then .next s
    else
    let s := s.quiesce part
    let s : State := { s with remaps := s.remaps.filter fun r => !(r.part == part && r.vf == vf && r.page == page) }
    let r := s.leafOf part vf page
    match r.1 with
    | none => r.2.refuse part
    | some l =>
      let old := pteAddr w.old / 65536
      let t := r.2.moveLines old (pteAddr w.new / 65536) w.pages
      let t := t.reattribute part w.old w.new w.pages
      .next ((t.install part vf l w.new (some (old, w.pages))).status part false)

end Sys2Proof.Machine
end

