-- ==== Sys2Proof/Machine/Peers.lean ====
section
/-!
DEFINITION. Accesses from outside: the host and the peers (R332, R393, R394), packets refused and retried
(R309, R372, R373), the reset of a stack (R371), ports that retrain (R392).
-/

namespace Sys2Proof.Machine

/-! ## Performing one access -/

/-- Bytes that an access covers. -/
def opBytes : MemOp → Nat
  | .load n => min n 16
  | .store n _ => min n 16
  | .atom _ _ => 4
  | .atox z _ => 4 * atoxRegs z
  | .cas wide _ _ => if wide then 8 else 4

def opWrites : MemOp → Bool
  | .load _ => false
  | _ => true

def opAtomic : MemOp → Bool
  | .load _ => false
  | .store _ _ => false
  | _ => true

/-- The value an access leaves, by the value it finds (R304, R305, R306). -/
def opResult (op : MemOp) (old : Nat) : Nat :=
  match op with
  | .load _ => old
  | .store _ v => v.toNat
  | .atom z v => (atomOp z (BitVec.ofNat 32 old) v).toNat
  | .atox z v => (atoxOp z old (v.toNat % 256 ^ (4 * atoxRegs z))).1
  | .cas wide c v =>
    let n := if wide then 8 else 4
    if old = c.toNat % 256 ^ n then v.toNat % 256 ^ n else old

/-- A value returned to the sender of an access. -/
def State.answer (s : State) (sender seq value : Nat) (failed : Bool) : State :=
  { s with
    answers := s.answers ++
      [{ sender := sender, seq := seq, value := (BitVec.ofNat 64 value, BitVec.ofNat 64 (value / 2 ^ 64)), failed := failed }] }

/-- Where the home of an address keeps a sender's last atomic (R309). -/
def answerSlot (sender pa : Nat) : Nat := 8 * sender + homeStack pa

/-- n bytes that the host or a peer reads: at the home L2 alone in a page of host bias, else with what nearer levels
hold brought home first (R332). -/
def State.readFor (s : State) (hostBias : Bool) (pa n : Nat) : Nat × State :=
  if hostBias then (s.homeBytes pa n, s) else s.readCoherent pa n

/-- Bytes that the host or a peer writes, likewise. -/
def State.putFor (s : State) (hostBias : Bool) (pa : Nat) (l : List Byte) : State :=
  if hostBias then (l.zipIdx.foldl (fun s b => s.writeThrough (pa + b.2) 1 b.1.toNat) s) else s.putBytes pa l

/-- One access of the host or a peer performed at scope Y, once for its sender's number; a retried atomic that
the home has answered returns its old value again (R309, R332, R372). A write to a frame that is being scrubbed
waits until the engine has scrubbed it ahead of its order (R370). -/
def State.perform (s : State) (part prot pa sender seq : Nat) (op : MemOp) : State :=
  let n := opBytes op
  let slot := answerSlot sender pa
  let again := if opAtomic op then s.answered.find? fun a => a.1 == slot && a.2.1 == seq else none
  match again with
  | some a => s.answer sender seq a.2.2.toNat false
  | none =>
    let s := if opWrites op then
        let mine (f : Nat) : Bool := pa / 65536 ≤ f && f ≤ (pa + n - 1) / 65536
        { s with scrubbing := s.scrubbing.filter (!mine ·), heldWrites := s.heldWrites.filter (!mine ·.1) }
      else s
    let bad := s.uncorrectable prot pa n && !(match op with | .store _ _ => true | _ => false)
    let s := if bad then s.reportBadAt part pa else s.correctRead part prot pa n
    let r := s.readFor (s.hostBiased pa) pa n
    let s := if opWrites op then r.2.putFor (s.hostBiased pa) pa (leBytes (opResult op r.1) n) else r.2
    let s := if opAtomic op then
        { s with answered := sset (0, 0) s.answered slot (seq, BitVec.ofNat 64 r.1) }
      else s
    s.answer sender seq (match op with | .store _ _ => 0 | _ => r.1) bad

/-- What an access needs of its page. -/
def opAccess (op : MemOp) : Access := if opAtomic op then .rmw else if opWrites op then .write else .read

/-- An access at a peer's own window answered: the fabric carries it on to the peer, which alone knows the value
(R393, log entry 15). -/
def State.forward (s : State) (sender seq : Nat) (op : MemOp) : State :=
  match op with
  | .store _ _ => s.answer sender seq 0 false
  | _ => s.draw.2.answer sender seq (s.draw.1.toNat % 256 ^ opBytes op) false

/-- What trying an access comes to: it is over, or it stays, and whether it waits for a fault record's page. -/
inductive Tried where
  | done (s : State)
  | held (stuck : Option Nat) (s : State)
  deriving DecidableEq, Repr

/-- An access of the host or a peer tried. It is held with route lost while its home is being reset (R373). A peer's
request is translated each time it is tried; it waits for its walk, and one whose translation faults joins the
page's record, whose end it waits for (R338 to R340, R393). -/
def State.tryPacket (s : State) (p : Packet) : Tried :=
  match p.through with
  | none =>
    if s.homeUp p.addr then .done (s.perform p.part (s.protOf p.addr) p.addr p.sender p.seq p.op) else .held none s
  | some (vf, st) =>
    let r := s.virtOn st p.part vf p.addr (opAccess p.op)
    let s := r.2
    match r.1 with
    | some pa =>
      if s.strayLanes p.part pa then .done ((s.violate p.part (.vf vf)).answer p.sender p.seq 0 true)
      else if (s.aperture? p.part pa).isSome then .done (s.forward p.sender p.seq p.op)
      else .done (s.perform p.part (s.protOf pa) pa p.sender p.seq p.op)
    | none =>
      match s.translate none st p.part vf p.addr (opAccess p.op) with
      | .miss => .held none s
      | .fault _ => .held (some (pageOf p.addr)) s
      | .violation => .done (s.answer p.sender p.seq 0 true)
      | .ok _ _ past => if past then .done (s.answer p.sender p.seq 0 true) else .held none s

/-- An access tried for the first time; one that is held waits among the packets (R372, R373). -/
def State.send (s : State) (p : Packet) : State :=
  match s.tryPacket p with
  | .done t => t
  | .held k t => { t with packets := t.packets ++ [{ p with refused := true, stuck := k }] }

/-! ## The host and the peers -/

/-- The sender numbers of host and peers: the host is 0, the window n of a partition 1 + n. -/
def hostSender : Nat := 0

/-- HOST_MEM_ACCESS: a CXL.mem access to device memory, or the host's own access to its memory, at scope Y
(R332). One that names memory outside the partition is a violation and is not performed (R367). -/
def execHostMemAccess (part : Nat) (addr : BitVec 64) (op : MemOp) (s : State) : Host.Outcome State Fault Refusal :=
  let pa := addr.toNat
  let seq := s.serial
  let s := { s with serial := s.serial + 1 }
  if 2 ^ 50 ≤ pa || outsideMemory pa || !s.owns part pa then .next (s.answer hostSender seq 0 true)
  else
    .next (s.send { id := seq, stack := homeStack pa, part := part, addr := pa, op := op, sender := hostSender, seq := seq })

/-- The stack of a window's lowest port: two ports to a stack (DESIGN CHOICE, log entry 130). -/
def Window.stack (w : Window) : Nat := ((List.range 16).find? w.ports.testBit).getD 0 / 2

/-- PEER_REQUEST: an incoming request through the export window that it names, translated through the window's
virtual function (R393). One outside every export window, or that comes on lanes of others, is a violation (R367);
one outside the window it names is not performed and fails. -/
def execPeerRequest (part window : Nat) (addr : BitVec 64) (op : MemOp) (s : State) : Host.Outcome State Fault Refusal :=
  let seq := s.serial
  let s := { s with serial := s.serial + 1 }
  let exports := ((s.part? part).map (·.exports)).getD []
  let inside (w : Window) : Bool := w.base ≤ addr.toNat && addr.toNat + opBytes op ≤ w.base + w.size
  let fail (s : State) : State := s.answer (1 + window) seq 0 true
  match exports[window]?.filter inside with
  | none => .next (fail (if exports.any inside then s else s.report part (.outside window addr)))
  | some w =>
    if !(s.part? part).any (·.reaches w.ports) then .next (fail (s.report part (.outside window addr)))
    else
      .next (s.send
        { id := seq, stack := w.stack, part := part, addr := addr.toNat, op := op, sender := 1 + window, seq := seq
          through := some (w.vf, w.stack) })

/-- A store to a peer dropped, counted and reported (R394). -/
def State.dropStore (s : State) (w : PeerWait) : State :=
  ((s.ackStore w.grp w.fid).report w.part (.dropped w.id)).modPart w.part
    fun q => { q with dropped := q.dropped + 1 }

/-- The core and the run of a fibre that is inside one. -/
def State.runOf (s : State) (gid fid : Nat) : Option (Nat × Run) :=
  s.cores.findSome? fun c => c.run.bind fun r => if r.grp = gid ∧ r.fids.contains fid then some (c.id, r) else none

/-- A load or atomic that no peer has answered raises an uncorrectable-error trap in its run (R394). -/
def State.failRead (s : State) (w : PeerWait) : State :=
  match s.runOf w.grp w.fid with
  | none => s
  | some (c, r) =>
    let s : State := { s with peers := s.peers.filter fun v => !r.fids.any fun f => v.reads w.grp f }
    s.raise c r { kind := 12, cause := 1, fva := w.va, failing := maskOf [w.fid] }

/-- A transfer record that no peer has answered faults with cause 5 (R394). -/
def State.failRecord (s : State) (w : PeerWait) (n : Nat) : State :=
  match s.group? w.grp with
  | none => s
  | some g =>
    match g.chan? n with
    | none => s
    | some c =>
      match c.job with
      | none => s
      | some t =>
        s.faultRecord g c t (t.stopWord 5) true

/-- Ticks after which a request to a peer fails (R394). -/
def peerLimit : Nat := 2 ^ 20

/-- PEER_REQUEST_TIMEOUT of a request that its peer has not answered in time (R394). -/
def execPeerRequestTimeout (request : Nat) (s : State) : Host.Outcome State Fault Refusal :=
  match s.peers.find? (·.id == request) with
  | none => .next s
  | some w =>
    if s.tick.toNat < w.start.toNat + peerLimit || Config.peerTicks w.id ≤ peerLimit then .next s
    else
      let s := { s with peers := s.peers.filter fun v => v.id != request }
      match w.chan with
      | some n => .next (s.failRecord w n)
      | none => .next (if w.store then s.dropStore w else s.failRead w)

/-- Lanes of a port, and of one that has lost a lane (R392). -/
def portLanes : Nat := 8

/-- Whether a request to a peer has not been answered yet (R394). -/
def State.inFlight (s : State) (w : PeerWait) : Bool := s.tick.toNat < w.start.toNat + Config.peerTicks w.id

/-- PORT_LANE_FAILURE: the port retrains at 4 lanes; requests in flight across it are refused with route lost
and retried (R372, R392). There are 16 ports. -/
def execPortLaneFailure (port : Nat) (s : State) : Host.Outcome State Fault Refusal :=
  if 16 ≤ port then .next s
  else
    .next { s with
      ports := sset portLanes s.ports port 4
      peers := change (fun w => w.ports.testBit port && s.inFlight w) (fun w => { w with start := s.tick }) s.peers }

/-- MODULE_RETRAINING: one of the four UCIe modules runs at 16 GT/s after a lane repair (R386). -/
def execModuleRetraining (unit : Nat) (s : State) : Host.Outcome State Fault Refusal :=
  if 4 ≤ unit then .next s else .next { s with modules := sset 32 s.modules unit 16 }

/-! ## Resetting a stack -/

/-- Whether a group is on a stack: placed or saved there, or with a fibre landed on it, on its way to it or about to be. -/
def Group.onStack (g : Group) (st : Nat) : Bool :=
  stackOf g.core = st || g.fibres.any fun fb =>
    match fb.place with
    | .landed c => stackOf c = st
    | .transit (some c) _ _ => stackOf c = st
    | _ => fb.after.migr.any fun m => m.1.any (stackOf · == st)

/-- Ticks of the drain of a stack's packets (R371). -/
def stackDrain : Nat := 36000

/-- STACK_RESET: the groups on the stack end (R371 step 1). Once the supervisor has moved the pages that must
survive (step 2), a second one begins the drain of the stack's packets (step 3; log entry 131), once no group is on it. -/
def execStackReset (stack : Nat) (s : State) : Host.Outcome State Fault Refusal :=
  if 8 ≤ stack then .next s
  else
    match sget .released s.stackStates stack with
    | .released =>
      let l := (s.groups.filter fun g => g.exit.isNone && g.onStack stack).map (·.gid)
      let s := l.foldl (fun s g => s.killGroup g 5 0) s
      .next { s with stackStates := sset .released s.stackStates stack .emptied }
    | .emptied =>
      if s.groups.any fun g => g.exit.isNone && g.onStack stack then .next s
      else .next { s with
        stackStates := sset .released s.stackStates stack (.draining (s.tick + BitVec.ofNat 64 stackDrain)) }
    | _ => .next s

/-- Whether a placement level lies on a stack. -/
def Level.onStack (st : Nat) : Level → Bool
  | .l1 c => stackOf c = st
  | .ck k => k / 16 = st
  | .l2 n => n = st
  | _ => false

/-- A stack and its two HBM stacks without what they held (R371). What its caches hold of lines homed
elsewhere is performed at their homes first. -/
def State.wipeStack (s : State) (st : Nat) : State :=
  let s := s.quiesceAll
  let gone := (s.lines.filter fun l => l.level.onStack st).map (·.line)
  let s := gone.foldl State.unplace s
  let mine (pa : Nat) : Bool := homeStack pa = st && !(pa / 2 ^ 49 % 2 = 1 && pa < 2 ^ 50)
  { s with
    mem := s.mem.filter fun c => !mine c.1
    full := s.full.filter fun q => !mine (q.1 * 128)
    errors := s.errors.filter fun e => !mine (e.1 * 32)
    padAttrs := s.padAttrs.filter fun q => q.1 / 4096 != st
    scrubbing := s.scrubbing.filter fun f => !mine (f * 65536)
    heldWrites := s.heldWrites.filter fun q => !mine (q.1 * 65536)
    lines := s.lines.filter fun l => !mine (l.line * 256)
    copies := s.copies.filter fun c => !(mine (c.line * 256) || unitStack c.unit = st)
    fetched := s.fetched.filter fun c => !(mine (c.line * 256) || stackOf c.core = st)
    tlb := s.tlb.filter fun t => t.stack != st
    publishes := s.publishes.filter fun q => !(stackOf q.reader = st || unitStack q.holder = st)
    answered := s.answered.filter fun a => a.1 % 8 != st
    cores := s.cores.filter fun c => stackOf c.id != st }

/-- ROUTE_DRAIN_DEADLINE: the packets still held at the stack are refused with route lost, and its reset
begins (R371, R372). -/
def execRouteDrainDeadline (stack : Nat) (s : State) : Host.Outcome State Fault Refusal :=
  match sget .released s.stackStates stack with
  | .draining d =>
    if s.tick.toNat < d.toNat then .next s
    else
      let s := s.wipeStack stack
      .next { s with
        packets := change (·.stack == stack) (fun p => { p with refused := true }) s.packets
        stackStates := sset .released s.stackStates stack .resetting }
  | _ => .next s

/-- ROUTE_LOST: the sender of a refused packet retries it; it stays refused until its home is released
(R372, R373), and one that waits for a page until its record has ended (R340). -/
def execRouteLost (packet : Nat) (s : State) : Host.Outcome State Fault Refusal :=
  match s.packets.find? (·.id == packet) with
  | none => .next s
  | some p =>
    if !p.refused || p.stuck.isSome then .next s
    else
      match s.tryPacket p with
      | .done t => .next { t with packets := t.packets.filter fun q => q.id != packet }
      | .held k t => .next { t with packets := change (·.id == packet) (fun q => { q with stuck := k }) t.packets }

/-- What the Holnel owes the region blocks on a stack written once it is released: their charges and resident ticks
(R110, R373). -/
def State.payBlocks (s : State) (stack : Nat) : State :=
  let here (b : Nat) : Bool := homeStack b == stack
  let s := ((s.parts.flatMap (·.regions)).filter here).foldl State.rechargeBlock s
  let t := (s.owedTicks.filter fun q => here q.1).foldl (fun s q => s.charge q.1 64 8 (· + q.2)) s
  { t with owedTicks := t.owedTicks.filter fun q => !here q.1 }

/-- STACK_RELEASE: a stack that has been reset passes its check and is released (R371, R373). -/
def execStackRelease (stack : Nat) (s : State) : Host.Outcome State Fault Refusal :=
  match sget .released s.stackStates stack with
  | .resetting => .next (({ s with stackStates := sset .released s.stackStates stack .released } : State).payBlocks stack)
  | _ => .next s

end Sys2Proof.Machine
end

