-- ==== Sys2Proof/Machine/Supervisor.lean ====
section
/-!
DEFINITION. The supervisor's commands over fibres, regions and virtual functions (R352, R113, R349, R365,
R368, R410, R415).
-/

namespace Sys2Proof.Machine

/-! ## Fibres -/

/-- A fibre of a partition's group. -/
def State.fibreOf (s : State) (part gid fid : Nat) : Option (Group × Fibre) :=
  match s.groupOf part gid with
  | none => none
  | some g => (g.fibre? fid).map fun fb => (g, fb)

/-- A held fibre of a partition, with the trap that holds it. -/
def State.heldOf (s : State) (part gid fid : Nat) : Option (Group × Fibre × Trap) :=
  match s.fibreOf part gid fid with
  | none => none
  | some (g, fb) => fb.held.map fun t => (g, fb, t)

/-- A fibre set going at a packet that the supervisor names: a wait it stood in is abandoned, its arrival
withdrawn (R101, R352). -/
def State.resumeAt (s : State) (g : Group) (fb : Fibre) (pc : DWord) : State :=
  let s := match fb.wait with
    | some w => s.withdraw g fb.fid w
    | none => s
  s.modFibre g.gid fb.fid fun f =>
    { f with held := none, sent := false, sysc := none, wait := none, st := .ready, pc := pc, mc := none, rdy := s.tick }

/-- RESUME: a held fibre continues at EPC, or at a given packet; a supervisor call is completed so (R349,
R352). -/
def execResume (part grp fid : Nat) (pc : Option (BitVec 64)) (s : State) : Host.Outcome State Fault Refusal :=
  match s.heldOf part grp fid with
  | none => s.refuse part
  | some (g, fb, _) =>
    match pc with
    | some a => .next ((s.resumeAt g fb a).status part false)
    | none =>
      .next ((s.modFibre grp fid fun f => { f.release f.pc s.tick with sysc := none }).status part false)

/-- DELIVER: a held fibre takes a fibre-level trap with the held FINFO (R342, R352). -/
def execDeliver (part grp fid : Nat) (s : State) : Host.Outcome State Fault Refusal :=
  match s.heldOf part grp fid with
  | none => s.refuse part
  | some (_, _, t) =>
    let s := s.modFibre grp fid fun f => { f with held := none, sent := false, sysc := none }
    .next ((s.enterTrap grp fid t).status part false)

/-- What the supervisor may reach of a fibre: the registers from the first, and all the rest when the flag is
set; a fibre in a supervisor call shows eight registers alone (R349, R352). -/
def Fibre.window (g : Group) (fb : Fibre) : Option (Nat × Nat × Bool) :=
  match fb.sysc with
  | some (_, r) => some (r, 8, false)
  | none => if fb.held.isSome || g.st == .descheduled then some (0, g.kern.window, true) else none

/-- READ_CONTEXT (R349, R352): the state record of R358 and the window. -/
def execReadContext (part grp fid : Nat) (s : State) : Host.Outcome State Fault Refusal :=
  match s.fibreOf part grp fid with
  | none => s.refuse part
  | some (g, fb) =>
    match fb.window g with
    | none => s.refuse part
    | some (r, n, all) =>
      let age := if g.st == .descheduled then fb.age else fb.readyTicks s.tick
      let bytes := (if all then fb.record age.toNat else []) ++ storeBytes fb.ctx.regs r n 4
      .next ((s.report part (.context bytes)).status part false)

/-- A fibre with one of its registers, its predicates or a deadline written; none when the write is not
allowed (R349, R352). -/
def Fibre.written (g : Group) (fb : Fibre) : FibreWrite → Option Fibre
  | .reg n v =>
    match fb.window g with
    | some (r, k, _) =>
      if r ≤ n ∧ n < r + k then some { fb with ctx := { fb.ctx with regs := sset 0 fb.ctx.regs n v } } else none
    | none => none
  | .preds v =>
    match fb.window g with
    | some (_, _, true) =>
      some { fb with ctx := { fb.ctx with preds := (v &&& ~~~1#96) ||| (fb.ctx.preds &&& 1#96) } }
    | _ => none
  | .deadline n v =>
    match fb.window g with
    | some (_, _, true) =>
      if 1 ≤ n ∧ n ≤ 7 then some { fb with ctx := { fb.ctx with dl := sset 0 fb.ctx.dl n v } } else none
    | _ => none

/-- WRITE_REGISTERS (R352). -/
def execWriteRegisters (part grp fid : Nat) (w : FibreWrite) (s : State) : Host.Outcome State Fault Refusal :=
  match s.fibreOf part grp fid with
  | none => s.refuse part
  | some (g, fb) =>
    match fb.written g w with
    | none => s.refuse part
    | some fb => .next ((s.modFibre grp fid fun _ => fb).status part false)

/-! ## Regions -/

/-- Whether a parent may take a child: none, or a region less than eight levels deep (R111). -/
def State.mayParent (s : State) (part parent : Nat) : Bool :=
  parent = 0 || (s.isRegion part parent && (s.ancestors regionDepth parent).length < regionDepth)

/-- The fields of the 64 bytes of a block that software writes; the reserved bits of prio, flags and ovr read as
zero (R6, R110). -/
def blockMask : BitVec 512 :=
  ~~~((0xF#512 <<< 436) ||| (0xF#512 <<< 444) ||| (BitVec.ofNat 512 (2 ^ 19 - 1) <<< 493))

/-- The 64 bytes of a block that software writes (R110). -/
def State.putBlock (s : State) (addr : Nat) (block : BitVec 512) : State :=
  s.putHome addr 64 (block &&& blockMask).toNat

/-- Levels of a region's subtree, itself the first. -/
def State.subtreeDepth (s : State) (part addr : Nat) : Nat :=
  (((s.part? part).map (·.regions)).getD []).foldl (init := 1) fun n b =>
    let up := s.ancestors regionDepth b
    if up.contains addr then max n (up.idxOf addr + 1) else n

/-- Whether a region may move below a parent with its subtree: the tree stays one, and eight levels deep (R111). -/
def State.mayMove (s : State) (part addr parent : Nat) : Bool :=
  parent = 0 || (s.isRegion part parent && !(s.ancestors regionDepth parent).contains addr &&
    (s.ancestors regionDepth parent).length + s.subtreeDepth part addr ≤ regionDepth)

/-- Whether the fault domain that a block names stays inside a partition: none, the block itself or a region of the
partition; a field that is not in effect names nothing (R111, R352, log entry 140). -/
def State.ownDomain (s : State) (part addr : Nat) (block : BitVec 512) : Bool :=
  let fdom := bits block.toNat 64 64
  !block.getLsbD 480 || fdom = 0 || fdom = addr || s.isRegion part fdom

/-- REGION_CREATE: a block is written, its counters zero (R110, R352); it waits while its stack is under reset (R373). -/
def execRegionCreate (part addr : Nat) (block : BitVec 512) (s : State) : Host.Outcome State Fault Refusal :=
  let t := s.retried (.regionCreate part addr block)
  if addr % 128 ≠ 0 || addr = 0 || !s.owns part addr || s.isRegion part addr || !s.roomForRegion part ||
      !s.mayParent part (block.toNat % 2 ^ 64) || !s.ownDomain part addr block then t.refuse part
  else if !s.homeUp addr then .next (s.retryLater (.regionCreate part addr block))
  else
    let s := { t with mem := mzero t.mem addr 128 }
    let s := (s.putBlock addr block).modPart part fun q => { q with regions := q.regions ++ [addr] }
    .next (s.status part false)

/-- Groups that a budget had descheduled resume once no region of theirs is exhausted (R112). -/
def State.relieve (s : State) (part : Nat) : State :=
  let free (g : Group) : Bool :=
    g.part = part && g.overBudget && !((s.ancestors regionDepth g.region).any fun b => s.exhausted part b)
  { s with groups := s.groups.map fun g => if free g then { g with overBudget := false, resume := true } else g }

/-- The groups of an edited region take its fields: those inside a run at its boundary, the others now (R113). -/
def State.applyEdit (s : State) (addr : Nat) : State :=
  ((s.groupsIn addr).map (·.gid)).foldl (init := s) fun s g =>
    let t := s.modGroup g fun h => { h with stale := true }
    if s.inRun g then t else t.refreshPolicy g

/-- Whether a region is the root of an attached virtual function, which has no parent (R110, R111). -/
def State.isRoot (s : State) (part addr : Nat) : Bool := s.vfs.any fun v => v.part == some part && v.root == addr

/-- A region's block written, and the charges of its groups moved with it: from its old ancestors to its new ones (R110,
R112). -/
def State.moveBlock (s : State) (addr : Nat) (block : BitVec 512) : State :=
  let old := s.regionField addr 0 8
  let t := (s.putBlock addr block).recharge addr
  if old = 0 then t else t.recharge old

/-- REGION_EDIT (R112, R113, R352); it waits while its stack is under reset (R373). -/
def execRegionEdit (part addr : Nat) (block : BitVec 512) (s : State) : Host.Outcome State Fault Refusal :=
  let t := s.retried (.regionEdit part addr block)
  let parent := block.toNat % 2 ^ 64
  if !s.isRegion part addr || !s.mayMove part addr parent || (s.isRoot part addr && parent ≠ 0) ||
      !s.ownDomain part addr block then t.refuse part
  else if !s.homeUp addr then .next (s.retryLater (.regionEdit part addr block))
  else .next ((((t.moveBlock addr block).applyEdit addr).relieve part).status part false)

/-- REGION_DELETE: a block with no live group below it (R352). -/
def execRegionDelete (part addr : Nat) (s : State) : Host.Outcome State Fault Refusal :=
  if !s.isRegion part addr || (s.groupsIn addr).any (·.exit.isNone) then s.refuse part
  else .next ((s.modPart part fun q => { q with regions := q.regions.filter (· ≠ addr) }).status part false)

/-- Whether an address is a packet of a loaded code section of a virtual function (R415). -/
def State.inCode (s : State) (vf h : Nat) : Bool :=
  s.images.any fun m => m.vf == vf && m.sections.any fun q => q.1 == 1 && q.2.1 ≤ h && h < q.2.1 + q.2.2

/-- What the firmware answers to a supervisor call, and the handler it sets (R415). -/
def State.handlerCall (s : State) (g : Group) (code h : Nat) : Nat × Option Nat :=
  let root := ((s.vf? g.vf).map (·.root)).getD 0
  if code ≠ 1 then (2 ^ 32 - 1, none)
  else if g.region = root then (2, none)
  else if h % 12 = 0 && s.inCode g.vf h then (0, some h)
  else (1, none)

/-- SET_HANDLER_SERVICE: the partition firmware serves a supervisor call, and the fibre continues (R349,
R415); the call waits while its region's block is on a stack under reset (R373). -/
def execSetHandlerService (grp fid : Nat) (s : State) : Host.Outcome State Fault Refusal :=
  match s.group? grp with
  | none => .next s
  | some g =>
    match g.fibre? fid with
    | none => .next s
    | some fb =>
      match (if s.homeUp g.region then fb.sysc else none) with
      | none => .next s
      | some (code, r) =>
        let h := (sget 0 fb.ctx.regs r).toNat + 2 ^ 32 * (sget 0 fb.ctx.regs (r + 1)).toNat
        let a := s.handlerCall g code h
        let s := match a.2 with
          | none => s
          | some v =>
            let ovr := s.regionField g.region 60 4
            ((s.putHome (g.region + 16) 8 v).putHome (g.region + 8) 8 0).putHome (g.region + 60) 4 (ovr / 2 * 2 + 1)
        .next (s.modFibre grp fid fun f =>
          { f.release f.pc s.tick with
            sysc := none
            ctx := { f.ctx with regs := sset 0 f.ctx.regs r (BitVec.ofNat 32 a.1) } })

/-! ## Virtual functions -/

/-- ATTACH: a virtual function that no partition holds is bound, with its root region, which has no parent, and its page
tables in the partition's frames (R110, R352, R365). -/
def execAttach (part vf root : Nat) (tableRoot : BitVec 64) (s : State) : Host.Outcome State Fault Refusal :=
  if 512 ≤ vf || (s.part? part).isNone || (s.vf? vf).any (·.part.isSome) || !s.isRegion part root ||
      s.regionField root 0 8 ≠ 0 || !s.owns part tableRoot.toNat then s.refuse part
  else
    let v : VirtualFunction := { id := vf, part := some part, tableRoot := tableRoot, root := root }
    .next (({ s with vfs := upsert (·.id == vf) v (fun _ => v) s.vfs }).status part false)

/-- The images of a virtual function gone, with the control-store slots that no other image binds (R77). -/
def State.dropImages (s : State) (part vf : Nat) : State :=
  let mine := (s.images.filter (·.vf == vf)).map (·.handle)
  let keep (q : StoreSlot) : StoreSlot := { q with images := q.images.filter fun h => !mine.contains h }
  ({ s with images := s.images.filter (·.vf != vf) }).modPart part fun q => { q with store := q.store.map keep }

/-- The launches of a virtual function cut down to the groups that have been placed (R365). -/
def State.cutLaunches (s : State) (vf : Nat) : State :=
  let live (l : Launch) : Nat := (s.groups.filter (·.launch == l.id)).length
  let cut (l : Launch) : Launch :=
    if l.vf = vf then { l with ranges := [], again := [], total := l.ended + live l, origin := none, claim := none } else l
  { s with launches := (s.launches.map cut).filter fun l => l.vf != vf || l.ended < l.total }

/-- The groups of a virtual function killed with a cause (R365, R368). -/
def State.killVf (s : State) (vf cause : Nat) : State :=
  ((s.groups.filter fun g => g.vf == vf && g.exit.isNone).map (·.gid)).foldl (fun s g => s.killGroup g cause 0) s

/-- Pages of a virtual address space (R335). -/
def allPages : Nat := 2 ^ 44

/-- The region blocks of a virtual function's tree freed (R365). -/
def State.dropRegions (s : State) (part root : Nat) : State :=
  s.modPart part fun q =>
    { q with regions := q.regions.filter fun b => !(s.ancestors regionDepth b).contains root }

/-- A core's comparators and trace unit without what serves a virtual function, or without anything (R369). -/
def Core.forget (c : Core) (vf : Nat) (all : Bool) : Core :=
  let mine (k : Comparator) : Bool := all || (k.ctl.getLsbD 26 && (k.ctl.extractLsb' 16 10).toNat == vf)
  { c with
    watch := c.watch.filter fun q => !mine q.2
    trace := if all || c.trace.cfg.vf == some vf then
        { c.trace with buf := [], late := [], cfg := { c.trace.cfg with on := false } }
      else c.trace }

/-- What a virtual function leaves on the cores of its partition scrubbed as it is detached: comparators and trace
buffers that serve it alone, and when it was the partition's last, all of them with the partition's counters
(R369, log entry 134). Registers, operand stores and columns are zero at every placement (R13, R15, R195). -/
def State.scrubLeft (s : State) (part vf : Nat) : State :=
  let last := !s.vfs.any fun v => v.part == some part && v.id != vf
  let cores := s.coresOf part
  let t : State := { s with cores := s.cores.map fun c => if cores.contains c.id then c.forget vf last else c }
  if last then t.modPart part fun q => { q with counters := [] } else t

/-- DETACH (R352, R365, R369). Its status comes once what was accessed under the translations it drops is performed and
acknowledged (R341). -/
def execDetach (part vf : Nat) (s : State) : Host.Outcome State Fault Refusal :=
  match s.vf? vf with
  | none => s.refuse part
  | some v =>
    if v.part ≠ some part then s.refuse part
    else
      let s := (s.killVf vf 4).cutLaunches vf
      let s := ((s.dropImages part vf).dropRegions part v.root).scrubLeft part vf
      let s := s.modVf vf fun v =>
        { v with part := none, tableRoot := 0, root := 0, queues := [], graphs := [], frozen := false }
      .next (s.invalidate part vf 0 allPages none)

/-- NAME_EXIT_RING: exit records of a virtual function go to a ring of frames of the partition (R410). -/
def execNameExitRing (part vf : Nat) (base : BitVec 64) (records : Nat) (s : State) : Host.Outcome State Fault Refusal :=
  if !s.attached part vf || !s.ownsAll part base.toNat (192 * records) then s.refuse part
  else
    let ring := if records = 0 then none else some (base.toNat, records, 0)
    .next ((s.modVf vf fun v => { v with exitRing := ring }).status part false)

/-! ## Frozen masters -/

/-- A frozen master released; a channel frozen for a violation of its own stays frozen: saved waits continue as after
pre-emption (R103, R368). -/
def State.thaw (s : State) (m : Master) : State :=
  match m with
  | .group g => s.modGroup g fun gr =>
    { gr with
      frozen := false
      fibres := gr.fibres.map fun fb => { fb with wait := fb.wait.map fun w => { w with resumed := true } } }
  | .channel g c => s.modChan g c fun ch => { ch with frozen := false }
  | .vf n => s.modVf n fun v => { v with frozen := false }

/-- A frozen master killed: a group ends, a channel halts without its record, a virtual function's groups end
and its queues stop (R368). -/
def State.killMaster (s : State) (m : Master) : State :=
  match m with
  | .group g => s.killGroup g 3 0
  | .channel g c => s.modChan g c fun ch => { ch with frozen := false, st := 0, job := none, stuck := none }
  | .vf n =>
    ((s.killVf n 3).cutLaunches n).modVf n fun v =>
      { v with
        frozen := false
        queues := v.queues.map fun h => { h with enabled := false, cmds := [] } }

/-- Whether a master is a partition's, and frozen. -/
def State.frozenIn (s : State) (part : Nat) (m : Master) : Bool :=
  match m with
  | .group g => (s.groupOf part g).any (·.frozen)
  | .channel g c => (s.groupOf part g).any fun gr => (gr.chan? c).any (·.frozen)
  | .vf n => s.attached part n && (s.vf? n).any (·.frozen)

/-- UNFREEZE (R352, R368). -/
def execUnfreeze (part : Nat) (master : Master) (kill : Bool) (s : State) : Host.Outcome State Fault Refusal :=
  if !s.frozenIn part master then s.refuse part
  else .next ((if kill then s.killMaster master else s.thaw master).status part false)

end Sys2Proof.Machine
end

