-- ==== Sys2Proof/Machine/Observe.lean ====
section
/-!
DEFINITION. Watching the machine: watchpoints, trace, counters, the freeze, measurements (R397, R399, R405,
R407, R409, R411 to R413).
-/

namespace Sys2Proof.Machine

/-! ## Watchpoints and trace -/

/-- Whether a core is one of a partition's. -/
def State.ownsCore (s : State) (part core : Nat) : Bool := (s.coresOf part).contains core

/-- The bits of a comparator's ctl word that the spec defines; the reserved ones read as zero (R6, R399). -/
def ctlMask : Word := 0x07FF000F

/-- WATCH (R399). -/
def execWatch (part core index : Nat) (cmp : Comparator) (s : State) : Host.Outcome State Fault Refusal :=
  if !s.ownsCore part core || 4 ≤ index then s.refuse part
  else
    let cmp := { cmp with ctl := cmp.ctl &&& ctlMask }
    .next ((s.modCore core fun c => { c with watch := sset comparatorOff c.watch index cmp }).status part false)

/-- TRACE_COMMAND: a core's trace is set, its ring is empty, its two counters are zero (R405, R407). The ring is one of the
partition's also when the trace is turned off, since what the buffer holds still drains into it. -/
def execTraceCommand (part core : Nat) (cfg : TraceConfig) (s : State) : Host.Outcome State Fault Refusal :=
  if !s.ownsCore part core || cfg.lgRecords < 8 || 24 < cfg.lgRecords ||
      !s.ownsAll part cfg.ring (32 * 2 ^ cfg.lgRecords) then s.refuse part
  else
    let set (t : Trace) : Trace := { t with cfg := cfg, head := 0, tail := 0, drops := 0, perturb := 0 }
    .next ((s.modCore core fun c => { c with trace := set c.trace }).status part false)

/-- TRACE_ACKNOWLEDGE: the head moves past the records acknowledged (R405). -/
def execTraceAcknowledge (part core count : Nat) (s : State) : Host.Outcome State Fault Refusal :=
  if !s.ownsCore part core then s.refuse part
  else
    let set (t : Trace) : Trace := { t with head := min t.tail (t.head + count) }
    .next ((s.modCore core fun c => { c with trace := set c.trace }).status part false)

/-- The 32 bytes of a trace record (R406). -/
def TraceRecord.bytes (r : TraceRecord) : List Byte :=
  leBytes r.tick.toNat 8 ++ leBytes (r.core % 1024) 2 ++ leBytes r.seq.toNat 2 ++ leBytes r.kind 1 ++ leBytes r.slot 1 ++
    leBytes r.fid 2 ++ leBytes r.mask.toNat 4 ++ leBytes r.payload.toNat 12

/-- Whether a core's buffer may drain: it holds a record and its ring has room (R405). -/
def Trace.drains (t : Trace) : Bool := !t.buf.isEmpty && t.tail - t.head < 2 ^ t.cfg.lgRecords

/-- The partition that a core is in. -/
def State.partOf (s : State) (core : Nat) : Option Nat := (s.parts.find? fun q => s.ownsCore q.id core).map (·.id)

/-- TRACE_DRAIN: the control die moves a core's oldest record into the ring (R405). -/
def execTraceDrain (core : Nat) (s : State) : Host.Outcome State Fault Refusal :=
  let t := (s.core core).trace
  match t.buf with
  | [] => .next s
  | r :: rest =>
    if !t.drains || (s.partOf core).any s.stopped || !s.homeUp t.cfg.ring then .next s
    else
      let s := s.putBytes (t.cfg.ring + 32 * (t.tail % 2 ^ t.cfg.lgRecords)) r.bytes
      let set (t : Trace) : Trace := ({ t with buf := rest, tail := t.tail + 1 } : Trace).put []
      .next (s.modCore core fun c => { c with trace := set c.trace })

/-! ## Counters -/

/-- The counter snapshot of a partition (R409): the counters of R244, the energy of each stack, and of each of
its cores the perturbation, the drops and the corrected errors. -/
def State.snapshot (s : State) (q : Partition) : List DWord :=
  (List.range 11).map (sget 0 q.counters) ++ (List.range 8).map (fun st => sget 0 s.energy (8 * q.id + st)) ++
    (s.coresOf q.id).flatMap fun c =>
      let k := s.core c
      [k.trace.perturb, k.trace.drops, k.corrected]

/-- COUNTERS (R409). -/
def execCounters (part : Nat) (s : State) : Host.Outcome State Fault Refusal :=
  match s.part? part with
  | none => .next s
  | some q => .next ((s.report part (.counters s.tick (s.snapshot q))).status part false)

/-! ## The freeze -/

/-- SUPERVISOR_FREEZE: a freeze of the partition asked for at a tick, with its result (R411). -/
def execSupervisorFreeze (part : Nat) (at_ : BitVec 64) (s : State) : Host.Outcome State Fault Refusal :=
  if (s.part? part).isNone then .next s
  else
    let r := s.askFreeze (some part) at_ false
    .next (r.2.report part (.frozen r.1))

/-- DEVICE_FREEZE: a freeze of the device asked for at a tick, with its result to physical function 0 (R411). -/
def execDeviceFreeze (at_ : BitVec 64) (s : State) : Host.Outcome State Fault Refusal :=
  let r := s.askFreeze none at_ false
  .next { r.2 with toPf0 := r.2.toPf0 ++ [leBytes r.1 4] }

/-- Whether a pending freeze starts now (R412). -/
def Freeze.starts (f : Freeze) (now : DWord) : Bool := !f.inForce && f.tick.toNat ≤ now.toNat

/-- A list cut or filled with zeros to n bytes. -/
def fitTo (n : Nat) (l : List Byte) : List Byte := (l ++ List.replicate n 0).take n

/-- The dies whose domains a freeze scans (R413): all of them, or the tiers that hold a partition's cores with the base dies
of their stacks, which hold its columns. Of a stack's three dies the base die comes last (log entry 18). -/
def State.domains (s : State) (scope : Option Nat) : Nat :=
  match scope with
  | none => 2 ^ 41 - 1
  | some p =>
    let dies := ((s.coresOf p).flatMap fun c => [1 + 3 * stackOf c + c / 64 % 2, 3 + 3 * stackOf c]).dedup
    dies.foldl (fun m d => m + 2 ^ d) 0

/-- A Husk image: its header, the scanned sections, the key identifier and the signature (R413). -/
def State.huskImage (s : State) (scope : Option Nat) (at_ : DWord) : List Byte :=
  let d := s.domains scope
  let body := Config.huskSections d at_.toNat
  let size := 128 + body.length + 144
  let head := leBytes 0x4B535548 4 ++ leBytes 1 4 ++ leBytes Config.deviceSerial.toNat 8 ++
    leBytes (if scope.isSome then 1 else 0) 4 ++ leBytes (scope.getD 0xFFFFFFFF) 4 ++ leBytes at_.toNat 8 ++
    leBytes d 8 ++ leBytes size 8 ++ leBytes 0 80
  let signed := head ++ body ++ fitTo 48 Config.deviceKey
  signed ++ fitTo 96 (Config.deviceSignature signed)

/-- FREEZE_START: the clocks of the scope are gated, and its Husk goes to its supervisor or to physical
function 0 (R412, R413). -/
def execFreezeStart (scope : Option Nat) (s : State) : Host.Outcome State Fault Refusal :=
  match scope with
  | none =>
    match s.freeze with
    | none => .next s
    | some f =>
      if !f.starts s.tick then .next s
      else .next { s with
        freeze := some { f with inForce := true }
        toPf0 := s.toPf0 ++ [s.huskImage none f.tick] }
  | some p =>
    match (s.part? p).bind (·.freeze) with
    | none => .next s
    | some f =>
      if !f.starts s.tick then .next s
      else
        let image := s.huskImage scope f.tick
        .next ((s.modPart p fun q => { q with freeze := some { f with inForce := true } }).report p (.husk image))

/-- A partition's freeze ended: its saved waits continue as after pre-emption (R103, R412). -/
def State.endFreeze (s : State) (p : Nat) : State :=
  let s := s.modPart p fun q => { q with freeze := none }
  let wake (fb : Fibre) : Fibre := { fb with wait := fb.wait.map fun w => { w with resumed := true } }
  { s with
    groups := change (·.part == p) (fun g => { g with fibres := g.fibres.map wake }) s.groups }

/-- The groups of a partition killed by its supervisor (R352, R413). -/
def State.killPart (s : State) (p : Nat) : State :=
  ((s.groups.filter fun g => g.part == p && g.exit.isNone).map (·.gid)).foldl (fun s g => s.killGroup g 3 0) s

/-- FREEZE_RELEASE: the clocks go on; the supervisor of a partition may kill its groups instead (R412, R413). -/
def execFreezeRelease (scope : Option Nat) (kill : Bool) (s : State) : Host.Outcome State Fault Refusal :=
  match scope with
  | none => if s.freeze.any (·.inForce) then .next { s with freeze := none } else .next s
  | some p =>
    if ((s.part? p).bind (·.freeze)).any (·.inForce) then
      .next (((if kill then s.killPart p else s).endFreeze p).status p false)
    else s.refuse p

/-! ## Measurements -/

/-- The header and body of a configuration record, as they are signed (R396). -/
def ConfigRecord.signed (r : ConfigRecord) : List Byte :=
  leBytes r.kind 4 ++ leBytes r.part 4 ++ leBytes r.seq 4 ++ leBytes r.bytes.length 4 ++ leBytes 0 48 ++ r.bytes

/-- The images that bind control-store slots of a partition. -/
def Partition.bound (q : Partition) : List Nat := (q.store.flatMap (·.images)).dedup

/-- The control-store images of R19 bound in a partition: those that loaded images carry, and those that CSLD has filled
slots from. -/
def State.boundStores (s : State) (q : Partition) : List (List Byte) :=
  q.bound.map (fun h => ((s.image? h).map (·.store)).getD []) ++ (q.store.filterMap (·.loaded)).dedup

/-- The bytes of the firmware that runs (R395, R397). -/
def State.firmwareBytes (s : State) (k : Nat) : List Byte :=
  if k = 2 then (s.recovery.map (·.bytes)).getD [] else Config.firmwareImage k

/-- MEASUREMENT_REQUEST: the digests of the running firmware, of every standing record and of every bound
control-store image, with the requester's nonce, signed (R397). Without firmware nothing answers (R395). -/
def execMeasurementRequest (nonce : BitVec 384) (s : State) : Host.Outcome State Fault Refusal :=
  match s.firmware with
  | none => .next s
  | some k =>
    let digests := [Config.sha384 (s.firmwareBytes k)] ++ s.standing.map (fun r => Config.sha384 r.signed) ++
      s.parts.flatMap fun q => (s.boundStores q).map Config.sha384
    let body := digests.flatten ++ leBytes nonce.toNat 48
    .next { s with toPf0 := s.toPf0 ++ [body ++ Config.deviceSignature body] }

end Sys2Proof.Machine
end

