-- ==== Sys2Proof/Machine/Power.lean ====
section
/-!
DEFINITION. Power gates that close (R380), the power cap and heat (R384, R385), bring-up (R395, R396).
-/

namespace Sys2Proof.Machine

/-- GATE_CLOSE: a pending gate closes once its core is quiet (R380). -/
def execGateClose (core : Nat) (s : State) : Host.Outcome State Fault Refusal :=
  if (s.core core).gate = .pending && s.quiet core then .next (s.closeGate core) else .next s

/-! ## Power and heat -/

/-- Ticks of a power window (R384). -/
def powerTicks : Nat := 1048576

/-- Whether a partition has resources on a stack: clusters, slices, or pseudo-channels of its HBM (R362). -/
def Partition.onStack (q : Partition) (st : Nat) : Bool :=
  q.clusters.any (· / 16 == st) || q.slices.any (· / 16 == st) || q.channels.any (· / 32 / 2 == st)

/-- Whether a stack in emergency keeps a partition from rising (R385). -/
def State.heldDown (s : State) (q : Partition) : Bool := s.hot.any q.onStack

/-- The step of a partition's clock after its mean power is compared with its cap (R384). -/
def State.capStep (s : State) (q : Partition) : Nat :=
  let p := Config.meanPower q.id s.tick.toNat
  if q.cap = 0 then q.clock
  else if q.cap < p then max 8 (q.clock - 1)
  else if 100 * p < 95 * q.cap && !s.heldDown q then min 16 (q.clock + 1)
  else q.clock

/-- A partition's clock set, with an event record of the change (R384). -/
def State.setClock (s : State) (p steps : Nat) : State :=
  match s.part? p with
  | none => s
  | some q =>
    if q.clock = steps then s
    else (s.modPart p fun q => { q with clock := steps }).report p (.clock s.tick steps)

/-- The partitions with the largest energy on a stack over the last window (R385). -/
def State.heaviest (s : State) (st : Nat) : List Partition :=
  let l := s.parts.filter (·.onStack st)
  let e (q : Partition) : Nat := sget 0 s.window (8 * q.id + st)
  l.filter fun q => l.all fun r => e r ≤ e q

/-- The temperature at which a stack is throttled, and that of its emergency (R385). -/
def State.warningOf (s : State) (st : Nat) : Nat := sget 95 s.warning st
def State.emergencyOf (s : State) (st : Nat) : Nat := sget 105 s.emergency st

/-- The stacks still in emergency: not yet below their warning temperature (R385). -/
def State.stillHot (s : State) : List Nat :=
  s.hot.filter fun st => s.warningOf st ≤ Config.stackTemperature st s.tick.toNat

/-- The throttling of a stack above its warning temperature (R385). -/
def State.coolStack (s : State) (st : Nat) : State :=
  if (s.warningOf st : Int) < Config.stackTemperature st s.tick.toNat then
    (s.heaviest st).foldl (fun s q => s.setClock q.id (max 8 (q.clock - 1))) s
  else s

/-- The energy of the window that ends now (R384). -/
def State.meter (s : State) : State :=
  let keys := s.parts.flatMap fun q => (List.range 8).map fun st => (q.id, st)
  let used (k : Nat × Nat) : Nat := Config.windowEnergy k.1 k.2 s.tick.toNat
  { s with
    window := keys.foldl (fun m k => sset 0 m (8 * k.1 + k.2) (used k)) []
    energy := keys.foldl
      (fun m k => sset 0 m (8 * k.1 + k.2) (sget 0 m (8 * k.1 + k.2) + BitVec.ofNat 64 (used k))) s.energy }

/-- Whether a power window ends on this tick. -/
def State.windowEnds (s : State) : Bool := s.tick ≠ 0 && s.tick.toNat % powerTicks = 0

/-- POWER_WINDOW: stacks below their warning end their emergency, each partition's mean power is compared with its
cap, then hot stacks are cooled (R384, R385). -/
def execPowerWindow (s : State) : Host.Outcome State Fault Refusal :=
  if !s.windowEnds then .next s
  else
    let s := s.meter
    let s := { s with hot := s.stillHot }
    let s := s.parts.foldl (fun (s : State) q => s.setClock q.id (s.capStep q)) s
    .next ((List.range 8).foldl State.coolStack s)

/-- THERMAL_EMERGENCY: at the emergency temperature every partition with resources on the stack falls to 900
MHz, until the stack is below its warning (R385). -/
def execThermalEmergency (stack temp : Nat) (s : State) : Host.Outcome State Fault Refusal :=
  if temp < s.emergencyOf stack || 8 ≤ stack then .next s
  else
    let fall (q : Partition) : Partition :=
      if q.onStack stack then { q with clock := 8, reports := q.reports ++ [.emergency s.tick stack] } else q
    .next { s with
      parts := s.parts.map fall
      hot := if s.hot.contains stack then s.hot else s.hot ++ [stack] }

/-! ## Bring-up -/

/-- Whether a record's signature verifies under the key it names. -/
def ConfigRecord.verifies (r : ConfigRecord) : Bool := Config.signatureValid r.signed r.keyId r.signature

/-- The keys that a valid kind 1 record lists (R396). -/
def validKeys (l : List ConfigRecord) : List (List Byte) :=
  (l.filter fun r => r.kind == 1 && r.keyId == Config.rootKey && r.verifies).flatMap fun r =>
    match r.body with
    | .keys ids => ids
    | _ => []

/-- Whether a body is of a record's kind (R396). -/
def ConfigBody.kind : ConfigBody → Nat
  | .keys _ => 1
  | .map _ => 2
  | .policy _ _ => 3
  | .power _ _ => 4
  | .windows _ _ => 5
  | .version _ => 6

/-- Whether a record is valid: it is of its body's kind, names a partition or the device, holds the bytes of the body that
takes effect, and is signed by a key that may (R396, log entry 107). -/
def ConfigRecord.valid (all : List ConfigRecord) (r : ConfigRecord) : Bool :=
  r.kind = r.body.kind && (r.part < 64 || r.part = 2 ^ 32 - 1) && r.bytes == Config.recordBytes r.body && r.verifies &&
    (if r.kind = 1 then r.keyId == Config.rootKey else (validKeys all).contains r.keyId)

/-- The records that stand: of each kind and partition the valid one with the highest sequence number (R396). -/
def standingOf (l : List ConfigRecord) : List ConfigRecord :=
  let v := l.filter (·.valid l)
  v.filter fun r => v.all fun q => q.kind ≠ r.kind || q.part ≠ r.part || q.seq ≤ r.seq

/-- The least firmware version that the standing records allow (R395, R396). -/
def leastVersion (l : List ConfigRecord) : Nat :=
  l.foldl (fun n r => match r.body with | .version v => max n v | _ => n) 0

/-- The firmware copy that the boot ROM runs: the first that verifies and is new enough (R395). -/
def bootFirmware (l : List ConfigRecord) : Option Nat :=
  [0, 1].find? fun k => Config.firmwareValid k && leastVersion l ≤ Config.firmwareVersion k

/-- Whether the boot ROM accepts a recovery image: it is signed by the root key and new enough (R395, log entry 12). -/
def RecoveryImage.accepted (i : RecoveryImage) (l : List ConfigRecord) : Bool :=
  Config.signatureValid i.bytes Config.rootKey i.signature && leastVersion l ≤ i.version

/-- What the control die runs: a copy from flash, or when both fail the recovery image that physical function 0 has been
given, as copy 2 (R395). -/
def State.boots (s : State) (l : List ConfigRecord) : Option Nat :=
  (bootFirmware l).orElse fun _ => if s.recovery.any (·.accepted l) then some 2 else none

/-- The stacks that an entry of a partition map names resources of. -/
def MapEntry.stacks (m : MapEntry) : List Nat :=
  m.clusters.map (· / 16) ++ m.slices.map (· / 16) ++ m.channels.map (· / 32 / 2)

/-- A partition formed from its entry of the map. -/
def MapEntry.form (m : MapEntry) : Partition :=
  { id := m.id, clusters := m.clusters, slices := m.slices, channels := m.channels, lanes := m.lanes, defaults := m.defaults }

/-- A partition with what the standing records say of it (R28, R29, R384), 16 apertures at most (R393, log entry 15). -/
def Partition.configure (q : Partition) (l : List ConfigRecord) : Partition :=
  l.foldl (init := q) fun q r =>
    if r.part ≠ q.id then q
    else match r.body with
      | .keys ids => { q with keys := q.keys ++ ids }
      | .policy u keys => { q with unsigned := u, keys := q.keys ++ keys }
      | .power cap _ => { q with cap := cap.getD q.cap }
      | .windows a e => { q with apertures := a.take 16, exports := e }
      | _ => q

/-- The entries of the partition maps that stand. -/
def mapEntries (l : List ConfigRecord) : List MapEntry :=
  l.flatMap fun r => match r.body with
    | .map parts => parts
    | _ => []

/-- Whether an entry of a map states a partition that R362 allows, by the sets themselves and by the stacks that need
a slice: those of its clusters and pseudo-channels. One without a slice on stack 0 maps no host memory (State.owns). -/
def MapEntry.legal (m : MapEntry) : Bool :=
  m.id < 64 && !m.clusters.isEmpty && m.clusters.Nodup && m.clusters.all (· < 128) && !m.channels.isEmpty &&
    m.channels.Nodup && m.channels.all (· < 512) && m.slices.Nodup && m.slices.all (· < 128) && m.lanes.Nodup &&
    m.lanes.all (· < 128) &&
    (m.clusters.map (· / 16) ++ m.channels.map (· / 64)).all fun st => m.slices.any (· / 16 == st)

/-- Whether two entries could stand beside each other: other numbers and no resource in common (R362). -/
def MapEntry.disjoint (m n : MapEntry) : Bool :=
  m.id ≠ n.id && m.clusters.all (!n.clusters.contains ·) && m.slices.all (!n.slices.contains ·) &&
    m.channels.all (!n.channels.contains ·) && m.lanes.all (!n.lanes.contains ·)

/-- The entries that are formed: each legal one whose resources no entry formed before it owns (R362, log entry 119). -/
def formed (ok : MapEntry → Bool) (l : List MapEntry) : List MapEntry :=
  l.foldl (init := []) fun f m => if ok m && m.legal && f.all m.disjoint then f ++ [m] else f

/-- Events of the bring-up log: no firmware, an invalid record, a held stack, a partition not formed. -/
def logNoFirmware : Nat := 1
def logBadRecord : Nat := 2
def logHeldStack (st : Nat) : Nat := 16 + st
def logNotFormed (p : Nat) : Nat := 64 + p

/-- PACKAGE_RESET: boot, validation of the records, training of the stacks, forming of the partitions (R395), the
only time at which a resource moves to another partition, scrubbed and with no virtual function attached (R362).
Flash, host memory and what has been sent out of the package stay. -/
def execPackageReset (s : State) : Host.Outcome State Fault Refusal :=
  let base : State :=
    { State.reset with
      ahead := s.ahead
      agenda := s.agenda
      fresh := s.fresh
      serial := s.serial
      mem := s.mem.filter fun c => c.1 / 2 ^ 49 % 2 = 1 && c.1 < 2 ^ 50
      flash := s.flash
      recovery := s.recovery
      answers := s.answers
      msix := s.msix
      toPf0 := s.toPf0 }
  let standing := standingOf s.flash
  let held := (List.range 8).filter fun st => !Config.stackPasses st
  let states (l : List Nat) : Sparse StackState := l.map fun st => (st, .held)
  match s.boots standing with
  | none => .next { base with log := [logNoFirmware], stackStates := states (List.range 8) }
  | some k =>
    let entries := mapEntries standing
    let ok (m : MapEntry) : Bool := m.stacks.all fun st => !held.contains st
    let temps : List (Nat × Nat × Nat) := standing.flatMap fun r => match r.body with
      | .power _ l => l
      | _ => []
    let formed := formed ok entries
    .next { base with
      firmware := some k
      standing := standing
      stackStates := states held
      warning := temps.foldl (fun m t => sset 95 m t.1 t.2.1) []
      emergency := temps.foldl (fun m t => sset 105 m t.1 t.2.2) []
      parts := formed.map fun m => m.form.configure standing
      log := (s.flash.filter fun r => !r.valid s.flash).map (fun _ => logBadRecord) ++ held.map logHeldStack ++
        (entries.filter fun m => !formed.contains m).map fun m => logNotFormed m.id }

end Sys2Proof.Machine
end

