-- ==== Sys2Proof/Machine/Loader.lean ====
section
/-!
DEFINITION. The loader: the object image (R8 to R30), its checks in the order of their codes, the places of its
sections (R426), its relocations (R26).
-/

namespace Sys2Proof.Machine

/-! ## Reading the image -/

/-- n bytes of an image from an offset; bytes past its end are missing. -/
def part (l : List Byte) (off n : Nat) : List Byte := (l.drop off).take n

/-- A little-endian number of n bytes of an image (R5). -/
def field (l : List Byte) (off n : Nat) : Nat := (part l off n).foldr (fun b v => b.toNat + 256 * v) 0

/-- A section of an image (R9). -/
structure Sect where
  type : Nat
  flags : Nat
  off : Nat
  size : Nat
  align : Nat
  reserved : Nat
  deriving DecidableEq, Repr

/-- The section table of an image (R8, R9). -/
def sections (l : List Byte) : List Sect :=
  (List.range (field l 6 2)).map fun k =>
    let a := field l 16 8 + 32 * k
    { type := field l a 4, flags := field l (a + 4) 4, off := field l (a + 8) 8, size := field l (a + 16) 8
      align := field l (a + 24) 4, reserved := field l (a + 28) 4 }

/-- The section of a type. -/
def sect? (l : List Byte) (type : Nat) : Option Sect := (sections l).find? (·.type == type)

/-- The contents of a section. -/
def Sect.bytes (l : List Byte) (q : Sect) : List Byte := part l q.off q.size

/-- The contents of the section of a type, if the image holds it. -/
def contents (l : List Byte) (type : Nat) : List Byte := ((sect? l type).map (·.bytes l)).getD []

/-- The fixed flags of a section type (R10). -/
def sectFlags (type : Nat) : Nat :=
  if type = 1 then 5 else if type = 3 ∨ type = 8 then 3 else if type ≤ 9 then 1 else 0

/-- The minimum alignment of a section type (R10). -/
def sectAlign (type : Nat) : Nat :=
  match type with
  | 1 => 768
  | 2 => 128
  | 5 => 128
  | 6 => 4
  | 7 => 64
  | 8 => 64
  | 9 => 64
  | _ => 8

/-- The size of one item of a section type (R10). -/
def sectUnit (type : Nat) : Nat :=
  match type with
  | 1 => 12
  | 2 => 128
  | 6 => 4
  | 8 => 64
  | 12 => 24
  | _ => 1

/-- Whether an alignment is one that R9 allows. -/
def alignOk (type align : Nat) : Bool :=
  ((List.range 17).any (fun k => 2 ^ k == align) || align = 768) && sectAlign type ≤ align && (type ≠ 1 || align = 768)

/-- Whether a section obeys R9 and R10 on its own. -/
def Sect.ok (size : Nat) (q : Sect) : Bool :=
  1 ≤ q.type && q.type ≤ 14 && q.flags = sectFlags q.type && alignOk q.type q.align && q.off % 8 = 0 &&
    q.off + q.size ≤ size && q.size % sectUnit q.type = 0 && (q.type ≠ 10 || q.size = 64) && (q.type ≠ 14 || q.size = 144)

/-- Whether two ranges of bytes do not meet. -/
def apart (a n b m : Nat) : Bool := n = 0 || m = 0 || a + n ≤ b || b + m ≤ a

/-- Cause SECTION of R30: the table or a section breaks R8 to R10, a number of sections outside 1 to 14 among
them (log entry 118). -/
def sectionBad (l : List Byte) : Bool :=
  let n := field l 6 2
  let tab := field l 16 8
  let size := field l 24 8
  let q := sections l
  n = 0 || 14 < n || tab % 8 ≠ 0 || tab < 64 || size < tab + 32 * n || q.any (fun x => !x.ok size) ||
    !(q.map (·.type)).Nodup || (field l 8 4 % 2 = 1) != (sect? l 10).isSome ||
    (field l 8 4 / 2 % 2 = 1) != (sect? l 14).isSome ||
    q.any (fun x => !(apart x.off x.size 0 64 && apart x.off x.size tab (32 * n))) ||
    q.any (fun x => q.any fun y => x.type != y.type && !apart x.off x.size y.off y.size)

/-! ## Kernel headers and the launch record -/

/-- A kernel header's fields (R12). -/
def kernelOf (h : List Byte) : Kernel :=
  { entry := BitVec.ofNat 64 (field h 0 8), window := field h 19 1, teams := field h 20 1, fibres := field h 21 1
    barriers := field h 22 1, chan := field h 23 1, acc32 := field h 24 1, acc16 := field h 25 1, landing := field h 26 1
    relaunch := field h 27 1 % 2 = 1, spbytes := field h 28 4, opbytes := field h 32 4, argbytes := field h 36 4
    spsrc := field h 40 8, spinit := field h 48 4
    fmttab := (List.range 16).foldl (fun m k => sset 0 m k (BitVec.ofNat 32 (field h (64 + 4 * k) 4))) [] }

/-- The headers of a `.khdr` section (R12). -/
def headersOf (k : List Byte) : List (List Byte) := (List.range (k.length / 128)).map fun i => part k (128 * i) 128

/-- Whether a header's fields lie within their limits (R12, R13); entry is its offset in `.code`. The spec gives
syms no limit, and it is not read (log entry 118). -/
def headerOk (code spad : Nat) (h : List Byte) : Bool :=
  let k := kernelOf h
  k.entry.toNat % 12 = 0 && k.entry.toNat < code && 1 ≤ k.window && k.window ≤ 64 && k.window % 8 = 0 && 1 ≤ k.teams &&
    k.teams ≤ 32 && 1 ≤ k.fibres && k.fibres ≤ 32 && k.barriers ≤ 64 && k.chan ≤ 8 && 2 * k.acc32 + k.acc16 ≤ 16 &&
    k.landing ≤ 16 && field h 27 1 < 2 && k.spbytes % 128 = 0 && k.padBytes ≤ 2 ^ 24 && k.opbytes % 256 = 0 &&
    k.opbytes ≤ 262144 && k.argbytes ≤ 32 && k.argbytes % 4 = 0 && k.spinit ≤ k.spbytes && k.spsrc + k.spinit ≤ spad &&
    field h 8 8 = 0 && field h 16 3 = 0 && field h 56 8 = 0

/-- Whether a launch record's fields lie within their limits for the kernels of an image (R21). -/
def LaunchRecord.ok (r : LaunchRecord) (k : List Kernel) : Bool :=
  !r.reserved && 1 ≤ r.gridx && 1 ≤ r.gridy && r.prio ≤ 15 && (k[r.khdr]?).any fun h => h.argbytes == r.argbytes

/-! ## Placing and relocating -/

/-- A section as the loader has placed it: its type, its address, 0 when it is not loadable, and its bytes. -/
structure Loaded where
  type : Nat
  addr : Nat
  bytes : List Byte
  deriving DecidableEq, Repr

/-- A number rounded up to a multiple. -/
def roundUp (a n : Nat) : Nat := (a + n - 1) / n * n

/-- Whether the pages of a range are mapped for a virtual function. -/
def State.mapped (s : State) (p vf a n : Nat) : Bool :=
  match s.vf? vf with
  | none => false
  | some v =>
    (List.range ((a + n - 1) / pageBytes + 1 - a / pageBytes)).all fun k =>
      match (s.walkFrom p (a / pageBytes + k) 4 v.tableRoot.toNat).1 with
      | .leaf _ => true
      | _ => false

/-- The ranges that the loaded sections of a virtual function occupy (R426). -/
def State.occupied (s : State) (vf : Nat) : List (Nat × Nat) :=
  (s.images.filter (·.vf == vf)).flatMap fun m => m.sections.filterMap fun q => if q.2.1 = 0 then none else some (q.2.1, q.2.2)

/-- The address that the loader chooses for the n-th section: a multiple of its alignment, in mapped pages,
clear of every other section (R426); none when there is no such address among those it tries (log entry 8). -/
def State.placeFor (s : State) (p vf n size align : Nat) (used : List (Nat × Nat)) : Option Nat :=
  let tries := roundUp (Config.sectionBase n) align :: used.map fun q => roundUp (q.1 + q.2) align
  tries.find? fun a => a ≠ 0 && a + size ≤ 2 ^ 60 && used.all (fun q => apart a size q.1 q.2) && s.mapped p vf a size

/-- Every section of an image placed in turn; none when one finds no place. -/
def State.placeAll (s : State) (p vf : Nat) (l : List Byte) : List Sect → Nat → List (Nat × Nat) → Option (List Loaded)
  | [], _, _ => some []
  | q :: qs, n, used =>
    if q.flags % 2 = 0 then
      (s.placeAll p vf l qs (n + 1) used).map fun r => { type := q.type, addr := 0, bytes := q.bytes l } :: r
    else
      match s.placeFor p vf n q.size q.align used with
      | none => none
      | some a =>
        (s.placeAll p vf l qs (n + 1) ((a, q.size) :: used)).map fun r => { type := q.type, addr := a, bytes := q.bytes l } :: r

/-- The address of a placed section, by type. -/
def addrOf (l : List Loaded) (type : Nat) : Nat := ((l.find? (·.type == type)).map (·.addr)).getD 0
/-- The bytes of a placed section, by type. -/
def bytesIn (l : List Loaded) (type : Nat) : List Byte := ((l.find? (·.type == type)).map (·.bytes)).getD []

/-- A relocation entry (R26). -/
structure Reloc where
  off : Nat
  sect : Nat
  kind : Nat
  sym : Nat
  addend : Nat
  deriving DecidableEq, Repr

/-- The relocations of a `.rel` section (R26). -/
def relocsOf (l : List Byte) : List Reloc :=
  (List.range (l.length / 24)).map fun i =>
    let a := 24 * i
    { off := field l a 8, sect := field l (a + 8) 2, kind := field l (a + 10) 2, sym := field l (a + 12) 4
      addend := field l (a + 16) 8 }

/-- The value a relocation writes (R24, R26): the symbol's address plus the addend. -/
def Reloc.value (l : List Loaded) (r : Reloc) : Nat :=
  let sym := bytesIn l 11
  let a := 4 + 24 * r.sym
  let at_ := field sym (a + 4) 1
  ((if at_ = 0 then 0 else addrOf l at_) + field sym (a + 8) 8 + r.addend) % 2 ^ 64

/-- Bytes that a relocation patches. -/
def Reloc.size (r : Reloc) : Nat := if r.kind = 1 then 8 else 4

/-- Cause RELOC of R30; an index past the entry count of `.sym` is a patch without a symbol (log entry 118). -/
def Reloc.bad (l : List Loaded) (r : Reloc) : Bool :=
  let sym := bytesIn l 11
  let at_ := field sym (4 + 24 * r.sym + 4) 1
  !(r.kind = 1 || r.kind = 2) || !([2, 3, 4, 8, 10].contains r.sect) || (bytesIn l r.sect).length < r.off + r.size ||
    (r.sect = 10 && r.off < 32) || field sym 0 4 ≤ r.sym || sym.length < 4 + 24 * (r.sym + 1) ||
    (at_ ≠ 0 && addrOf l at_ = 0) || (r.kind = 2 && 2 ^ 32 ≤ r.value l)

/-- A list with bytes in place of those from an offset. -/
def splice (l : List Byte) (off : Nat) (b : List Byte) : List Byte := l.take off ++ b ++ l.drop (off + b.length)

/-- The relocations applied to the placed sections (R26). -/
def relocate (l : List Loaded) : List Loaded :=
  ((relocsOf (bytesIn l 12)).filter fun r => !r.bad l).foldl (init := l) fun l r =>
    change (·.type == r.sect) (fun q => { q with bytes := splice q.bytes r.off (leBytes (r.value l) r.size) }) l

/-- The headers' entries replaced by virtual addresses (R12). -/
def setEntries (l : List Loaded) : List Loaded :=
  let code := addrOf l 1
  let one (h : List Byte) : List Byte := splice h 0 (leBytes (code + field h 0 8) 8)
  change (·.type == 2) (fun q => { q with bytes := (headersOf q.bytes).flatMap one }) l

/-! ## The checks of R30 -/

/-- The word at an offset of `.csprog`; past its end it is malformed. -/
def csWord (l : List Byte) (off : Nat) : Except Unit Word :=
  if l.length < off + 4 then .error () else .ok (BitVec.ofNat 32 (field l off 4))

/-- The control-store image of `.csprog`, when its form, key and signature are right (R19, R30). -/
def csImage (keys : List (List Byte)) (l : List Byte) : Option StoreImage :=
  match parseStore (csWord l) () with
  | .ok m => if keys.contains m.keyId && Config.signatureValid m.signed m.keyId m.signature then some m else none
  | .error _ => none

/-- Whether an image can bind its slots: within the share of the root region, and no slot bound with other
contents (R77). -/
def State.bindable (s : State) (p vf : Nat) (m : StoreImage) : Bool :=
  let share : DWord := BitVec.ofNat 64 (s.shareOf p (((s.vf? vf).map (·.root)).getD 0))
  let store := ((s.part? p).map (·.store)).getD []
  m.present &&& ~~~share = 0 &&
    m.slots.all fun k => store.all fun x => x.slot ≠ k.1 || x.images.isEmpty || x.words == k.2

/-- Whether one core can hold a group of a kernel (R115, R116). -/
def kernelFits (k : Kernel) : Bool := coreHolds [{ gid := 0, kern := k }] && k.padBytes ≤ 2 ^ 24

/-- Whether a symbol entry has its reserved byte set (R24). Entries past the end of a `.sym` that is too short for its count are
not looked at (DESIGN CHOICE, log entry 141). -/
def symReserved (sym : List Byte) : Bool :=
  (List.range (min (field sym 0 4) ((sym.length - 4) / 24))).any fun k => field sym (4 + 24 * k + 7) 1 ≠ 0

/-- The refusal code of an image whose sections are in order and placed, 0 when none applies (R30). Headers and the
launch record are judged as the relocations leave them (log entry 118). Reserved bits of the `.csprog` header count as
malformed (9), and those of a `.stencil` table are not looked at (DESIGN CHOICE, log entry 141). -/
def State.imageCode (s : State) (p vf : Nat) (l : List Byte) (q : List Loaded) : Nat :=
  let pt := (s.part? p).getD { id := p }
  let heads := headersOf (bytesIn q 2)
  let kernels := heads.map kernelOf
  let words := (List.range ((bytesIn q 6).length / 4)).map fun i => BitVec.ofNat 32 (field (bytesIn q 6) (4 * i) 4)
  let sig := bytesIn q 14
  let rest : List Byte := match sect? l 14 with
    | some x => l.take x.off ++ l.drop (x.off + 144)
    | none => l
  let cs := bytesIn q 9
  if field l 8 4 / 4 ≠ 0 || (l.drop 32).take 32 ≠ List.replicate 32 0 ||
      (sections l).any (·.reserved ≠ 0) || symReserved (bytesIn q 11) ||
      heads.any (fun h => !headerOk (bytesIn q 1).length (bytesIn q 5).length h) ||
      ((sect? l 10).isSome && !(LaunchRecord.ofBytes (bytesIn q 10)).ok kernels) then 4
  else if words.any (fun w => !narrowLegal w) || kernels.any (fun k => k.fmttab.any fun e => !narrowLegal e.2) then 5
  else if (relocsOf (bytesIn q 12)).any (·.bad q) then 6
  else if (sect? l 14).isSome && !(pt.keys.contains (part sig 0 48) && Config.signatureValid rest (part sig 0 48) (part sig 48 96))
    then 7
  else if (sect? l 14).isNone && !pt.unsigned then 8
  else if (sect? l 9).isSome && (csImage pt.keys cs).isNone then 9
  else if kernels.any (fun k => !kernelFits k) || ((csImage pt.keys cs).any fun m => !s.bindable p vf m) then 10
  else 0

/-! ## Loading -/

/-- Bytes written at a virtual address of a virtual function by the loader. -/
def State.virtPut (s : State) (p vf va : Nat) : List Byte → State
  | [] => s
  | b :: bs =>
    let r := s.virt p vf va .any
    let s := match r.1 with
      | some pa => r.2.writeCoherent pa 1 b.toNat
      | none => r.2
    s.virtPut p vf (va + 1) bs

/-- The slots of a control-store image bound on every core of the partition (R77). -/
def State.bindSlots (s : State) (p handle : Nat) (m : StoreImage) : State :=
  m.slots.foldl (init := s) fun s k =>
    s.modPart p fun q =>
      { q with
        store := upsert (·.slot == k.1) { slot := k.1, words := [], images := [] }
          (fun x => { x with words := k.2, images := x.images ++ [handle], loaded := if x.words = k.2 then x.loaded else none })
          q.store }

/-- An image that has passed every check made visible: its sections written, its slots bound, its launch
record started (R21, R30, R77). -/
def State.install_ (s : State) (p vf : Nat) (q : List Loaded) : State :=
  let handle := s.serial
  let s := { s with serial := s.serial + 1 }
  let s := (q.filter (·.addr ≠ 0)).foldl (fun s x => s.virtPut p vf x.addr x.bytes) s
  let kernels := (headersOf (bytesIn q 2)).map kernelOf
  let store := csImage (((s.part? p).map (·.keys)).getD []) (bytesIn q 9)
  let image : Image :=
    { handle := handle, vf := vf, sections := q.map fun x => (x.type, x.addr, x.bytes.length), kernels := kernels
      store := (store.map (·.bytes)).getD [] }
  let s := { s with images := s.images ++ [image] }
  let s := match store with
    | some m => s.bindSlots p handle m
    | none => s
  let r := LaunchRecord.ofBytes (bytesIn q 10)
  match q.any (·.type == 10), kernels[r.khdr]? with
  | true, some k => s.addLaunch p vf handle k r (r.gridx * r.gridy) (argWords r.args r.argbytes) none none
  | _, _ => s

/-- The sections of an image for which there is no place, so that the lowest code is still found (R30): each
loadable one stands at an address that no relocation overflows, and is judged as it came (log entry 118). -/
def unplaced (l : List Byte) : List Loaded :=
  (sections l).map fun q => { type := q.type, addr := if q.flags % 2 = 0 then 0 else 64, bytes := q.bytes l }

/-- The load of an image whose bytes are given: the refusal code, and the handle and the state when it is 0
(R30). -/
def State.loadImage (s : State) (p vf : Nat) (l : List Byte) : Nat × Nat × State :=
  if field l 0 4 ≠ 0x0058504F || field l 12 4 ≠ 64 then (1, 0, s)
  else if field l 4 2 ≠ 1 then (2, 0, s)
  else if sectionBad l then (3, 0, s)
  else
    match s.placeAll p vf l (sections l) s.serial (s.occupied vf) with
    | none =>
      let code := s.imageCode p vf l (unplaced l)
      (if code = 0 then 10 else code, 0, s)
    | some q =>
      let q := relocate q
      let code := s.imageCode p vf l q
      if code ≠ 0 then (code, 0, s) else (0, s.serial, s.install_ p vf (setEntries q))

end Sys2Proof.Machine
end

