-- ==== Sys2Proof/Machine/HostQueues.lean ====
section
/-!
DEFINITION. The host's queues: their registers (R387, R388), the arrival of command entries (R389, R391), the
commands (R114, R389, R390, R427).
-/

namespace Sys2Proof.Machine

/-! ## Register blocks -/

/-- A queue of a virtual function whose registers answer: it is attached and not frozen (R365, R368). -/
def State.answers_ (s : State) (vf q : Nat) : Bool := q < 8 && (s.vf? vf).any fun v => v.part.isSome && !v.frozen

/-- A queue's registers as they stand; one that has never been written rests (R387). -/
def State.queueOf (s : State) (vf q : Nat) : HostQueue := (s.queue? vf q).getD { q := q }

/-- A host request through a virtual function that names another's queue is a violation: the function it came
through is frozen, and its requests complete with an abort from then on (R367, R368). -/
def State.strayRequest (s : State) (via : Nat) : State :=
  match s.vf? via with
  | none => s
  | some v =>
    match v.part with
    | none => s
    | some p => if v.frozen then s else s.violate p (.vf via)

/-- DOORBELL: a tail strictly ahead of the current one and within the ring is taken; any other is ignored and
noted (R388). One that names another function's queue is a violation (R367). -/
def execDoorbell (via vf queue : Nat) (tail : BitVec 32) (s : State) : Host.Outcome State Fault Refusal :=
  if via ≠ vf then .next (s.strayRequest via)
  else if !s.answers_ vf queue then .next s
  else
    let h := s.queueOf vf queue
    let dh := (tail - h.head).toNat
    let dt := (h.tail - h.head).toNat
    .next (s.modHostQueue vf queue fun h =>
      if dt < dh && dh ≤ 2 ^ h.lgn then { h with tail := tail } else { h with refusedBell := true })

/-- QUEUE_ENABLE (R387). -/
def execQueueEnable (path : HostPath) (queue : Nat) (on : Bool) (s : State) : Host.Outcome State Fault Refusal :=
  if path.via ≠ path.vf then .next (s.strayRequest path.via)
  else if !s.answers_ path.vf queue then .next s
  else .next (s.modHostQueue path.vf queue fun h => { h with enabled := on })

/-- The status byte of a queue (R387). -/
def HostQueue.status (h : HostQueue) : Nat := (if h.enabled then 1 else 0) + if h.refusedBell then 2 else 0

/-- The 64 bytes of a queue's register block as the host reads them, low byte first: the doorbell, which the spec
gives a write alone, reads as zero (R387, log entry 132). -/
def HostQueue.block (h : HostQueue) : List Byte :=
  leBytes 0 4 ++ leBytes (if h.enabled then 1 else 0) 1 ++ leBytes h.status 1 ++ leBytes h.lgn 1 ++ leBytes h.vector 1 ++
    leBytes h.base.toNat 8 ++ leBytes h.cbase.toNat 8 ++ leBytes 0 4 ++ leBytes h.head.toNat 4 ++ leBytes 0 32

/-- QUEUE_STATUS_READ: some bytes of a queue's block are returned; a read of the status byte starts its refused
indication again (R387). A frozen virtual function's read is aborted (R368). -/
def execQueueStatusRead (path : HostPath) (what : QueueBytes) (s : State) : Host.Outcome State Fault Refusal :=
  if path.via ≠ path.vf then .next ((s.strayRequest path.via).answer hostSender 0 0 true)
  else if !s.answers_ path.vf what.queue || 64 < what.off + what.n then .next (s.answer hostSender 0 0 true)
  else
    let v := mle (mwb [] 0 (s.queueOf path.vf what.queue).block) what.off what.n
    let s := s.answer hostSender 0 v false
    .next (if what.off ≤ 5 ∧ 5 < what.off + what.n then
        s.modHostQueue path.vf what.queue fun h => { h with refusedBell := false }
      else s)

/-- A register field that only stores, written; a value outside the field's limits is ignored (R387). -/
def HostQueue.put (h : HostQueue) (field : QueueField) (v : BitVec 64) : HostQueue :=
  match field with
  | .base => if v.toNat % 128 = 0 then { h with base := v } else h
  | .cbase => if v.toNat % 64 = 0 then { h with cbase := v } else h
  | .vector => if v.toNat < 8 then { h with vector := v.toNat } else h
  | .lgn => if 4 ≤ v.toNat ∧ v.toNat ≤ 16 then { h with lgn := v.toNat } else h

/-- REGISTER_WRITE: while a queue is enabled only its enable byte can be written (R387). -/
def execRegisterWrite (path : HostPath) (queue : Nat) (field : QueueField) (value : BitVec 64) (s : State) :
    Host.Outcome State Fault Refusal :=
  if path.via ≠ path.vf then .next (s.strayRequest path.via)
  else if !s.answers_ path.vf queue || (s.queueOf path.vf queue).enabled then .next s
  else .next (s.modHostQueue path.vf queue fun h => h.put field value)

/-! ## Command entries -/

/-- A command from the 128 bytes of its entry (R389). -/
def Command.of (pos : Nat) (b : Nat) : Command :=
  { pos := pos, cmd := bits b 0 16, fence := b.testBit 16, tag := BitVec.ofNat 64 (bits b 64 64)
    arg := BitVec.ofNat 64 (bits b 128 64), body := BitVec.ofNat 512 (bits b 512 512)
    reserved := bits b 17 15 ≠ 0 || bits b 32 32 ≠ 0 || bits b 192 320 ≠ 0 }

/-- Whether a command cannot run: an unknown command or a reserved field (R390). -/
def Command.bad (c : Command) : Bool := c.cmd = 0 || 6 < c.cmd || c.reserved

/-- The next command of a queue to start, in ring order: a fenced one waits for every earlier one (R389). -/
def HostQueue.nextCommand (h : HostQueue) : Option Command :=
  match h.cmds.find? (!·.started) with
  | none => none
  | some c => if c.fence && h.cmds.any (fun d => d.pos ≠ c.pos && d.started) then none else some c

/-- The virtual function's queue with the command that starts now, and its partition; none while the virtual
function is frozen, or the stack that homes host memory is being reset (R373). -/
def State.startable (s : State) (vf queue : Nat) : Option (Nat × HostQueue × Command) :=
  match s.vf? vf, s.queue? vf queue with
  | some v, some h =>
    if v.frozen || !s.homeUp (hostAddr 0) then none
    else match v.part, h.nextCommand with
      | some p, some c => some (p, h, c)
      | _, _ => none
  | _, _ => none

/-- Whether a queue has an entry to fetch. -/
def State.fetchable (s : State) (vf queue : Nat) : Bool :=
  s.answers_ vf queue && s.homeUp (hostAddr 0) && (s.queue? vf queue).any fun h => h.enabled && h.head ≠ h.tail

/-- COMMAND_ENTRY_ARRIVAL: the read of the next entry completes (R391); with none to fetch, a command that cannot
run completes with status 16 in its turn (R390). -/
def execCommandEntryArrival (vf queue : Nat) (s : State) : Host.Outcome State Fault Refusal :=
  if s.fetchable vf queue then
    let h := s.queueOf vf queue
    let r := s.readCoherent (hostAddr (h.base.toNat + 128 * (h.head.toNat % 2 ^ h.lgn))) 128
    .next (r.2.modHostQueue vf queue fun h =>
      { h with head := h.head + 1, cmds := h.cmds ++ [Command.of h.head.toNat r.1] })
  else
    match s.startable vf queue with
    | some (_, _, c) => if c.bad then .next (s.complete vf queue c.pos 16 0) else .next s
    | none => .next s

/-- A command marked as started. -/
def State.begin_ (s : State) (vf queue pos : Nat) : State :=
  s.modHostQueue vf queue fun h => { h with cmds := change (·.pos == pos) (fun c => { c with started := true }) h.cmds }

/-- The command that starts now when it has a given code. -/
def State.command (s : State) (vf queue cmd : Nat) : Option (Nat × Command) :=
  match s.startable vf queue with
  | some (p, _, c) => if c.cmd = cmd ∧ !c.bad then some (p, c) else none
  | none => none

/-- The image of a virtual function that a command is to use: one whose unload waits takes no new use (log entry
133). -/
def State.imageOf (s : State) (vf handle : Nat) : Option Image :=
  (s.image? handle).bind fun m => if m.vf = vf ∧ !m.unloading then some m else none

/-! ## The commands -/

/-- Whether a load has to wait: a stack that homes frames of the partition is being reset (R373), or the image's
own launch finds no free region block (R111, log entry 119). -/
def State.loadWaits (s : State) (p : Nat) (l : List Byte) : Bool :=
  (((s.part? p).map (·.channels)).getD []).any (fun ch => !s.homeUp (ch / 32 * 2 ^ 37)) ||
    ((sections l).any (·.type == 10) && !s.roomForLaunch p (s.serial + 1))

/-- LOAD_IMAGE (R30, R389): the completion carries the handle, or the refusal code. -/
def execLoadImage (vf queue : Nat) (s : State) : Host.Outcome State Fault Refusal :=
  match s.command vf queue 1 with
  | none => .next s
  | some (p, c) =>
    let s := s.quiesce p
    let at_ := hostAddr c.arg.toNat
    let size := mle s.mem (at_ + 24) 8
    let l := mrb s.mem at_ (max 64 size)
    if s.loadWaits p l then .next s
    else
    let r := s.loadImage p vf l
    .next (r.2.2.complete vf queue c.pos r.1 r.2.1)

/-- An unload that waits for its image's launches and may end now: its completion reaches host memory (R373, R389). -/
def State.endingUnload (s : State) (vf queue : Nat) : Option (Nat × Command) :=
  match s.vf? vf, s.queue? vf queue with
  | some v, some h =>
    match v.part, h.cmds.find? fun c => c.started && c.cmd == 2 && !(s.launches.any fun l => l.image == c.arg.toNat % 2 ^ 32) with
    | some p, some c => if s.homeUp (hostAddr 0) then some (p, c) else none
    | _, _ => none
  | _, _ => none

/-- An image removed: its sections' addresses are free, the slots it alone binds are free (R77, R389). -/
def State.removeImage (s : State) (p handle : Nat) : State :=
  let free (x : StoreSlot) : StoreSlot := { x with images := x.images.filter (· ≠ handle) }
  ({ s with images := s.images.filter (·.handle != handle) }).modPart p fun q => { q with store := q.store.map free }

/-- An image that takes no new launch, since its unload waits. -/
def State.holdImage (s : State) (handle : Nat) : State :=
  let hold (m : Image) : Image := { m with unloading := true }
  { s with images := change (·.handle == handle) hold s.images }

/-- UNLOAD_IMAGE: the image is removed once its launches have ended (R389). -/
def execUnloadImage (vf queue : Nat) (s : State) : Host.Outcome State Fault Refusal :=
  match s.endingUnload vf queue with
  | some (p, c) => .next ((s.removeImage p (c.arg.toNat % 2 ^ 32)).complete vf queue c.pos 0 0)
  | none =>
    match s.command vf queue 2 with
    | none => .next s
    | some (p, c) =>
      let h := c.arg.toNat % 2 ^ 32
      match s.imageOf vf h with
      | none => .next (s.complete vf queue c.pos 17 0)
      | some _ =>
        if s.launches.any (·.image == h) then
          .next ((s.holdImage h).begin_ vf queue c.pos)
        else .next ((s.removeImage p h).complete vf queue c.pos 0 0)

/-- LAUNCH: the groups of the grid wait for placement; the command completes when the last has ended (R114,
R390). One whose region block would be the partition's 4,097th waits for a block (R111, log entry 119). -/
def execLaunch (vf queue : Nat) (s : State) : Host.Outcome State Fault Refusal :=
  match s.command vf queue 3 with
  | none => .next s
  | some (p, c) =>
    let h := c.arg.toNat % 2 ^ 32
    let r := LaunchRecord.ofBytes (leBytes c.body.toNat 64)
    match s.imageOf vf h with
    | none => .next (s.complete vf queue c.pos 17 0)
    | some m =>
      match m.kernels[r.khdr]? with
      | none => .next (s.complete vf queue c.pos 16 0)
      | some k =>
        if !r.ok m.kernels then .next (s.complete vf queue c.pos 16 0)
        else if !s.roomForLaunch p s.serial then .next s
        else
          .next ((s.addLaunch p vf h k r (r.gridx * r.gridy) (argWords r.args r.argbytes) (some (queue, c.pos, c.tag)) none).begin_
            vf queue c.pos)

/-- Whether a queue descriptor obeys R132, by its 64 bytes as a number. -/
def descOk (v : Nat) : Bool :=
  let d := QueueDesc.ofNat v
  d.ring % 64 = 0 && 4 ≤ d.rbytes && d.rbytes ≤ 64 && d.rbytes % 4 = 0 && 1 ≤ d.cap &&
    1 ≤ d.ccount && d.ccount ≤ d.cap && 1 ≤ d.cdl && bits v 128 48 = 0 && bits v 178 6 = 0 && bits v 384 128 = 0

/-- REGISTER_GRAPH_QUEUE (R132, R389). -/
def execRegisterGraphQueue (vf queue : Nat) (s : State) : Host.Outcome State Fault Refusal :=
  match s.command vf queue 4 with
  | none => .next s
  | some (p, c) =>
    let r := s.virtRead p vf c.arg.toNat 64
    let h := c.body.toNat % 2 ^ 32
    let s := r.2
    if r.1.isNone && s.away p vf c.arg.toNat .read then .next s
    else
    let v := r.1.getD 0
    let d := QueueDesc.ofNat v
    let known := s.graphQueue? vf c.arg
    let status :=
      if r.1.isNone || c.arg.toNat % 64 ≠ 0 || !descOk v then 16
      else if !d.persistent && (s.imageOf vf h).isNone then 17
      else if d.closed || known.any (·.closed) then 19
      else 0
    let s := if status ≠ 0 || known.isSome then s
      else s.modVf vf fun f => { f with graphs := f.graphs ++ [{ vf := vf, desc := c.arg, image := h }] }
    .next (s.complete vf queue c.pos status 0)

/-- CLOSE_GRAPH_QUEUE: the closed flag of the descriptor is set, and the queue takes no record (R133, R389). -/
def execCloseGraphQueue (vf queue : Nat) (s : State) : Host.Outcome State Fault Refusal :=
  match s.command vf queue 5 with
  | none => .next s
  | some (p, c) =>
    match s.graphQueue? vf c.arg with
    | none => .next (s.complete vf queue c.pos 16 0)
    | some q =>
      if q.closed then .next (s.complete vf queue c.pos 19 0)
      else
        let r := s.virtRead p vf (c.arg.toNat + 22) 1
        let w := r.2.virtWrite p vf (c.arg.toNat + 22) 1 (r.1.getD 0 ||| 2)
        if w.1.isNone && w.2.away p vf c.arg.toNat .write then .next w.2
        else
        let s := (w.1.getD w.2).modQueue vf c.arg fun q => { q with closed := true }
        .next (s.complete vf queue c.pos 0 0)

/-- The result buffer of a describe command (R427). -/
def Image.describe (m : Image) : List Byte :=
  fitTo 512 (m.sections.flatMap fun q => leBytes q.1 4 ++ leBytes 0 4 ++ leBytes q.2.1 8 ++ leBytes q.2.2 8 ++ leBytes 0 8)

/-- DESCRIBE_IMAGE (R427). -/
def execDescribeImage (vf queue : Nat) (s : State) : Host.Outcome State Fault Refusal :=
  match s.command vf queue 6 with
  | none => .next s
  | some (p, c) =>
    let at_ := c.body.toNat % 2 ^ 64
    match (s.image? (c.arg.toNat % 2 ^ 32)).filter (·.vf == vf) with
    | none => .next (s.complete vf queue c.pos 17 0)
    | some m =>
      if at_ % 64 ≠ 0 then .next (s.complete vf queue c.pos 16 0)
      else .next (((s.quiesce p).putBytes (hostAddr at_) m.describe).complete vf queue c.pos 0 m.sections.length)

end Sys2Proof.Machine
end

