-- ==== Sys2Proof/Machine/Integer.lean ====
section
/-!
DEFINITION. The words of the A pipe's integer, predicate and constant families (R145 to R163), and NOP.
-/

namespace Sys2Proof.Machine

/-- Whether an add-family variant works on pairs, and whether its result is a pair (R147). -/
def addPair (v : BitVec 3) : Bool := v = 3
def addWide (v : BitVec 3) : Nat := if 3 ≤ v.toNat then 2 else 1

/-- An operand of the add family as an exact integer (R147). -/
def Env.addOperand (e : Env) (fb : Fibre) (v : BitVec 3) (code : BitVec 7) : Int :=
  if addPair v then (e.op64 fb code).toNat
  else if v = 1 || v = 4 then (e.op32 fb code).toInt
  else (e.op32 fb code).toNat

/-- The addend of IMAD, read from the registers D names (R148). -/
def Env.addend (e : Env) (fb : Fibre) (v : BitVec 3) (code : BitVec 7) : Int :=
  if 3 ≤ v.toNat then (e.pairAt fb code 0).toInt
  else if v = 1 then (e.regAt fb code 0).toInt
  else (e.regAt fb code 0).toNat

/-- A result of the add family. -/
def Fibre.putAdd (fb : Fibre) (e : Env) (f : F3) (x : Int) : Fibre :=
  fb.put e .A f.d (addWide f.x) (addResult f.x x)

/-- NOP has no effect (R75). -/
def execNop (f : F3) (s : State) : Host.Outcome State Fault Refusal :=
  s.issue (.nop f) f.c noCheck fun s _ => s

/-- IADD (R148). -/
def execIadd (f : F3) (s : State) : Host.Outcome State Fault Refusal :=
  s.issueEach (.iadd f) f.c fun e fb =>
    fb.putAdd e f (e.addOperand fb f.x f.a + e.addOperand fb f.x f.b)

/-- ISUB (R148). -/
def execIsub (f : F3) (s : State) : Host.Outcome State Fault Refusal :=
  s.issueEach (.isub f) f.c fun e fb =>
    fb.putAdd e f (e.addOperand fb f.x f.a - e.addOperand fb f.x f.b)

/-- INEG (R148). -/
def execIneg (f : F3) (s : State) : Host.Outcome State Fault Refusal :=
  s.issueEach (.ineg f) f.c fun e fb => fb.putAdd e f (0 - e.addOperand fb f.x f.a)

/-- IABS reads its operand as signed in every variant (R148). -/
def execIabs (f : F3) (s : State) : Host.Outcome State Fault Refusal :=
  s.issueEach (.iabs f) f.c fun e fb =>
    let a : Int := if addPair f.x then (e.op64 fb f.a).toInt else (e.op32 fb f.a).toInt
    fb.putAdd e f a.natAbs

/-- IMUL (R148). -/
def execImul (f : F3) (s : State) : Host.Outcome State Fault Refusal :=
  s.issueEach (.imul f) f.c fun e fb =>
    fb.putAdd e f (e.addOperand fb f.x f.a * e.addOperand fb f.x f.b)

/-- IMULH (R149). -/
def execImulh (f : F3) (s : State) : Host.Outcome State Fault Refusal :=
  s.issueEach (.imulh f) f.c fun e fb =>
    let wide := 2 ≤ f.x.toNat
    let arg (code : BitVec 7) : Int :=
      if f.x = 0 then (e.op32 fb code).toInt
      else if f.x = 1 then (e.op32 fb code).toNat
      else if f.x = 2 then (e.op64 fb code).toInt
      else (e.op64 fb code).toNat
    let n := if wide then 64 else 32
    fb.put e .A f.d (if wide then 2 else 1) (wrap n (arg f.a * arg f.b / 2 ^ n))

/-- IMAD accumulates into the registers D names (R148). -/
def execImad (f : F3) (s : State) : Host.Outcome State Fault Refusal :=
  s.issueEach (.imad f) f.c fun e fb =>
    fb.putAdd e f (e.addend fb f.x f.d + e.addOperand fb f.x f.a * e.addOperand fb f.x f.b)

/-- IDIV, with a deferrable result (R150, R66). -/
def execIdiv (f : F3) (s : State) : Host.Outcome State Fault Refusal :=
  s.issueEach (.idiv f) f.c fun e fb =>
    fb.putLater e .A f.d 1 (idiv f.x (e.op32 fb f.a) (e.op32 fb f.b)).toNat

/-- IMM (R151). -/
def execImm (f : F3) (s : State) : Host.Outcome State Fault Refusal :=
  s.issueEach (.imm f) f.c fun e fb => fb.put32 e .A f.d (imm f.x (e.op32 fb f.a) (e.op32 fb f.b))

/-- ICMP (R152). -/
def execIcmp (f : F3) (s : State) : Host.Outcome State Fault Refusal :=
  s.issueEach (.icmp f) f.c fun e fb =>
    fb.putPred f.d.toNat (icmp f.x (e.op32 fb f.a) (e.op32 fb f.b))

/-- LOG (R153). -/
def execLog (f : F3) (s : State) : Host.Outcome State Fault Refusal :=
  s.issueEach (.log f) f.c fun e fb => fb.put32 e .A f.d (logic f.x (e.op32 fb f.a) (e.op32 fb f.b))

/-- SHF (R154). -/
def execShf (f : F3) (s : State) : Host.Outcome State Fault Refusal :=
  s.issueEach (.shf f) f.c fun e fb => fb.put32 e .A f.d (shf f.x (e.op32 fb f.a) (e.op32 fb f.b))

/-- BFX (R155). -/
def execBfx (f : F3) (s : State) : Host.Outcome State Fault Refusal :=
  s.issueEach (.bfx f) f.c fun e fb => fb.put32 e .A f.d (bfx f.x (e.op32 fb f.a) (e.op32 fb f.b))

/-- BFI inserts into the register D names (R155). -/
def execBfi (f : F3) (s : State) : Host.Outcome State Fault Refusal :=
  s.issueEach (.bfi f) f.c fun e fb =>
    fb.put32 e .A f.d (bfi (e.regAt fb f.d 0) (e.op32 fb f.a) (e.op32 fb f.b))

/-- BIT (R156). -/
def execBit (f : F3) (s : State) : Host.Outcome State Fault Refusal :=
  s.issueEach (.bit f) f.c fun e fb => fb.put32 e .A f.d (bitCount f.x (e.op32 fb f.a))

/-- LEA (R157). -/
def execLea (f : F3) (s : State) : Host.Outcome State Fault Refusal :=
  s.issueEach (.lea f) f.c fun e fb =>
    fb.put64 e .A f.d (e.op64 fb f.a + ((e.op32 fb f.b).signExtend 64 <<< f.x.toNat))

/-- SEL (R158). -/
def execSel (f : F3) (s : State) : Host.Outcome State Fault Refusal :=
  s.issueEach (.sel f) f.c fun e fb =>
    fb.put32 e .A f.d (if fb.pred f.x.toNat then e.op32 fb f.a else e.op32 fb f.b)

/-- MOV (R159). -/
def execMov (f : F3) (s : State) : Host.Outcome State Fault Refusal :=
  s.issueEach (.mov f) f.c fun e fb =>
    if f.x = 1 then fb.put64 e .A f.d (e.op64 fb f.a) else fb.put32 e .A f.d (e.op32 fb f.a)

/-- MOVT writes FPCTL; the flags that F-pipe words of its own chain group raise merge into what it
wrote (R160, R168, R170). -/
def execMovt (f : F3) (s : State) : Host.Outcome State Fault Refusal :=
  s.issueEach (.movt f) f.c fun e fb =>
    { fb with ctx := { fb.ctx with fpctl := (e.op32 fb f.b &&& fpctlMask) ||| flagBits fb.raised } }

/-- IDOT4 (R162). -/
def execIdot4 (f : F3) (s : State) : Host.Outcome State Fault Refusal :=
  s.issueEach (.idot4 f) f.c fun e fb =>
    fb.put32 e .A f.d (idot4 f.x (e.regAt fb f.d 0) (e.op32 fb f.a) (e.op32 fb f.b))

/-- PLOG (R153). -/
def execPlog (f : F3) (s : State) : Host.Outcome State Fault Refusal :=
  s.issueEach (.plog f) f.c fun _ fb =>
    fb.putPred f.d.toNat
      (logic f.x (BitVec.ofBool (fb.pred f.a.toNat)) (BitVec.ofBool (fb.pred f.b.toNat)) == 1#1)

/-- PRD (R163). -/
def execPrd (f : F3) (s : State) : Host.Outcome State Fault Refusal :=
  s.issueEach (.prd f) f.c fun e fb => fb.put32 e .A f.d (slice f.x (fb.snap.preds ||| 1))

/-- PWR (R163). A write to p0 is discarded. -/
def execPwr (f : F3) (s : State) : Host.Outcome State Fault Refusal :=
  s.issueEach (.pwr f) f.c fun e fb =>
    let mask := if f.x = 0 then e.op32 fb f.b &&& ~~~1 else e.op32 fb f.b
    { fb with ctx := { fb.ctx with preds := setSlice f.x fb.ctx.preds (e.op32 fb f.a) mask } }

/-- LIM (R161). -/
def execLim (f : FK) (s : State) : Host.Outcome State Fault Refusal :=
  s.issueEach (.lim f) f.c fun e fb => fb.put32 e .A f.d (f.k.signExtend 32)

/-- LIMH (R161). -/
def execLimh (f : FK) (s : State) : Host.Outcome State Fault Refusal :=
  s.issueEach (.limh f) f.c fun e fb => fb.put32 e .A f.d (limh f.k fb.snap.lat.la0)

/-- The exact targets of the deadline instructions (R92): the value clamped to R89's bound. -/
def clampTo (v lim : Nat) : Nat × Nat := if lim < v then (lim, 1) else (v, 0)

/-- A deadline register written with WSTAT of class 0; detail bit 0 notes the clamp (R92). -/
def Fibre.setDeadline (fb : Fibre) (k : BitVec 3) (budget : Bool) (target clamped : Nat) : Fibre :=
  let fb := { fb with ctx := { fb.ctx with
    dl := sset 0 fb.ctx.dl k.toNat (deadlineOf budget (BitVec.ofNat 64 target)) } }
  fb.status .ok 0 clamped

/-- TICK (R91). -/
def execTick (f : F3) (s : State) : Host.Outcome State Fault Refusal :=
  s.issueEach (.tick f) f.c fun e fb => fb.put64 e .A f.d (if f.x = 0 then e.tick else fb.rtk)

/-- DLSET (R92). -/
def execDlset (f : F3) (s : State) : Host.Outcome State Fault Refusal :=
  s.issueEach (.dlset f) f.c fun e fb =>
    let t := clampTo (e.op64 fb f.a).toNat (e.tick.toNat + maxAhead)
    fb.setDeadline f.x false t.1 t.2

/-- DLREL (R92). -/
def execDlrel (f : F3) (s : State) : Host.Outcome State Fault Refusal :=
  s.issueEach (.dlrel f) f.c fun e fb =>
    let t := clampTo (e.op64 fb f.a).toNat maxAhead
    fb.setDeadline f.x false (e.tick.toNat + t.1) t.2

/-- DLBUD (R92). -/
def execDlbud (f : F3) (s : State) : Host.Outcome State Fault Refusal :=
  s.issueEach (.dlbud f) f.c fun e fb =>
    let t := clampTo (e.op64 fb f.a).toNat maxAhead
    fb.setDeadline f.x true (fb.rtk.toNat + t.1) t.2

/-- DLGET (R91). -/
def execDlget (f : F3) (s : State) : Host.Outcome State Fault Refusal :=
  s.issueEach (.dlget f) f.c fun e fb =>
    fb.put64 e .A f.d (if f.x = 0 then e.tick else sget 0 fb.snap.dl f.x.toNat)

/-- ESCAL writes its status at once and asks for the escalation trap after the run (R108, R346). -/
def execEscal (f : FK) (s : State) : Host.Outcome State Fault Refusal :=
  s.issueEach (.escal f) f.c fun _ fb =>
    let fb := (fb.status .escalated 14 f.k.toNat).putPred 1 false
    { fb with after := { fb.after with escal := some f.k.toNat } }

end Sys2Proof.Machine
end

