-- ==== Sys2Proof/Machine/Specials.lean ====
section
/-!
DEFINITION. MOVS, which reads every special of R53, and DBG (R404).
-/

namespace Sys2Proof.Machine

/-- PGST of a core (R383). -/
def State.pgst (s : State) (core : Nat) : Nat :=
  let own := s.core core
  let other := s.core (partnerOf core)
  own.gate.num + other.gate.num * 4 + (if other.gate = .pending && other.force then 16 else 0) +
    other.spill.length * 256

/-- The low or high word of a 64-bit special. -/
def loWord (v : DWord) : Word := v.setWidth 32
def hiWord (v : DWord) : Word := (v >>> 32).setWidth 32

/-- Special n of a fibre as MOVS reads it at issue (R53). -/
def State.special (s : State) (g : Group) (core : Nat) (fb : Fibre) (n : Nat) : Word :=
  match n with
  | 0 => fb.snap.wstat
  | 1 => fb.snap.fpctl
  | 2 => hiWord (s.tickAt core)
  | 3 => loWord fb.rtk
  | 4 => hiWord fb.rtk
  | 5 => BitVec.ofNat 32 (fifoSize - (s.core core).fifo.length)
  | 6 => BitVec.ofNat 32 (s.incoming core).length
  | 7 => BitVec.ofNat 32 g.spb
  | 8 => BitVec.ofNat 32 g.spl
  | 9 => loWord fb.snap.prom
  | 10 => hiWord fb.snap.prom
  | 11 => BitVec.ofNat 32 core
  | 12 => BitVec.ofNat 32 (clusterOf core)
  | 13 => BitVec.ofNat 32 (fb.fid / 32)
  | 14 => BitVec.ofNat 32 (g.index % g.gridx)
  | 15 => BitVec.ofNat 32 (g.index / g.gridx)
  | 16 => fb.snap.fval
  | 17 => fb.snap.fvah
  | 18 => fb.snap.finfo
  | 19 => fb.snap.loclvl
  | 20 => BitVec.ofNat 32 (s.pgst core)
  | 21 => loWord fb.snap.epc
  | 22 => fb.snap.escnt.setWidth 32
  | 23 => BitVec.ofNat 32 (s.landingFree core)
  | 24 => BitVec.ofNat 32 (((s.core core).run.map (·.obFree)).getD g.obFree)
  | 25 => BitVec.ofNat 32 g.part
  | _ => BitVec.ofNat 32 g.vf

/-- MOVS (R160): A is the inline constant that numbers the special. -/
def execMovs (f : F3) (s : State) : Host.Outcome State Fault Refusal :=
  s.issue (.movs f) f.c noCheck fun s r =>
    match s.group? r.grp with
    | none => s
    | some g => s.eachMember r fun e fb => fb.put32 e .A f.d (s.special g e.core fb (f.a.toNat - 96))

/-- DBG.frz needs the privileged mark (R404, R366). -/
def dbgCheck (f : F3) (s : State) (r : Run) : Check :=
  if f.x = 2 && !((s.group? r.grp).any (·.pol.privileged)) then
    .fault { kind := 7, cause := 7, failing := maskOf r.fids }
  else .ok

/-- DBG (R404): a marker record, a stall-reason counter, or a request for a partition freeze. -/
def execDbg (f : F3) (s : State) : Host.Outcome State Fault Refusal :=
  s.issue (.dbg f) f.c (dbgCheck f) fun s r =>
    match s.group? r.grp with
    | none => s
    | some g =>
      let e := s.env r
      let lead := s.lead r
      if f.x = 0 then
        s.traceRecord s.cur g.vf g.gid 4 lead.fid e.mask
          (BitVec.ofNat 96 ((e.op32 lead f.a).toNat + (e.op32 lead f.b).toNat * 2 ^ 32))
      else if f.x = 1 then
        s.eachMember r fun e fb => fb.put64 e .X f.d (sget 0 g.stall ((e.op32 fb f.a).toNat % 16))
      else
        let v := s.askFreeze (some g.part) (e.op64 lead f.a) false
        v.2.eachMember r fun e fb => fb.put32 e .X f.d (BitVec.ofNat 32 v.1)

end Sys2Proof.Machine
end

