-- ==== Sys2Proof/Machine/Dispatch.lean ====
section
/-!
DEFINITION. One arm per step of the opcode table, each a direct call of its meaning.
-/

namespace Sys2Proof.Machine

/-- What one step of the table does to the machine. -/
def exec (i : Instr) (s : State) : Host.Outcome State Fault Refusal :=
  match i with
  | .nop f => Sys2Proof.Machine.execNop f s
  | .trail f => Sys2Proof.Machine.execTrail f s
  | .mcall f => Sys2Proof.Machine.execMcall f s
  | .csld f => Sys2Proof.Machine.execCsld f s
  | .trap f => Sys2Proof.Machine.execTrap f s
  | .sysc f => Sys2Proof.Machine.execSysc f s
  | .eret f => Sys2Proof.Machine.execEret f s
  | .iadd f => Sys2Proof.Machine.execIadd f s
  | .isub f => Sys2Proof.Machine.execIsub f s
  | .ineg f => Sys2Proof.Machine.execIneg f s
  | .iabs f => Sys2Proof.Machine.execIabs f s
  | .imul f => Sys2Proof.Machine.execImul f s
  | .imulh f => Sys2Proof.Machine.execImulh f s
  | .imad f => Sys2Proof.Machine.execImad f s
  | .idiv f => Sys2Proof.Machine.execIdiv f s
  | .imm f => Sys2Proof.Machine.execImm f s
  | .icmp f => Sys2Proof.Machine.execIcmp f s
  | .log f => Sys2Proof.Machine.execLog f s
  | .shf f => Sys2Proof.Machine.execShf f s
  | .bfx f => Sys2Proof.Machine.execBfx f s
  | .bfi f => Sys2Proof.Machine.execBfi f s
  | .bit f => Sys2Proof.Machine.execBit f s
  | .lea f => Sys2Proof.Machine.execLea f s
  | .sel f => Sys2Proof.Machine.execSel f s
  | .mov f => Sys2Proof.Machine.execMov f s
  | .movs f => Sys2Proof.Machine.execMovs f s
  | .movt f => Sys2Proof.Machine.execMovt f s
  | .idot4 f => Sys2Proof.Machine.execIdot4 f s
  | .plog f => Sys2Proof.Machine.execPlog f s
  | .prd f => Sys2Proof.Machine.execPrd f s
  | .pwr f => Sys2Proof.Machine.execPwr f s
  | .lim f => Sys2Proof.Machine.execLim f s
  | .limh f => Sys2Proof.Machine.execLimh f s
  | .fmts f => Sys2Proof.Machine.execFmts f s
  | .obres f => Sys2Proof.Machine.execObres f s
  | .obrel f => Sys2Proof.Machine.execObrel f s
  | .bbld f => Sys2Proof.Machine.execBbld f s
  | .mma f => Sys2Proof.Machine.execMma f s
  | .mmas f => Sys2Proof.Machine.execMmas f s
  | .accz f => Sys2Proof.Machine.execAccz f s
  | .accrd f => Sys2Proof.Machine.execAccrd f s
  | .accwr f => Sys2Proof.Machine.execAccwr f s
  | .compr f => Sys2Proof.Machine.execCompr f s
  | .gathr f => Sys2Proof.Machine.execGathr f s
  | .mtile f => Sys2Proof.Machine.execMtile f s
  | .mtq f => Sys2Proof.Machine.execMtq f s
  | .fadd f => Sys2Proof.Machine.execFadd f s
  | .fsub f => Sys2Proof.Machine.execFsub f s
  | .fmul f => Sys2Proof.Machine.execFmul f s
  | .fma f => Sys2Proof.Machine.execFma f s
  | .fmin f => Sys2Proof.Machine.execFmin f s
  | .fmax f => Sys2Proof.Machine.execFmax f s
  | .fcmp f => Sys2Proof.Machine.execFcmp f s
  | .dcmp f => Sys2Proof.Machine.execDcmp f s
  | .fsgn f => Sys2Proof.Machine.execFsgn f s
  | .frnd f => Sys2Proof.Machine.execFrnd f s
  | .cvt f => Sys2Proof.Machine.execCvt f s
  | .qcvt f => Sys2Proof.Machine.execQcvt f s
  | .fdiv f => Sys2Proof.Machine.execFdiv f s
  | .fsqrt f => Sys2Proof.Machine.execFsqrt f s
  | .sfu f => Sys2Proof.Machine.execSfu f s
  | .pk2 f => Sys2Proof.Machine.execPk2 f s
  | .upk2 f => Sys2Proof.Machine.execUpk2 f s
  | .fdot2 f => Sys2Proof.Machine.execFdot2 f s
  | .chgo f => Sys2Proof.Machine.execChgo f s
  | .chst f => Sys2Proof.Machine.execChst f s
  | .chstp f => Sys2Proof.Machine.execChstp f s
  | .cpy f => Sys2Proof.Machine.execCpy f s
  | .cprom f => Sys2Proof.Machine.execCprom f s
  | .tick f => Sys2Proof.Machine.execTick f s
  | .dlset f => Sys2Proof.Machine.execDlset f s
  | .dlrel f => Sys2Proof.Machine.execDlrel f s
  | .dlbud f => Sys2Proof.Machine.execDlbud f s
  | .dlget f => Sys2Proof.Machine.execDlget f s
  | .sleep f => Sys2Proof.Machine.execSleep f s
  | .escal f => Sys2Proof.Machine.execEscal f s
  | .br f => Sys2Proof.Machine.execBr f s
  | .brn f => Sys2Proof.Machine.execBrn f s
  | .jmp f => Sys2Proof.Machine.execJmp f s
  | .call f => Sys2Proof.Machine.execCall f s
  | .ret f => Sys2Proof.Machine.execRet f s
  | .fork f => Sys2Proof.Machine.execFork f s
  | .fend f => Sys2Proof.Machine.execFend f s
  | .fjoin f => Sys2Proof.Machine.execFjoin f s
  | .yield f => Sys2Proof.Machine.execYield f s
  | .gend f => Sys2Proof.Machine.execGend f s
  | .qemit f => Sys2Proof.Machine.execQemit f s
  | .qrecv f => Sys2Proof.Machine.execQrecv f s
  | .migr f => Sys2Proof.Machine.execMigr f s
  | .xshf f => Sys2Proof.Machine.execXshf f s
  | .xpsh f => Sys2Proof.Machine.execXpsh f s
  | .xrdi f => Sys2Proof.Machine.execXrdi f s
  | .xrdf f => Sys2Proof.Machine.execXrdf f s
  | .xrmn f => Sys2Proof.Machine.execXrmn f s
  | .xrmx f => Sys2Proof.Machine.execXrmx f s
  | .xscn f => Sys2Proof.Machine.execXscn f s
  | .xvot f => Sys2Proof.Machine.execXvot f s
  | .xffs f => Sys2Proof.Machine.execXffs f s
  | .vfpsh f => Sys2Proof.Machine.execVfpsh f s
  | .vfpop f => Sys2Proof.Machine.execVfpop f s
  | .ld f => Sys2Proof.Machine.execLd f s
  | .st f => Sys2Proof.Machine.execSt f s
  | .lda f => Sys2Proof.Machine.execLda f s
  | .stl f => Sys2Proof.Machine.execStl f s
  | .ldwt f => Sys2Proof.Machine.execLdwt f s
  | .rsrev f => Sys2Proof.Machine.execRsrev f s
  | .locate f => Sys2Proof.Machine.execLocate f s
  | .cache f => Sys2Proof.Machine.execCache f s
  | .lds f => Sys2Proof.Machine.execLds f s
  | .sts f => Sys2Proof.Machine.execSts f s
  | .ldsc f => Sys2Proof.Machine.execLdsc f s
  | .femk f => Sys2Proof.Machine.execFemk f s
  | .binit f => Sys2Proof.Machine.execBinit f s
  | .barv f => Sys2Proof.Machine.execBarv f s
  | .bwait f => Sys2Proof.Machine.execBwait f s
  | .baw f => Sys2Proof.Machine.execBaw f s
  | .atom f => Sys2Proof.Machine.execAtom f s
  | .atox f => Sys2Proof.Machine.execAtox f s
  | .cas f => Sys2Proof.Machine.execCas f s
  | .redm f => Sys2Proof.Machine.execRedm f s
  | .fence f => Sys2Proof.Machine.execFence f s
  | .pgate f => Sys2Proof.Machine.execPgate f s
  | .dbg f => Sys2Proof.Machine.execDbg f s
  | .bundlePick core => Sys2Proof.Machine.execBundlePick core s
  | .deferredResultLanding grp fid => Sys2Proof.Machine.execDeferredResultLanding grp fid s
  | .waitConditionMet grp fid => Sys2Proof.Machine.execWaitConditionMet grp fid s
  | .waitDeadlinePassed grp fid => Sys2Proof.Machine.execWaitDeadlinePassed grp fid s
  | .waitImmediateOutcome grp fid => Sys2Proof.Machine.execWaitImmediateOutcome grp fid s
  | .fibreTrapEntry grp => Sys2Proof.Machine.execFibreTrapEntry grp s
  | .supervisorTrap grp => Sys2Proof.Machine.execSupervisorTrap grp s
  | .promiseMiss grp chan => Sys2Proof.Machine.execPromiseMiss grp chan s
  | .tickBudgetExhausted region => Sys2Proof.Machine.execTickBudgetExhausted region s
  | .groupPlacement launch stack => Sys2Proof.Machine.execGroupPlacement launch stack s
  | .groupAllotmentReturn grp => Sys2Proof.Machine.execGroupAllotmentReturn grp s
  | .successorGroupLaunch vf queue => Sys2Proof.Machine.execSuccessorGroupLaunch vf queue s
  | .migrArrival grp fid => Sys2Proof.Machine.execMigrArrival grp fid s
  | .groupKill grp => Sys2Proof.Machine.execGroupKill grp s
  | .bbldLoadLand grp slot => Sys2Proof.Machine.execBbldLoadLand grp slot s
  | .gathrRowLand grp gather => Sys2Proof.Machine.execGathrRowLand grp gather s
  | .mtileKstep grp tile => Sys2Proof.Machine.execMtileKstep grp tile s
  | .obrelRangeReturn grp entry => Sys2Proof.Machine.execObrelRangeReturn grp entry s
  | .channelRecordRead grp chan => Sys2Proof.Machine.execChannelRecordRead grp chan s
  | .churnTake grp chan => Sys2Proof.Machine.execChurnTake grp chan s
  | .targetFire grp chan => Sys2Proof.Machine.execTargetFire grp chan s
  | .recordComplete grp chan => Sys2Proof.Machine.execRecordComplete grp chan s
  | .pageWalk vf page => Sys2Proof.Machine.execPageWalk vf page s
  | .capacityEviction unit line => Sys2Proof.Machine.execCapacityEviction unit line s
  | .evictionNotice child => Sys2Proof.Machine.execEvictionNotice child s
  | .goneReply child line => Sys2Proof.Machine.execGoneReply child line s
  | .ownershipRequest core line => Sys2Proof.Machine.execOwnershipRequest core line s
  | .forcedPublish holder line => Sys2Proof.Machine.execForcedPublish holder line s
  | .storeAcknowledge grp fid => Sys2Proof.Machine.execStoreAcknowledge grp fid s
  | .drainStall grp => Sys2Proof.Machine.execDrainStall grp s
  | .contextSave grp frame => Sys2Proof.Machine.execContextSave grp frame s
  | .scrubPatrol word => Sys2Proof.Machine.execScrubPatrol word s
  | .scrubHoldEnd frame => Sys2Proof.Machine.execScrubHoldEnd frame s
  | .gateClose core => Sys2Proof.Machine.execGateClose core s
  | .powerWindow => Sys2Proof.Machine.execPowerWindow s
  | .thermalEmergency stack temp => Sys2Proof.Machine.execThermalEmergency stack temp s
  | .freezeStart scope => Sys2Proof.Machine.execFreezeStart scope s
  | .traceDrain core => Sys2Proof.Machine.execTraceDrain core s
  | .stackReset stack => Sys2Proof.Machine.execStackReset stack s
  | .routeDrainDeadline stack => Sys2Proof.Machine.execRouteDrainDeadline stack s
  | .routeLost packet => Sys2Proof.Machine.execRouteLost packet s
  | .movedRefusal core vf page => Sys2Proof.Machine.execMovedRefusal core vf page s
  | .loadImage vf queue => Sys2Proof.Machine.execLoadImage vf queue s
  | .unloadImage vf queue => Sys2Proof.Machine.execUnloadImage vf queue s
  | .launch vf queue => Sys2Proof.Machine.execLaunch vf queue s
  | .registerGraphQueue vf queue => Sys2Proof.Machine.execRegisterGraphQueue vf queue s
  | .closeGraphQueue vf queue => Sys2Proof.Machine.execCloseGraphQueue vf queue s
  | .describeImage vf queue => Sys2Proof.Machine.execDescribeImage vf queue s
  | .commandEntryArrival vf queue => Sys2Proof.Machine.execCommandEntryArrival vf queue s
  | .doorbell via vf queue tail => Sys2Proof.Machine.execDoorbell via vf queue tail s
  | .queueEnable path queue on => Sys2Proof.Machine.execQueueEnable path queue on s
  | .queueStatusRead path what => Sys2Proof.Machine.execQueueStatusRead path what s
  | .registerWrite path queue field value => Sys2Proof.Machine.execRegisterWrite path queue field value s
  | .resume part grp fid pc => Sys2Proof.Machine.execResume part grp fid pc s
  | .deliver part grp fid => Sys2Proof.Machine.execDeliver part grp fid s
  | .readContext part grp fid => Sys2Proof.Machine.execReadContext part grp fid s
  | .writeRegisters part grp fid w => Sys2Proof.Machine.execWriteRegisters part grp fid w s
  | .kill part grp => Sys2Proof.Machine.execKill part grp s
  | .preempt part grp => Sys2Proof.Machine.execPreempt part grp s
  | .resumeGroup part grp => Sys2Proof.Machine.execResumeGroup part grp s
  | .regionCreate part addr block => Sys2Proof.Machine.execRegionCreate part addr block s
  | .regionEdit part addr block => Sys2Proof.Machine.execRegionEdit part addr block s
  | .regionDelete part addr => Sys2Proof.Machine.execRegionDelete part addr s
  | .remap part vf page entry => Sys2Proof.Machine.execRemap part vf page entry s
  | .invalidate part vf lo hi => Sys2Proof.Machine.execInvalidate part vf lo hi s
  | .resolved part vf page => Sys2Proof.Machine.execResolved part vf page s
  | .unresolvable part vf page => Sys2Proof.Machine.execUnresolvable part vf page s
  | .attach part vf root tableRoot => Sys2Proof.Machine.execAttach part vf root tableRoot s
  | .detach part vf => Sys2Proof.Machine.execDetach part vf s
  | .unfreeze part master kill => Sys2Proof.Machine.execUnfreeze part master kill s
  | .scrub part what => Sys2Proof.Machine.execScrub part what s
  | .setHandlerService grp fid => Sys2Proof.Machine.execSetHandlerService grp fid s
  | .watch part core index cmp => Sys2Proof.Machine.execWatch part core index cmp s
  | .traceCommand part core cfg => Sys2Proof.Machine.execTraceCommand part core cfg s
  | .traceAcknowledge part core count => Sys2Proof.Machine.execTraceAcknowledge part core count s
  | .counters part => Sys2Proof.Machine.execCounters part s
  | .supervisorFreeze part at_ => Sys2Proof.Machine.execSupervisorFreeze part at_ s
  | .deviceFreeze at_ => Sys2Proof.Machine.execDeviceFreeze at_ s
  | .freezeRelease scope kill => Sys2Proof.Machine.execFreezeRelease scope kill s
  | .measurementRequest nonce => Sys2Proof.Machine.execMeasurementRequest nonce s
  | .hostMemAccess part addr op => Sys2Proof.Machine.execHostMemAccess part addr op s
  | .peerRequest part window addr op => Sys2Proof.Machine.execPeerRequest part window addr op s
  | .peerRequestTimeout request => Sys2Proof.Machine.execPeerRequestTimeout request s
  | .portLaneFailure port => Sys2Proof.Machine.execPortLaneFailure port s
  | .packageReset => Sys2Proof.Machine.execPackageReset s
  | .globalTick => Sys2Proof.Machine.execGlobalTick s
  | .moduleRetraining unit => Sys2Proof.Machine.execModuleRetraining unit s
  | .declareStoresLost part grp => Sys2Proof.Machine.execDeclareStoresLost part grp s
  | .forcedPublishDeadline holder line => Sys2Proof.Machine.execForcedPublishDeadline holder line s
  | .remapSwitch part vf page => Sys2Proof.Machine.execRemapSwitch part vf page s
  | .stackRelease stack => Sys2Proof.Machine.execStackRelease stack s
  | .softError place flips => Sys2Proof.Machine.execSoftError place flips s
  | .nameExitRing part vf base records => Sys2Proof.Machine.execNameExitRing part vf base records s

end Sys2Proof.Machine
end

