-- ==== Sys2Proof/Machine/Issue.lean ====
section
/-!
DEFINITION. Issuing: the words of a packet, its illegal-packet checks (R58, R63, R83), the opening of a chain
group (R56, R60, R68, R69), and the chain group itself (R55, R70).
-/

namespace Sys2Proof.Machine

/-! ## The packet -/

/-- The line of the encoding tables of a word's opcode. -/
def shapeOf (w : Word) : Option Shape := (decodeFields w).bind Instr.shape

/-- Whether two words of a chain group clash by a test (R58). -/
def anyPair (f : Word → Word → Bool) : List Word → Bool
  | [] => false
  | w :: ws => ws.any (f w) || anyPair f ws

/-- The chain groups of a packet. -/
def chainGroups : Nat → List Word → List (List Word)
  | 0, _ => []
  | _, [] => []
  | n + 1, l => chainGroup l :: chainGroups n (l.drop (chainGroup l).length)

/-- Whether two words use one pipe (R57, R58). -/
def samePipe (v w : Word) : Bool :=
  match shapeOf v, shapeOf w with
  | some a, some b => a.pipe != .none && a.pipe == b.pipe
  | _, _ => false

/-- The registers that a word of a bundle's chain group writes, as the group finds them (R58): those its encoding
tells, those that the control word of an LDS or LDSC asks for, and those of a queue's record (log entry 124). -/
def State.regWrites (s : State) (g : Group) (r : Run) (w : Word) : List Nat :=
  let e := s.env r
  let sized (n : Fibre → Nat) (d : BitVec 7) : List Nat :=
    if d.toNat < 64 then
      (List.range (((s.members r).map n).foldl max 1)).map (mapReg e.mp d.toNat + ·)
    else []
  match decodeFields w with
  | some (.lds f) => sized (fun fb => ldRegs (padSize (e.op32 fb f.b))) f.d
  | some (.ldsc f) => sized (fun fb => ldRegs (padSize (e.op32 fb f.b))) f.d
  | some (.qrecv f) => sized (fun fb => s.recordRegs g (e.op64 fb f.a)) f.d
  | _ => ((shapeOf w).map (·.regWrites e.mp)).getD []

/-- The predicates that a word writes (R58). -/
def wordPreds (w : Word) : List Nat := ((shapeOf w).map (·.predWrites)).getD []

/-- Whether two words write one register or predicate (R58). -/
def State.sameTarget (s : State) (g : Group) (r : Run) (v w : Word) : Bool :=
  (s.regWrites g r v).any (s.regWrites g r w).contains || (wordPreds v).any (wordPreds w).contains

/-- Whether a run-ending word of the run is followed by anything but TRAIL in its packet (R63). -/
def strayEnd : List Word → Bool
  | [] => false
  | [w] => (shapeOf w).any (·.ends)
  | w :: v :: ws =>
    if isTrail w then false else ((shapeOf w).any (·.ends) && !isTrail v) || strayEnd (v :: ws)

/-- The illegal-packet cause of a packet, the lowest that applies (R58, R63, R83); words counts those of the run
before it, and clash tells which words write one register or predicate. -/
def packetCause (clash : Word → Word → Bool) (limit words : Nat) (l : List Word) : Option Nat :=
  let groups := chainGroups 3 l
  if (l.length = 3 && l.getLast?.any isChained) || l.any (fun w => isTrail w && isChained w) then some 1
  else if groups.any (anyPair samePipe) then some 2
  else if groups.any (anyPair clash) then some 3
  else if strayEnd l then some 4
  else if limit ≤ words then some 5
  else none

/-! ## Opening a chain group -/

/-- The registers that some words read or write. -/
def wordTouches (mp : Option Nat) (l : List Word) : List Nat := l.flatMap fun w => ((shapeOf w).map (·.touches mp)).getD []

/-- Whether a word waits for every result in flight: it reads the flags or takes the whole state along. -/
def waitsForAll (w : Word) : Bool :=
  match decodeFields w with
  | some (.movs f) => f.a.toNat = 97
  | some (.movt _) => true
  | some (.fork _) => true
  | _ => false

/-- The results in flight inside the run that a chain group waits for, landed (R60, R64). -/
def Fibre.landFor (fb : Fibre) (regs : List Nat) : Fibre :=
  let hit (p : Pend) : Bool := (List.range p.n).any fun k => regs.contains (p.reg + k)
  { (fb.flight.filter hit).foldl Fibre.land fb with flight := fb.flight.filter fun p => !hit p }

/-- A member as a chain group finds it (R56): what its words read is what stands now. -/
def Fibre.opened (fb : Fibre) (g : Group) (all : Bool) (regs : List Nat) : Fibre :=
  let fb := if all then fb.landAll else fb.landFor regs
  { fb with snap := fb.ctx, raised := 0, tsnap := fb.ftab.getD g.fmttab }

/-- The scoreboard entries that meet some registers, landed: what a microprogram's first word waits for, since
nothing comes between it and its MCALL (R68, R79). -/
def Fibre.landMet (fb : Fibre) (regs : List Nat) : Fibre := if fb.blocked regs then fb.landBoard else fb

/-- The start of a run: the registers that its TRAIL names are known (R68). -/
def State.openRun (s : State) (g : Group) (r : Run) : State :=
  let sc := s.scan g s.cur r.pkt r.mc
  let mp := r.mc.map (·.2)
  let s := s.modFibres r.grp r.fids fun fb => fb.landMet (sc.touches mp)
  s.modCore s.cur fun c => { c with run := c.run.map fun q => { q with named := sc.named mp } }

/-- The trap of a poisoned register that a run reads or writes (R69): the lowest register, the members that
hold it poisoned, and the access's address in the lowest of them. The poison mask of a context record keeps no
address, so after a restore it is a free value (log entry 83). -/
def State.poisonTrap (s : State) (g : Group) (r : Run) : Option (Nat × Trap) :=
  let regs := (s.scan g s.cur r.pkt r.mc).touches (r.mc.map (·.2))
  match lowest ((s.members r).flatMap fun fb => fb.poisoned regs) with
  | none => none
  | some n =>
    let bad := (s.members r).filter fun fb => fb.poison.getLsbD n
    let at_ := (bad.head?).bind fun fb => (fb.badAt.find? (·.1 == n)).map (·.2)
    some (n, { kind := 12, cause := 2, detail := n, failing := maskOf (bad.map (·.fid)), fva := at_.getD s.draw.1 })

/-- The poison of a register cleared as its trap is raised (R69). -/
def State.clearPoison (s : State) (r : Run) (n : Nat) : State :=
  s.modFibres r.grp r.fids fun fb =>
    { fb with poison := fb.poison &&& ~~~(1#64 <<< n), badAt := fb.badAt.filter (·.1 != n) }

/-- A chain group opened; one that is TRAIL alone is no issue of its own (R57, R408). -/
def State.openGroup (s : State) (g : Group) (r : Run) (l : List Word) : State :=
  let regs := wordTouches (r.mc.map (·.2)) l
  let s := s.modFibres r.grp r.fids fun fb => fb.opened g (l.any waitsForAll) regs
  let s := s.modCore s.cur fun c =>
    { c with run := c.run.map fun q => { q with obFree := g.obFree, hadIssued := g.issued } }
  s.modGroup r.grp fun g => { g with issued := g.issued || !l.all isTrail }

/-! ## Faults that come before the words perform -/

/-- The illegal-packet cause of the packet that a run has come to, with the registers as its first chain group finds
them; none inside a packet (R58, R83). -/
def State.packetFault (s : State) (g : Group) (r : Run) (words : List Word) : Option Nat :=
  if r.idx % 3 = 0 then
    let opened := (if r.count = 0 then s.openRun g r else s).openGroup g r (chainGroup words)
    packetCause (opened.sameTarget g r) (if r.mc.isSome then 33 else 24) r.count words
  else none

/-- Illegal-packet cause 6 of a control transfer, before any fault of its packet's words (R54, R83); of one whose own word is
illegal too (DESIGN CHOICE, log entry 143). -/
def State.transferFault (s : State) (r : Run) (i : Instr) : Option Trap :=
  let f (c : Check) : Option Trap := match c with
    | .fault t => if t.kind = 8 then some t else none
    | _ => none
  match i with
  | .br x => f (jumpCheck x (fun fb => fb.pred x.d.toNat) s r)
  | .brn x => f (jumpCheck x (fun fb => !fb.pred x.d.toNat) s r)
  | .call x => f (jumpCheck x (fun _ => true) s r)
  | .jmp x => f (targetCheck x s r)
  | .ret x => f (targetCheck x s r)
  | .eret x => if x.x.getLsbD 0 then f (targetCheck x s r) else none
  | _ => none

/-- The illegal-instruction fault that a word's further check finds. -/
def State.foundFault (s : State) (r : Run) (i : Instr) : Option Trap :=
  let f (c : Check) : Option Trap := match c with
    | .fault t => if t.kind = 7 then some t else none
    | _ => none
  match i with
  | .mcall x => f (mcallCheck x s r)
  | .csld x => f (csldCheck x s r)
  | .eret x => f (eretCheck x s r)
  | .dbg x => f (dbgCheck x s r)
  | .lds x => f (ldsCheck x false s r)
  | .ldsc x => f (ldsCheck x true s r)
  | .mmas x => f (mmasCheck x s r)
  | .gathr x => f (gathrCheck x s r)
  | _ => none

/-- An illegal-instruction fault of a word, by its fields or by what it finds: the lower cause of the two (R74,
R83). -/
def State.illegalFault (s : State) (r : Run) (w : Word) : Option Trap :=
  match decodeFields w with
  | none => some { kind := 7, cause := 1, failing := maskOf r.fids }
  | some i =>
    match s.illegal r i, s.foundFault r i with
    | .fault t, some u => some (if u.cause < t.cause then u else t)
    | .fault t, none => some t
    | _, o => o

/-- The first fault of a chain group before its words perform (R83). -/
def State.earlyFault (s : State) (r : Run) (l : List Word) : Option Trap :=
  match l.filterMap fun w => (decodeFields w).bind (s.transferFault r) with
  | t :: _ => some t
  | [] => (l.filterMap (s.illegalFault r)).head?

/-! ## The chain group -/

/-- Words of the run issued so far on the issuing core. -/
def State.wordCount (s : State) : Option Nat := s.run?.map (·.count)

/-- Whether a word has taken effect: the run has moved past it, or TRAIL has ended it. -/
def tookEffect (w : Word) (s t : State) : Bool := isTrail w || t.wordCount == s.wordCount.map (· + 1)

/-- The words of a chain group, each after the one before. When one faults or has to wait, none takes effect and
its outcome is that word's on the group as it was opened (R70). -/
def issueWords (opened : State) : List Word → State → Host.Outcome State Fault Refusal
  | [], s => .next s
  | w :: ws, s =>
    match decodeFields w with
    | none => .next s
    | some i =>
      match exec i s with
      | .next t => if tookEffect w s t then issueWords opened ws t else exec i opened
      | o => o

/-- What becomes of a run whose packet is not fetched: a walk is awaited, a fault or a violation ends it
(R337, R367). -/
def State.fetchStop (s : State) (g : Group) (r : Run) (f : Fetched) : State :=
  match f with
  | .trap t => s.raise s.cur r { t with failing := maskOf r.fids }
  | .violation => (s.violate g.part (.group g.gid)).stopRun r []
  | .held => s.idleIssue
  | .miss =>
    let miss := (List.range 3).find? fun k => s.fetchWord g s.cur (packetWord r.pkt k) == .miss
    (s.askWalk (stackOf s.cur) g.part g.vf (packetWord r.pkt (miss.getD 0)).toNat false
      (.fibre g.gid (r.fids.headD 0))).idleIssue
  | .word _ => s

/-- The next chain group of the run on the issuing core. -/
def State.issueRun (s : State) (g : Group) (r : Run) : Host.Outcome State Fault Refusal :=
  match s.packet g r with
  | .error f => .next (s.fetchStop g r f)
  | .ok words =>
    match s.packetFault g r words with
    | some c => .next (s.raise s.cur r { kind := 8, cause := c, failing := maskOf r.fids })
    | none =>
      let s := if r.count = 0 then s.openRun g r else s
      match (if r.count = 0 then s.poisonTrap g r else none) with
      | some (n, t) => .next (((s.draw.2).clearPoison r n).raise s.cur r t)
      | none =>
        let l := chainGroup (words.drop (r.idx % 3))
        let s := s.openGroup g r l
        match s.earlyFault r l with
        | some t => .next (s.raise s.cur r t)
        | none => issueWords s l s

/-- A core issues its next chain group (R55). Without a run, while its clocks are gated, or while lossless trace holds it
(R407), nothing happens. -/
def State.issueGroup (s : State) (core : Nat) : Host.Outcome State Fault Refusal :=
  let s : State := { s with cur := core }
  match s.run? with
  | none => .next s
  | some r =>
    match s.group? r.grp with
    | none => .next s
    | some g => if s.stopped g.part || s.traceFull core then .next s else s.issueRun g r

end Sys2Proof.Machine
end

