-- ==== Sys2Proof/Machine/Schedule.lean ====
section
/-!
DEFINITION. What comes next on a tick: the agenda's next act in its turn, else every event and issue that would
change something, in an order that keeps the orders the spec gives within a tick (R98, R101, R257, R260, R353,
R378), each event at most once a tick; the global tick comes last.
-/

namespace Sys2Proof.Machine

/-! ## Events that the machine takes by itself -/

/-- The channels of a group at work (R281 to R286, R295). -/
def Group.channelEvents (g : Group) : List Instr :=
  g.chans.flatMap fun c => [.channelRecordRead g.gid c.n, .churnTake g.gid c.n, .targetFire g.gid c.n, .recordComplete g.gid c.n]

/-- The loads, gathers and sequencers of a group at work (R201, R203, R212, R214). -/
def Group.matrixEvents (g : Group) : List Instr :=
  (List.range g.units).map (.bbldLoadLand g.gid ·) ++ g.gathers.map (fun q => .gathrRowLand g.gid q.id) ++
    (List.range g.tiles).map (.mtileKstep g.gid ·) ++ (List.range 32).map (.obrelRangeReturn g.gid ·)

/-- The cores that groups stand or fibres are landed on. -/
def State.busyCores (s : State) : List Nat :=
  (s.groups.flatMap fun g => g.core :: g.fibres.filterMap fun fb => match fb.place with | .landed c => some c | _ => none).dedup

/-- The traps of a group that are due at its fibres' boundaries (R290, R345, R351, R353). -/
def Group.trapEvents (g : Group) : List Instr :=
  [.fibreTrapEntry g.gid, .supervisorTrap g.gid] ++ g.chans.map fun c => .promiseMiss g.gid c.n

/-- The fibres of a group, and what each may meet (R129, R135, R349, R361, R415). -/
def Group.fibreEvents (g : Group) : List Instr :=
  g.fibres.flatMap (fun fb => [.setHandlerService g.gid fb.fid, .deferredResultLanding g.gid fb.fid,
    .storeAcknowledge g.gid fb.fid, .migrArrival g.gid fb.fid]) ++ [.drainStall g.gid, .groupKill g.gid]

/-- The lives of groups and launches (R112, R116, R131, R134, R354, R359). -/
def State.groupEvents (s : State) : List Instr :=
  ((s.groups.flatMap fun g => s.ancestors regionDepth g.region).dedup).map Instr.tickBudgetExhausted ++
    s.groups.map (fun g => .contextSave g.gid (Config.saveFrame g.gid)) ++
    s.groups.map (fun g => .groupAllotmentReturn g.gid) ++
    s.launches.flatMap (fun l => (List.range 8).map (.groupPlacement l.id ·)) ++
    (s.groups.filter (·.resume)).map (fun g => .resumeGroup g.part g.gid) ++
    s.vfs.flatMap fun v => v.graphs.map fun q => .successorGroupLaunch v.id q.desc

/-- The memory system at work (R242, R322, R323, R329, R333, R339, R370). -/
def State.memoryEvents (s : State) : List Instr :=
  (s.walks.filter (·.started)).map (fun w => .pageWalk w.vf w.page) ++
    (s.publishes.filter (·.stage == .sent)).flatMap
      (fun q => [.forcedPublish q.holder q.line, .forcedPublishDeadline q.holder q.line]) ++
    s.notices.map (fun n => .evictionNotice n.child) ++
    s.scrubbing.map Instr.scrubHoldEnd ++ s.errors.map (fun e => .scrubPatrol e.1) ++
    s.remaps.map (fun r => .remapSwitch r.part r.vf r.page) ++ s.retries

/-- The control die at work (R371, R372, R380, R384, R389, R391, R394, R405). -/
def State.controlEvents (s : State) : List Instr :=
  s.cores.map (fun c => .gateClose c.id) ++ s.cores.map (fun c => .traceDrain c.id) ++ [.powerWindow] ++
    (List.range 8).map Instr.routeDrainDeadline ++ s.packets.map (fun p => .routeLost p.id) ++
    s.peers.map (fun w => .peerRequestTimeout w.id) ++
    s.vfs.flatMap fun v => v.queues.flatMap fun h =>
      [.commandEntryArrival v.id h.q, .loadImage v.id h.q, .unloadImage v.id h.q, .launch v.id h.q,
        .registerGraphQueue v.id h.q, .closeGraphQueue v.id h.q, .describeImage v.id h.q]

/-! ## Issues and waits -/

/-- Whether a core issues its run's next chain group now: its clock has a cycle, which it has not used yet unless
only TRAIL is left, and lossless trace does not hold it (R55, R57, R407). -/
def State.issueReady (s : State) (core : Nat) : Bool :=
  match (s.core core).run with
  | none => false
  | some r =>
    match s.group? r.grp with
    | none => false
    | some g =>
      s.edge g.part && !s.stopped g.part && !s.traceFull core &&
        ((s.core core).issueAt ≠ some s.tick || s.nextOps core == [0x01])

/-- The fibres that wait, with their waits. -/
def State.allWaits (s : State) : List (Nat × Nat × Wait) :=
  s.groups.flatMap fun g => g.fibres.filterMap fun fb => fb.wait.map fun w => (g.gid, fb.fid, w)

/-! ## The order within a tick

A key's first number is the rank of an act, in the order of R98, R101, R257, R260, R353 and R378. Once an act of
a rank is taken, no act before it in the order is taken on that tick any more. -/

/-- Ranks: trap entries and misses, then freezes (R353); what other units and the outside do, which comes between
two ticks; picks; engines; pops; the plain words; gate requests; pushes; arrivals; the ends of runs; the reads of
LDS and LDSC; then the conditions, the immediate outcomes and the deadlines of all waits; the global tick. -/
def rkTrap : Nat := 0
def rkFreeze : Nat := 1
def rkLoose : Nat := 2
def rkPick : Nat := 3
def rkEngine : Nat := 4
def rkPop : Nat := 5
def rkWord : Nat := 6
def rkGate : Nat := 7
def rkPush : Nat := 8
def rkArrive : Nat := 9
def rkEnd : Nat := 10
def rkColumn : Nat := 11
def rkCond : Nat := 12
def rkImm : Nat := 13
def rkLate : Nat := 14
def rkTick : Nat := 15

/-- The rank of the next chain group of a core's run, by its opcodes: with TRAIL, an ERET, FEND or GEND may withdraw an
arrival, which comes after the arrivals of its tick (R260). -/
def State.issueRank (s : State) (core : Nat) : Nat :=
  let ops := s.nextOps core
  if ops = [0x01] || (ops.contains 0x01 && (ops.contains 0x06 || ops.contains 0x56 || ops.contains 0x59)) then rkEnd
  else if ops.contains 0x7D then rkGate
  else if ops.contains 0x66 then rkPush
  else if ops.contains 0x75 || ops.contains 0x77 then rkArrive
  else rkWord

/-- The group, lowest and highest fibre of a core's run. -/
def State.runSpan (s : State) (core : Nat) : Nat × Nat × Nat :=
  match (s.core core).run with
  | none => (0, 0, 0)
  | some r => (r.grp, r.fids.headD 0, r.fids.getLastD 0)

/-- The key of a core's issue: pushes go by issue tick and lowest fibre (R378), arrivals by group and fibre
(R260). -/
def State.issueKey (s : State) (core : Nat) : List Nat :=
  let k := s.issueRank core
  let (g, lo, _) := s.runSpan core
  if k = rkPush then [k, s.tick.toNat, lo] else if k = rkArrive then [k, g, lo] else [k]

/-- The rank of the condition test of a waiting word. -/
def condRank (op : Nat) : Nat :=
  if op = 0x67 then rkPop else if op = 0x66 then rkPush else if op = 0x70 || op = 0x72 then rkColumn else rkCond

/-- The key of a wait's condition test: pushes by issue tick, column reads by fibre (R257, R378). -/
def condKey (q : Nat × Nat × Wait) : List Nat :=
  let k := condRank q.2.2.op
  if k = rkPush then [k, q.2.2.issued.toNat, q.2.1] else if k = rkColumn then [k, q.1, q.2.1] else [k]

/-- The key of an event; what is not listed comes between two ticks. -/
def State.eventKey (s : State) : Instr → List Nat
  | .fibreTrapEntry _ => [rkTrap]
  | .supervisorTrap _ => [rkTrap]
  | .promiseMiss _ _ => [rkTrap]
  | .freezeStart _ => [rkFreeze]
  | .bundlePick _ => [rkPick]
  | .channelRecordRead _ _ => [rkEngine]
  | .churnTake _ _ => [rkEngine]
  | .targetFire _ _ => [rkEngine]
  | .recordComplete _ _ => [rkEngine]
  | .bbldLoadLand _ _ => [rkEngine]
  | .gathrRowLand _ _ => [rkEngine]
  | .mtileKstep _ _ => [rkEngine]
  | .obrelRangeReturn _ _ => [rkEngine]
  | .waitConditionMet g f =>
    match (s.fibre? g f).bind (·.wait) with
    | some w => condKey (g, f, w)
    | none => [rkCond]
  | .waitImmediateOutcome _ _ => [rkImm]
  | .waitDeadlinePassed _ _ => [rkLate]
  | .globalTick => [rkTick]
  | _ => [rkLoose]

/-- The key of an act. -/
def State.keyOf (s : State) : Act → List Nat
  | .event i => s.eventKey i
  | .issue c => s.issueKey c

/-- How far the order has come once an act is taken: an arrival word stands for all its members. -/
def State.turnAfter (s : State) (a : Act) : List Nat :=
  match a with
  | .issue c => if s.issueRank c = rkArrive then [rkArrive, (s.runSpan c).1, (s.runSpan c).2.2] else s.keyOf a
  | .event _ => s.keyOf a

/-! ## What may come next -/

/-- The tests of every wait, each on every tick (R98). -/
def State.waitTests (s : State) : List Instr :=
  s.allWaits.flatMap fun q =>
    [.waitConditionMet q.1 q.2.1, .waitImmediateOutcome q.1 q.2.1, .waitDeadlinePassed q.1 q.2.1]

/-- Every event and issue that may come next, rank by rank. -/
def State.ranks (s : State) : List (List Act) :=
  let all := s.allWaits
  let conds := all.map fun q => (condRank q.2.2.op, Act.event (.waitConditionMet q.1 q.2.1))
  let issues := (s.cores.filter (·.run.isSome)).map fun c => (s.issueRank c.id, Act.issue c.id)
  let at_ (k : Nat) : List Act := ((conds ++ issues).filter (·.1 == k)).map (·.2)
  [ (s.groups.flatMap Group.trapEvents).map .event,
    (Instr.freezeStart none :: s.parts.map fun q => .freezeStart (some q.id)).map .event,
    (s.groups.flatMap Group.fibreEvents ++ s.groupEvents ++ s.memoryEvents ++ s.controlEvents).map .event,
    s.busyCores.map fun c => .event (.bundlePick c),
    (s.groups.flatMap fun g => g.channelEvents ++ g.matrixEvents).map .event,
    at_ rkPop, at_ rkWord, at_ rkGate, at_ rkPush, at_ rkArrive, at_ rkEnd, at_ rkColumn, at_ rkCond,
    all.map fun q => .event (.waitImmediateOutcome q.1 q.2.1),
    all.map fun q => .event (.waitDeadlinePassed q.1 q.2.1) ]

/-! ## The choice -/

/-- Events that the step may take more than once a tick, since each uses up what it acts on. -/
def repeats : Instr → Bool
  | .fibreTrapEntry _ => true
  | .supervisorTrap _ => true
  | .groupPlacement _ _ => true
  | _ => false

/-- Whether an outcome is another state than the one before, whichever core it was computed for. -/
def changes (s : State) : Host.Outcome State Fault Refusal → Bool
  | .next t => decide ({ t with cur := s.cur } ≠ s)
  | _ => true

/-- Whether a device freeze in force holds an event: every die is gated until the release (R412). -/
def State.gates (s : State) : Instr → Bool
  | .freezeRelease none _ => false
  | .packageReset => false
  | _ => s.freeze.any (·.inForce)

/-- Whether an act would change something now, and its turn has not passed. -/
def State.would (s : State) (a : Act) : Bool :=
  !lexLess (s.keyOf a) s.turn &&
    match a with
    | .event i => !s.gates i && (repeats i || !s.did.contains i) && changes s (exec i s)
    | .issue c => s.issueReady c

/-- The first act that would change something. -/
def State.firstOf (s : State) : List (List Act) → Option Act
  | [] => none
  | l :: ls =>
    match least s.keyOf (l.filter s.would) with
    | some a => some a
    | none => s.firstOf ls

/-- An act performed: an event of the table, or the next chain group of a core. -/
def State.perform_ (s : State) : Act → Host.Outcome State Fault Refusal
  | .event i => if s.gates i then .next s else exec i s
  | .issue c => s.issueGroup c

/-- An act noted as taken on this tick. -/
def State.note (s : State) (a : Act) : State :=
  { s with
    turn := s.turnAfter a
    did := match a with
      | .event i => if repeats i then s.did else s.did ++ [i]
      | .issue _ => s.did }

/-- An act taken. -/
def State.take_ (s : State) (a : Act) : Host.Outcome State Fault Refusal := (s.note a).perform_ a

/-- What the machine does by itself: the first act that changes something, else the global tick. -/
def State.advance (s : State) : Host.Outcome State Fault Refusal :=
  match s.firstOf s.ranks with
  | some a => s.take_ a
  | none => exec .globalTick s

/-- The channels of a group with a transfer for which a test holds. -/
def Group.jobsWith (g : Group) (p : Channel → Transfer → Bool) : List Nat :=
  (g.chans.filter fun c => c.job.any (p c)).map (·.n)

/-- Ticks that a write is held at most while its frame is scrubbed (R370). -/
def scrubTicks : Nat := 8192

/-- What its tick owes: a trap that a fibre has to enter and the miss of a late record (R290, R353), a freeze that
starts (R412), the completion of a record that has moved everything (R286), the end of a scrub's hold (R370). -/
def State.owedNow (s : State) : List Instr :=
  (s.groups.filter fun g => g.fibres.any (·.mustEnter)).map (fun g => .fibreTrapEntry g.gid) ++
    s.groups.flatMap (fun g => (g.jobsWith fun c _ => c.late g.pol.fair s.tick).map (.promiseMiss g.gid ·)) ++
    (if s.freeze.any (·.starts s.tick) then [.freezeStart none] else []) ++
    (s.parts.filter fun q => q.freeze.any (·.starts s.tick)).map (fun q => .freezeStart (some q.id)) ++
    s.groups.flatMap (fun g => (g.jobsWith fun _ t => t.finished).map (.recordComplete g.gid ·)) ++
    (s.heldWrites.filter fun q => q.2.toNat + scrubTicks ≤ s.tick.toNat).map fun q => .scrubHoldEnd q.1

/-- What must come before an act: the tests of every wait, each on every tick in its place (R98), and what the tick
owes. -/
def State.firstBefore (s : State) (a : Act) : Option Act :=
  least s.keyOf (((s.owedNow ++ s.waitTests).map Act.event).filter fun t => lexLess (s.keyOf t) (s.keyOf a) && s.would t)

/-- One step: the next entry of the agenda once its turn has come, else what the machine does by itself. An act
whose turn has passed waits for the next tick, and what must come before an act goes first. -/
def State.next (s : State) : Host.Outcome State Fault Refusal :=
  match s.agenda with
  | [] => s.advance
  | a :: rest =>
    if lexLess (s.keyOf a) s.turn then s.advance
    else
      match s.firstBefore a with
      | some t => s.take_ t
      | none => ({ s with agenda := rest }).take_ a

/-! ## A state in which a given word comes next -/

/-- Where the word's code page lies: a frame of HBM stack 0. -/
def fetchFrame : Nat := 0
/-- Where the region block of its group lies. -/
def fetchRegion : Nat := 0x10000

/-- The partition of that state: cluster 0, the pseudo-channels of HBM stack 0, a slice on stack 0. -/
def fetchPartition : Partition := { id := 0, clusters := [0], slices := [0], channels := List.range 32 }

/-- Its group, placed on core 0, with one fibre inside a run at address 0 and as many registers as there are. -/
def fetchGroup : Group :=
  { gid := 1, part := 0, vf := 0, launch := 2, region := fetchRegion, kern := { window := 64 }
    fibres := [{ fid := 0, st := .issuing }] }

/-- A page-table entry that maps a page to a frame, readable, writable and executable, accessed and dirty. -/
def fetchEntry : DWord := BitVec.ofNat 64 (0xC3D + fetchFrame * 65536)

/-- A state with a word stored where the issuing core fetches next, followed by TRAIL, and that core's issue as
the next step. -/
def State.withWord (s : State) (w : Nat) : State :=
  { s with
    agenda := [.issue 0]
    did := []
    turn := []
    mem := mwle (mwle s.mem 0 w 4) 4 0x01000000 4
    tlb := [{ core := some 0, stack := 0, vf := 0, page := 0, pages := 1, entry := fetchEntry }]
    parts := [fetchPartition]
    vfs := [{ id := 0, part := some 0, root := fetchRegion }]
    groups := [fetchGroup]
    serial := 3
    cores := [{ id := 0, run := some { grp := 1, fids := [0], start := 0, pkt := 0 } }] }

end Sys2Proof.Machine
end

