-- ==== Sys2Proof/Machine/Step.lean ====
section
/-!
DEFINITION. One step of the machine, and the state the host places a word in.
-/

namespace Sys2Proof.Machine

/-- One step of the machine: the next entry of the agenda, or what the machine does by itself. -/
def step (s : State) : Host.Outcome State Fault Refusal := s.next

/-- The state with a word stored where the next step fetches; every Diwen instruction is one word (R44). -/
def State.withFetchWord (s : State) (_nbits w : Nat) : State := s.withWord w

end Sys2Proof.Machine
end

