-- ==== Sys2Proof/Certificates/Slice0/Obligations.lean ====
section
/-!
DEFINITION. The statements for the provers, and the words they are said in (namespace Sys2Proof.Spec): each def
Obligations.<Name> states what the rules its docstring names say.
-/

open Sys2Proof Sys2Proof.Machine

namespace Sys2Proof.Spec

/-! ## What a word does to the machine around its members -/

/-- Word i stands at the head of run r of group g on the issuing core, and no field of it raises an
illegal-instruction cause (R83). -/
def Ready (s : State) (i : Instr) (r : Run) (g : Group) : Prop :=
  s.run? = some r ∧ s.group? r.grp = some g ∧ i.cause (s.env r).mp (s.env r).window = none

/-- The run after a word with C bit c: the next place of the packet, or the next packet, 12 bytes on (R54, R55). -/
def pastRun (r : Run) (c : Bool) : Run :=
  let last := r.mc.isNone && r.idx = 2
  { r with
    pkt := if last then r.pkt + 12 else r.pkt
    idx := if last then 0 else r.idx + 1
    count := r.count + 1
    chained := c }

/-- The issuing core of t stands past the word of run r, its issue cycle used unless the word is chained to the next
(R55), and every other core is as it was. -/
def PastWord (s t : State) (r : Run) (c : Bool) : Prop :=
  t.cur = s.cur ∧
  (∀ k, t.core k =
    if k = s.cur then
      { s.core k with
        run := some (pastRun r c)
        issueAt := if c then (s.core k).issueAt else some s.tick }
    else s.core k)

/-- Nothing outside the groups and the cores has changed: not a byte of memory, not the tick, no cache, queue, partition
or log. -/
def SameElsewhere (s t : State) : Prop := { t with groups := s.groups, cores := s.cores } = s

/-- Every group is as it was but for its fibres. -/
def SameGroups (s t : State) : Prop :=
  ∀ h, (t.group? h).map (fun x => { x with fibres := [] }) = (s.group? h).map fun x => { x with fibres := [] }

/-- t is s after a word that has changed each member of its bundle as u says, no other fibre and nothing else, and
has moved past itself. -/
def Members (s t : State) (r : Run) (c : Bool) (u : Fibre → Fibre) : Prop :=
  (∀ h f, t.fibre? h f = if h = r.grp ∧ f ∈ r.fids then (s.fibre? h f).map u else s.fibre? h f) ∧
  SameGroups s t ∧ SameElsewhere s t ∧ PastWord s t r c

/-- Word i, once ready, answers a next state in which it has changed its members as u says and nothing else. -/
def Does (i : Instr) (c : Bool) (u : Env → Fibre → Fibre) : Prop :=
  ∀ s r g, Ready s i r g → ∃ t, exec i s = .next t ∧ Members s t r c (u (s.env r))

/-! ## Register results of the A pipe -/

/-- The exact value, saturated into n bits as a signed and as a natural number (R147). -/
def satSigned (x : Int) : Word := BitVec.ofInt 32 (max (-2 ^ 31) (min (2 ^ 31 - 1) x))
def satNatural (x : Int) : Word := BitVec.ofInt 32 (max 0 (min (2 ^ 32 - 1) x))

/-- The registers and the value that the add and multiply family writes (R147, R148), by the word's operands:
32-bit a, b and d, and pairs aa, bb and dd. -/
def addFamily (i : Instr) (a b d : Word) (aa bb dd : DWord) : Option (Nat × Nat) :=
  match i with
  | .iadd f =>
    match f.x.toNat with
    | 0 => some (1, (a + b).toNat)
    | 1 => some (1, (satSigned (a.toInt + b.toInt)).toNat)
    | 2 => some (1, (satNatural (a.toNat + b.toNat)).toNat)
    | 3 => some (2, (aa + bb).toNat)
    | _ => none
  | .isub f =>
    match f.x.toNat with
    | 0 => some (1, (a - b).toNat)
    | 1 => some (1, (satSigned (a.toInt - b.toInt)).toNat)
    | 2 => some (1, (satNatural (a.toNat - b.toNat)).toNat)
    | 3 => some (2, (aa - bb).toNat)
    | _ => none
  | .ineg f =>
    match f.x.toNat with
    | 0 => some (1, (-a).toNat)
    | 1 => some (1, (satSigned (-a.toInt)).toNat)
    | 3 => some (2, (-aa).toNat)
    | _ => none
  | .iabs f =>
    match f.x.toNat with
    | 0 => some (1, (if a.slt 0 then -a else a).toNat)
    | 1 => some (1, (satSigned |a.toInt|).toNat)
    | 3 => some (2, (if aa.slt 0 then -aa else aa).toNat)
    | _ => none
  | .imul f =>
    match f.x.toNat with
    | 0 => some (1, (a * b).toNat)
    | 1 => some (1, (satSigned (a.toInt * b.toInt)).toNat)
    | 2 => some (1, (satNatural (a.toNat * b.toNat)).toNat)
    | 3 => some (2, (aa * bb).toNat)
    | 4 => some (2, (a.signExtend 64 * b.signExtend 64).toNat)
    | 5 => some (2, a.toNat * b.toNat)
    | _ => none
  | .imulh f =>
    match f.x.toNat with
    | 0 => some (1, ((a.signExtend 64 * b.signExtend 64).extractLsb' 32 32).toNat)
    | 1 => some (1, a.toNat * b.toNat / 2 ^ 32)
    | 2 => some (2, ((aa.signExtend 128 * bb.signExtend 128).extractLsb' 64 64).toNat)
    | 3 => some (2, aa.toNat * bb.toNat / 2 ^ 64)
    | _ => none
  | .imad f =>
    match f.x.toNat with
    | 0 => some (1, (d + a * b).toNat)
    | 1 => some (1, (satSigned (d.toInt + a.toInt * b.toInt)).toNat)
    | 2 => some (1, (satNatural (d.toNat + a.toNat * b.toNat)).toNat)
    | 3 => some (2, (dd + aa * bb).toNat)
    | 4 => some (2, (dd + a.signExtend 64 * b.signExtend 64).toNat)
    | 5 => some (2, (dd + a.setWidth 64 * b.setWidth 64).toNat)
    | _ => none
  | _ => none

/-- The result of a word of the add and multiply family for a member. -/
def addFamilyOf (i : Instr) (f : F3) (e : Env) (fb : Fibre) : Option (Nat × Nat) :=
  addFamily i (e.op32 fb f.a) (e.op32 fb f.b) (e.regAt fb f.d 0) (e.op64 fb f.a) (e.op64 fb f.b) (e.pairAt fb f.d 0)

end Sys2Proof.Spec

open Sys2Proof.Spec

/-- IADD, ISUB, INEG, IABS, IMUL, IMULH and IMAD complete for every operand, each member's D receiving the value of
its variant through the A pipe, and nothing else changes; a variant without a value raises illegal-instruction cause 2
(R147, R148, R149, R51, R59, R83, R146). -/
def Obligations.AddFamilyResult : Prop :=
  ∀ (i : Instr) (f : F3), i ∈ [.iadd f, .isub f, .ineg f, .iabs f, .imul f, .imulh f, .imad f] →
    (∀ s r g, Ready s i r g →
      ∃ t, exec i s = .next t ∧
        Members s t r f.c fun fb =>
          match addFamilyOf i f (s.env r) fb with
          | some (n, v) => fb.put (s.env r) .A f.d n v
          | none => fb) ∧
    (addFamily i 0 0 0 0 0 0 = none → ∀ mp window, i.cause mp window = some 2)

/-! ## Logic, bits, selects, moves and predicates -/

namespace Sys2Proof.Spec

/-- The field that B names in BFX and BFI: its position and its effective length (R155). -/
def fieldOf (b : Word) : Nat × Nat :=
  let p := b.toNat % 32
  (p, min (min (b.toNat / 256 % 64) 32) (32 - p))

/-- What SHF leaves, as a natural number below 2^32 (R154). -/
def shifted (x : Nat) (a b : Word) : Nat :=
  let n := b.toNat
  let k := n % 32
  match x with
  | 0 => if n < 32 then a.toNat * 2 ^ n % 2 ^ 32 else 0
  | 1 => if n < 32 then a.toNat / 2 ^ n else 0
  | 2 => (BitVec.ofInt 32 (a.toInt / 2 ^ min n 32)).toNat
  | 3 => a.toNat * 2 ^ k % 2 ^ 32 + a.toNat / 2 ^ (32 - k)
  | _ => a.toNat / 2 ^ k + a.toNat * 2 ^ (32 - k) % 2 ^ 32

/-- What BFX leaves (R155). -/
def extracted (x : Nat) (a b : Word) : Word :=
  let (p, l) := fieldOf b
  if l = 0 then 0
  else if x = 0 then (a <<< (32 - p - l)) >>> (32 - l)
  else (a <<< (32 - p - l)).sshiftRight (32 - l)

/-- What BFI leaves (R155): d above the field, the low bits of a in it, d below it. -/
def inserted (d a b : Word) : Nat :=
  let (p, l) := fieldOf b
  d.toNat / 2 ^ (p + l) * 2 ^ (p + l) + a.toNat % 2 ^ l * 2 ^ p + d.toNat % 2 ^ p

/-- What BIT leaves (R156). -/
def counted (x : Nat) (a : Word) : Nat :=
  match x with
  | 0 => ((List.range 32).filter fun k => a.getLsbD k).length
  | 1 => 32 - Nat.size a.toNat
  | _ => ((List.range 32).map fun k => if a.getLsbD k then 2 ^ (31 - k) else 0).sum

/-- One of the eight functions of two bits (R153). -/
def bitOp (x : Nat) (a b : Bool) : Bool :=
  match x with
  | 0 => a && b
  | 1 => a || b
  | 2 => a != b
  | 3 => a && !b
  | 4 => a || !b
  | 5 => !(a && b)
  | 6 => !(a || b)
  | _ => a == b

/-- The number whose bit k, for k below n, is f k. -/
def ofBits (f : Nat → Bool) : Nat → Nat
  | 0 => 0
  | n + 1 => ofBits f n + if f n then 2 ^ n else 0

/-- One product of IDOT4 (R162). -/
def dotTerm (x : Nat) (a b : Word) (k : Nat) : Int :=
  let u := (a.extractLsb' (8 * k) 8, b.extractLsb' (8 * k) 8)
  match x with
  | 0 => u.1.toInt * u.2.toInt
  | 1 => u.1.toNat * u.2.toNat
  | _ => u.1.toInt * u.2.toNat

/-- The words of the A pipe's logic and bit families with what each does to a member (R151, R153 to R156, R162). -/
def logicWords (f : F3) : List (Instr × (Env → Fibre → Fibre)) :=
  let x := f.x.toNat
  let result (v : Word → Word → Word → Nat) (e : Env) (fb : Fibre) : Fibre :=
    fb.put e .A f.d 1 (v (e.op32 fb f.a) (e.op32 fb f.b) (e.regAt fb f.d 0))
  [(.imm f, result fun a b _ =>
      let less := if x < 2 then a.toInt < b.toInt else a.toNat < b.toNat
      (if less ↔ x % 2 = 0 then a else b).toNat),
    (.log f, result fun a b _ => ofBits (fun k => bitOp x (a.getLsbD k) (b.getLsbD k)) 32),
    (.shf f, result fun a b _ => shifted x a b),
    (.bfx f, result fun a b _ => (extracted x a b).toNat),
    (.bfi f, result fun a b d => inserted d a b),
    (.bit f, result fun a _ _ => counted x a),
    (.idot4 f, result fun a b d =>
      (BitVec.ofInt 32 (d.toInt + dotTerm x a b 0 + dotTerm x a b 1 + dotTerm x a b 2 + dotTerm x a b 3)).toNat)]

/-- The words that move values, with what each does to a member (R75, R157, R158, R159). -/
def moveWords (f : F3) : List (Instr × (Env → Fibre → Fibre)) :=
  let x := f.x.toNat
  [(.nop f, fun _ fb => fb),
    (.mov f, fun e fb =>
      if x = 0 then fb.put e .A f.d 1 (e.op32 fb f.a).toNat else fb.put e .A f.d 2 (e.op64 fb f.a).toNat),
    (.sel f, fun e fb =>
      fb.put e .A f.d 1 (if x = 0 ∨ fb.snap.preds.getLsbD x then e.op32 fb f.a else e.op32 fb f.b).toNat),
    (.lea f, fun e fb =>
      fb.put e .A f.d 2 (((e.op64 fb f.a).toNat + ((e.op32 fb f.b).toInt * 2 ^ x % 2 ^ 64).toNat) % 2 ^ 64))]

/-- LIM and LIMH (R161). -/
def constantWords (f : FK) : List (Instr × (Env → Fibre → Fibre)) :=
  [(.lim f, fun e fb => fb.put e .A f.d 1 (BitVec.ofInt 32 f.k.toInt).toNat),
    (.limh f, fun e fb => fb.put e .A f.d 1 (f.k.toNat * 2 ^ 15 + fb.snap.lat.la0.toNat % 2 ^ 15))]

/-- The comparison of ICMP (R152). -/
def compared (x : Nat) (a b : Word) : Bool :=
  match x with
  | 0 => a = b
  | 1 => a ≠ b
  | 2 => a.toInt < b.toInt
  | 3 => a.toInt ≤ b.toInt
  | 4 => a.toNat < b.toNat
  | 5 => a.toNat ≤ b.toNat
  | 6 => (List.range 32).any fun k => a.getLsbD k && b.getLsbD k
  | _ => (List.range 32).all fun k => !(a.getLsbD k && b.getLsbD k)

/-- A predicate as the words of a chain group read it; p0 is 1 (R142). -/
def predOf (fb : Fibre) (k : Nat) : Bool := if k = 0 then true else fb.snap.preds.getLsbD k

/-- Predicates changed: t has every predicate but p0 as v says, and p0 as it was (R52, R142). -/
def withPreds (fb : Fibre) (v : Nat → Bool) : Fibre :=
  { fb with ctx := { fb.ctx with
      preds := BitVec.ofNat 96 (ofBits (fun k => if k = 0 then fb.ctx.preds.getLsbD 0 else v k) 96) } }

/-- The words that write predicates, and PRD, which reads them (R152, R153, R163). -/
def predicateWords (f : F3) : List (Instr × (Env → Fibre → Fibre)) :=
  let x := f.x.toNat
  [(.icmp f, fun e fb =>
      withPreds fb fun k => if k = f.d.toNat then compared x (e.op32 fb f.a) (e.op32 fb f.b) else fb.ctx.preds.getLsbD k),
    (.plog f, fun _ fb =>
      withPreds fb fun k =>
        if k = f.d.toNat then bitOp x (predOf fb f.a.toNat) (predOf fb f.b.toNat) else fb.ctx.preds.getLsbD k),
    (.prd f, fun e fb => fb.put e .A f.d 1 (ofBits (fun k => predOf fb (32 * x + k)) 32)),
    (.pwr f, fun e fb =>
      withPreds fb fun k =>
        if k / 32 = x ∧ (e.op32 fb f.b).getLsbD (k % 32) then (e.op32 fb f.a).getLsbD (k % 32)
        else fb.ctx.preds.getLsbD k)]

end Sys2Proof.Spec

/-- IMM, LOG, SHF, BFX, BFI, BIT and IDOT4 complete for every operand and write the value of their rules to D through
the A pipe, and nothing else; the variants from the listed one on are undefined and raise illegal-instruction cause 2, MOV's
among them (R83, R151, R153 to R156, R159, R162). -/
def Sys2Proof.Spec.LogicResult : Prop :=
  ∀ f : F3, (∀ w ∈ logicWords f, Does w.1 f.c w.2) ∧
    ∀ w ∈ [(Instr.imm f, 4), (.shf f, 5), (.bfx f, 2), (.bfi f, 1), (.bit f, 3), (.idot4 f, 3), (.mov f, 2)],
      w.2 ≤ f.x.toNat → ∀ mp window, w.1.cause mp window = some 2

/-- NOP changes no fibre; MOV, SEL, LEA, LIM and LIMH complete and write the value of their rules to D through the
A pipe, and nothing else (R75, R157 to R159, R161). -/
def Sys2Proof.Spec.MoveResult : Prop :=
  (∀ f : F3, ∀ w ∈ moveWords f, Does w.1 f.c w.2) ∧ (∀ f : FK, ∀ w ∈ constantWords f, Does w.1 f.c w.2)

/-- ICMP, PLOG and PWR complete and change the predicates they name as their rules say, p0 never, and no register and
no latch; PRD completes and writes 32 predicates to D, p0 as 1; variants 3 to 7 of PRD and PWR raise illegal-instruction
cause 2 (R52, R83, R142, R152, R153, R163). -/
def Sys2Proof.Spec.PredicateResult : Prop :=
  ∀ f : F3, (∀ w ∈ predicateWords f, Does w.1 f.c w.2) ∧
    ∀ i ∈ [Instr.prd f, .pwr f], 3 ≤ f.x.toNat → ∀ mp window, i.cause mp window = some 2

/-- The words of logic and bits, of moves and constants and of predicates complete for every operand with the values of
their rules, and nothing else; undefined variants trap (R52, R75, R83, R142, R151 to R163). -/
def Obligations.LogicMoveAndPredicateResults : Prop := Sys2Proof.Spec.LogicResult ∧ Sys2Proof.Spec.MoveResult ∧ Sys2Proof.Spec.PredicateResult

/-! ## The F pipe, deferred results, comparisons, formats -/

namespace Sys2Proof.Spec

/-- Flags merged into a member's FPCTL (R168, R170): bits 12:8 gather them, and nothing clears one. -/
def merged (fb : Fibre) (fl : BitVec 5) : Fibre :=
  { fb with
    ctx := { fb.ctx with fpctl := fb.ctx.fpctl ||| BitVec.ofNat 32 (fl.toNat * 256) }
    raised := fb.raised ||| fl }

/-- An F-pipe result of n registers with its flags (R166, R170). -/
def floatPut (e : Env) (d : BitVec 7) (n : Nat) (r : Nat × BitVec 5) (fb : Fibre) : Fibre := merged (fb.put e .F d n r.1) r.2

/-- The format and the number of elements of a type (R165, R166, R180). -/
def typeOf : Nat → Fmt × Nat
  | 0 => (f32, 1)
  | 1 => (f64, 1)
  | 2 => (f16, 2)
  | _ => (bf16, 2)

/-- An operation on every element of a type: the scalar one, or two 16-bit elements whose flags are ORed (R166). -/
def elementwise (x : Nat) (op : Fmt → Nat → Nat → Nat → Nat × BitVec 5) (d a b : Nat) : Nat × BitVec 5 :=
  let t := typeOf x
  if t.2 = 1 then op t.1 d a b
  else
    let lo := op t.1 (d % 65536) (a % 65536) (b % 65536)
    let hi := op t.1 (d / 65536) (a / 65536) (b / 65536)
    (lo.1 + 65536 * hi.1, lo.2 ||| hi.2)

/-- The exact result of an operation rounded once (R172, R181), the flags of both merged. -/
def roundedOnce (t : Fmt) (fb : Fibre) (r : FVal × BitVec 5) : Nat × BitVec 5 :=
  let c := t.encode (modeOf (fb.snap.fpctl.toNat % 4)) (fb.snap.fpctl.getLsbD 2) r.1
  (c.1, r.2 ||| c.2)

/-- The element operations, on operands read under FZ (R171, R182, R183, R185, R186, R187). -/
def elementOp (i : Instr) (fb : Fibre) (t : Fmt) (d a b : Nat) : Nat × BitVec 5 :=
  let mode := modeOf (fb.snap.fpctl.toNat % 4)
  let fz := fb.snap.fpctl.getLsbD 2
  let val (w : Nat) := t.read fz w
  match i with
  | .fadd _ => roundedOnce t fb (fsum mode [val a, val b])
  | .fsub _ => roundedOnce t fb (fsum mode [val a, (val b).negate])
  | .fmul _ => roundedOnce t fb (fmul (val a) (val b))
  | .fma _ => roundedOnce t fb (ffma mode (val d) (val a) (val b))
  | .fmin _ => fminmax t fz false a b
  | .fmax _ => fminmax t fz true a b
  | .frnd _ => frnd t mode fz a
  | .fdiv _ => roundedOnce t fb (fdiv (val a) (val b))
  | .fsqrt _ => roundedOnce t fb (fsqrt (val a))
  | .fsgn _ =>
    (a % 2 ^ t.signBit + (if a / 2 ^ t.signBit % 2 = b / 2 ^ t.signBit % 2 then 0 else 2 ^ t.signBit), 0)
  | _ => (0, 0)

/-- The result of a word of the type family. -/
def typedResult (i : Instr) (f : F3) (e : Env) (fb : Fibre) : Nat × BitVec 5 :=
  let x := f.x.toNat
  elementwise x (elementOp i fb) (e.facc fb x f.d) (e.fop fb x f.a) (e.fop fb x f.b)

/-- Registers of a result of a type: a pair for f64 (R166). -/
def typeRegs (x : Nat) : Nat := if x = 1 then 2 else 1

/-- The words of the type family whose results are written in their run. -/
def floatWords (f : F3) : List (Instr × (Env → Fibre → Fibre)) :=
  [.fadd f, .fsub f, .fmul f, .fma f, .fmin f, .fmax f, .fsgn f, .frnd f].map fun i =>
    (i, fun e fb => floatPut e f.d (typeRegs f.x.toNat) (typedResult i f e fb) fb)

/-- The quotient and the remainder of IDIV (R150). -/
def divided (x : Nat) (a b : Word) : Word :=
  let q : Int × Int :=
    if b = 0 then (-1, a.toInt)
    else if x % 2 = 0 then (a.toInt.tdiv b.toInt, a.toInt.tmod b.toInt)
    else (a.toNat / b.toNat, a.toNat % b.toNat)
  BitVec.ofInt 32 (if x < 2 then q.1 else q.2)

/-- The words with deferrable results: the latch takes the value at once, the registers and the flags when it lands
(R66, R150, R170, R187, R188). -/
def deferredWords (f : F3) : List (Instr × (Env → Fibre → Fibre)) :=
  [(.idiv f, fun e fb =>
      fb.putLater e .A f.d 1 (divided f.x.toNat (e.op32 fb f.a) (e.op32 fb f.b)).toNat),
    (.fdiv f, fun e fb =>
      let r := typedResult (.fdiv f) f e fb
      fb.putLater e .F f.d (typeRegs f.x.toNat) r.1 r.2),
    (.fsqrt f, fun e fb =>
      let r := typedResult (.fsqrt f) f e fb
      fb.putLater e .F f.d (typeRegs f.x.toNat) r.1 r.2),
    (.sfu f, fun e fb =>
      let r := sfu f.x (modeOf (fb.snap.fpctl.toNat % 4)) (fb.snap.fpctl.getLsbD 2) (e.fop fb 0 f.a)
      fb.putLater e .F f.d 1 r.1 r.2)]

/-- CVT, QCVT, PK2, UPK2 and FDOT2 (R189 to R192): their conversion functions, with the types, the slot and the rounding
that their fields name. -/
def convertWords (f : F3) : List (Instr × (Env → Fibre → Fibre)) :=
  let x := f.x.toNat
  let mode (fb : Fibre) := modeOf (fb.snap.fpctl.toNat % 4)
  let named (fb : Fibre) := if x = 5 then mode fb else modeOf x
  let fz (fb : Fibre) := fb.snap.fpctl.getLsbD 2
  let src := f.b.toNat / 8 % 8
  let dst := f.b.toNat % 8
  [(.cvt f, fun e fb =>
      floatPut e f.d (if dst = 1 ∨ dst = 6 ∨ dst = 7 then 2 else 1)
        (cvt src dst (named fb) (fz fb) (e.cvtOperand fb src f.a)) fb),
    (.qcvt f, fun e fb =>
      let a := if f.b.toNat < 64 then BitVec.ofNat 32 (e.fop fb 0 f.a) else e.op32 fb f.a
      let r := qcvt (sget 0 fb.tsnap (f.b.toNat % 16)) (named fb) f.b a
      floatPut e f.d 1 (r.1.toNat, r.2) fb),
    (.pk2 f, fun e fb =>
      floatPut e f.d 1 (pk2 (typeOf x).1 (mode fb) (fz fb) (e.fop fb 0 f.a) (e.fop fb 0 f.b)) fb),
    (.upk2 f, fun e fb => floatPut e f.d 2 (upk2 (typeOf x).1 (e.fop fb x f.a)) fb),
    (.fdot2 f, fun e fb =>
      floatPut e f.d 1
        (fdot2 (typeOf x).1 (mode fb) (fz fb) (e.facc fb 0 f.d) (e.fop fb x f.a) (e.fop fb x f.b)) fb)]

/-- A finite value as a rational number (R165). -/
def rational (neg : Bool) (m : Nat) (e : Int) : ℚ := (if neg then -1 else 1) * (m : ℚ) * (2 : ℚ) ^ e

/-- Whether a value lies below another, infinities at the ends; no NaN lies below or above anything (R184). -/
def below (a b : FVal) : Bool :=
  match a, b with
  | .fin n m e, .fin n' m' e' => rational n m e < rational n' m' e'
  | .inf true, .fin _ _ _ => true
  | .inf true, .inf false => true
  | .fin _ _ _, .inf false => true
  | _, _ => false

def isNaN : FVal → Bool
  | .nan _ _ => true
  | _ => false

def isSignalling : FVal → Bool
  | .nan s _ => s
  | _ => false

/-- The table of R184: whether the condition holds, and whether it raises NV. -/
def conditionOf (x : Nat) (a b : FVal) : Bool × Bool :=
  let un := isNaN a || isNaN b
  let equal := !un && !below a b && !below b a
  let quiet := isSignalling a || isSignalling b
  match x with
  | 0 => (equal, quiet)
  | 1 => (!equal, quiet)
  | 2 => (below a b, un)
  | 3 => (below a b || equal, un)
  | 4 => (below b a, un)
  | 5 => (below b a || equal, un)
  | 6 => (un, quiet)
  | _ => (!un, quiet)

/-- FCMP on f32 operands and DCMP on f64 operands (R184). -/
def compareWords (f : F3) : List (Instr × (Env → Fibre → Fibre)) :=
  let act (ty : Nat) (e : Env) (fb : Fibre) : Fibre :=
    let t := (typeOf ty).1
    let fz := fb.snap.fpctl.getLsbD 2
    let r := conditionOf f.x.toNat (t.read fz (e.fop fb ty f.a)) (t.read fz (e.fop fb ty f.b))
    merged (withPreds fb fun k => if k = f.d.toNat then r.1 else fb.ctx.preds.getLsbD k) (if r.2 then 1 else 0)
  [(.fcmp f, act 0), (.dcmp f, act 1)]

/-- What FMTS writes into the slot that A names: the descriptor B, or nothing when B is no legal one (R178). -/
def slotWritten (tab : Sparse Word) (a b : Word) : Sparse Word :=
  sset 0 tab (a.toNat % 16) (if narrowLegal b then b else 0)

/-- A member after FMTS: its own copy of the table changed while it is away (R177), NV raised by an illegal
descriptor (R178). -/
def afterFmts (f : F3) (e : Env) (fb : Fibre) : Fibre :=
  let a := e.op32 fb f.a
  let b := e.op32 fb f.b
  let fb := { fb with ftab := fb.ftab.map fun tab => slotWritten tab a b }
  if b ≠ 0 ∧ ¬narrowLegal b then merged fb 1 else fb

/-- The group's table after FMTS by the members fids, each at home writing in turn (R178). -/
def tableAfter (f : F3) (e : Env) (g : Group) (fids : List Nat) : Sparse Word :=
  fids.foldl (fun tab k =>
    if (g.fibre k).ftab.isSome then tab
    else slotWritten tab (e.op32 (g.fibre k) f.a) (e.op32 (g.fibre k) f.b)) g.fmttab

/-- The deadline register x and WSTAT after a deadline instruction (R87, R92): mode, target, whether it was clamped. -/
def withDeadline (fb : Fibre) (x mode target : Nat) (clamped : Bool) : Fibre :=
  { fb with ctx := { fb.ctx with
      dl := sset 0 fb.ctx.dl x (BitVec.ofNat 64 (mode * 2 ^ 63 + target % 2 ^ 63))
      wstat := if clamped then 0x100 else 0 } }

/-- The words that read time and set deadlines (R91, R92). -/
def deadlineWords (f : F3) : List (Instr × (Env → Fibre → Fibre)) :=
  let x := f.x.toNat
  [(.tick f, fun e fb => fb.put e .A f.d 2 (if x = 0 then e.tick else fb.rtk).toNat),
    (.dlget f, fun e fb => fb.put e .A f.d 2 (if x = 0 then e.tick else sget 0 fb.snap.dl x).toNat),
    (.dlset f, fun e fb =>
      let v := (e.op64 fb f.a).toNat
      withDeadline fb x 0 (min v (e.tick.toNat + 2 ^ 40)) (e.tick.toNat + 2 ^ 40 < v)),
    (.dlrel f, fun e fb =>
      let v := (e.op64 fb f.a).toNat
      withDeadline fb x 0 (e.tick.toNat + min v (2 ^ 40)) (2 ^ 40 < v)),
    (.dlbud f, fun e fb =>
      let v := (e.op64 fb f.a).toNat
      withDeadline fb x 1 (fb.rtk.toNat + min v (2 ^ 40)) (2 ^ 40 < v))]

/-- A member after ESCAL (R108): status 15 of class 14 with the code in bits 23:8, p1 clear, the trap asked for. -/
def afterEscal (code : Nat) (fb : Fibre) : Fibre :=
  { fb with
    ctx := { fb.ctx with
      wstat := BitVec.ofNat 32 (15 + 14 * 16 + code * 256)
      preds := fb.ctx.preds &&& ~~~2#96 }
    after := { fb.after with escal := some code } }

/-- A member after MOVT (R160, R168): the defined bits of B, with the flags that its own chain group has raised. -/
def afterMovt (f : F3) (e : Env) (fb : Fibre) : Fibre :=
  { fb with ctx := { fb.ctx with fpctl := (e.op32 fb f.b &&& 0x1F07) ||| BitVec.ofNat 32 (fb.raised.toNat * 256) } }

end Sys2Proof.Spec

/-- FADD, FSUB, FMUL, FMA, FMIN, FMAX, FSGN and FRND complete for every operand: the element operation on each
element, one result in D and the latch of the F pipe, its flags merged, and nothing else changed (R166, R170, R181 to
R186). -/
def Sys2Proof.Spec.FloatResult : Prop := ∀ f : F3, ∀ w ∈ floatWords f, Does w.1 f.c w.2

/-- IDIV, FDIV, FSQRT and SFU complete for every operand; IDIV divides toward zero and by zero gives all ones and the
dividend; variants 4 to 7 of IDIV and 6 and 7 of SFU raise illegal-instruction cause 2 (R66, R83, R150, R187, R188). -/
def Sys2Proof.Spec.DeferredResult : Prop :=
  ∀ f : F3, (∀ w ∈ deferredWords f, Does w.1 f.c w.2) ∧
    ∀ w ∈ [(Instr.idiv f, 4), (.sfu f, 6)], w.2 ≤ f.x.toNat → ∀ mp window, w.1.cause mp window = some 2

/-- CVT, QCVT, PK2, UPK2 and FDOT2 complete for every operand and write the result of their conversion to D with its
flags, and nothing else (R189 to R192). -/
def Sys2Proof.Spec.ConvertResult : Prop := ∀ f : F3, ∀ w ∈ convertWords f, Does w.1 f.c w.2

/-- IDIV, FDIV, FSQRT and SFU complete with their deferrable result, CVT, QCVT, PK2, UPK2 and FDOT2 with that of their
conversion, for every operand, and nothing else (R66, R150, R187 to R192). -/
def Obligations.DeferredAndConvertResults : Prop := Sys2Proof.Spec.DeferredResult ∧ Sys2Proof.Spec.ConvertResult

/-- FCMP and DCMP complete and write the predicate of D by the table of R184 over the exact values, with NV as the table
says, no register and no latch. -/
def Sys2Proof.Spec.CompareResult : Prop := ∀ f : F3, ∀ w ∈ compareWords f, Does w.1 f.c w.2

/-- FADD, FSUB, FMUL, FMA, FMIN, FMAX, FSGN, FRND and, on predicates, FCMP and DCMP complete for every operand with the
result and the flags of their rules, and nothing else (R166, R170, R181 to R186). -/
def Obligations.FloatAndCompareResults : Prop := Sys2Proof.Spec.FloatResult ∧ Sys2Proof.Spec.CompareResult

/-- MOVS completes and writes the special that A numbers; MOVT completes and writes FPCTL, its reserved bits as zero, and
no latch (R160, R168). -/
def Sys2Proof.Spec.SpecialWords : Prop :=
  (∀ f : F3, ∀ s r g, Ready s (.movs f) r g →
    ∃ t, exec (.movs f) s = .next t ∧
      Members s t r f.c fun fb => fb.put (s.env r) .A f.d 1 (s.special g s.cur fb (f.a.toNat - 96)).toNat) ∧
  (∀ f : F3, Does (.movt f) f.c (afterMovt f))

/-- FMTS completes: the group's table takes the writes of the members at home in turn, a member away changes its own
copy, an illegal descriptor unbinds the slot and raises NV, and nothing else changes (R177, R178). -/
def Sys2Proof.Spec.FormatTableWrite : Prop :=
  ∀ (f : F3) s r g, Ready s (.fmts f) r g →
    ∃ t, exec (.fmts f) s = .next t ∧
      (t.group? r.grp).map (fun h => { h with fibres := [] }) =
        some { g with fmttab := tableAfter f (s.env r) g r.fids, fibres := [] } ∧
      (∀ k, ((t.group? r.grp).map fun h => h.fibre k) =
        some (if k ∈ r.fids then afterFmts f (s.env r) (g.fibre k) else g.fibre k)) ∧
      (∀ h, h ≠ r.grp → t.group? h = s.group? h) ∧
      SameElsewhere s t ∧ PastWord s t r f.c

/-- TICK, DLGET, DLSET, DLREL, DLBUD and ESCAL complete: the time or the deadline in D, the deadline register with its
clamp noted in WSTAT, p1 untouched, or the escalation asked for; nothing else changes (R91, R92, R108). -/
def Obligations.DeadlineWords : Prop :=
  (∀ f : F3, ∀ w ∈ deadlineWords f, Does w.1 f.c w.2) ∧
  (∀ f : FK, Does (.escal f) f.c fun _ => afterEscal f.k.toNat)

/-! ## Control transfer and the words that end a run -/

namespace Sys2Proof.Spec

/-- Word i, once ready and where pre holds, answers a next state in which it has changed its members as u says and
nothing else. -/
def DoesWhen (i : Instr) (c : Bool) (pre : State → Run → Group → Prop) (u : Run → Env → Fibre → Fibre) : Prop :=
  ∀ s r g, Ready s i r g → pre s r g → ∃ t, exec i s = .next t ∧ Members s t r c (u r (s.env r))

/-- The word raises trap t for its bundle: no effect of its own, the run to be made again (R70). -/
def Raises (i : Instr) (pre : State → Run → Group → Prop) (trap : State → Run → Trap) : Prop :=
  ∀ s r g, Ready s i r g → pre s r g → exec i s = .next (s.raise s.cur r (trap s r))

/-- The members whose A is no packet address (R54, R126). -/
def strayTargets (f : F3) (s : State) (r : Run) : List Fibre :=
  (s.members r).filter fun fb => ((s.env r).op64 fb f.a).toNat % 12 ≠ 0

/-- The member bits of some fibres (R119). -/
def maskOfFibres (l : List Fibre) : BitVec 32 := maskOf (l.map (·.fid))

/-- The packet that a branch goes to from a run: k packets on when taken, else the next one (R126). -/
def branchTo (r : Run) (k : BitVec 17) (taken : Bool) : DWord :=
  if taken then r.pkt + BitVec.ofInt 64 (12 * k.toInt) else r.pkt + 12

/-- No member that takes the branch is taken to what is no packet address, past an end of the address space (R54,
R126). -/
def jumpFits (r : Run) (k : BitVec 17) (s : State) (takes : Fibre → Bool) : Prop :=
  (∀ fb ∈ s.members r, takes fb = false) ∨ (branchTo r k true).toNat % 12 = 0

/-- The trap of a branch that does not fit: the members that take it fail. -/
def strayJump (r : Run) (s : State) (takes : Fibre → Bool) : Trap :=
  { kind := 8, cause := 6, failing := maskOfFibres ((s.members r).filter takes) }

/-- The members that are in no handler (R350). -/
def notInHandler (s : State) (r : Run) : List Fibre := (s.members r).filter fun fb => fb.ctx.inhandler = false

/-- The microprogram that MCALL names: bound in the partition's store, inside the region's share, and not being
replaced (R76, R81, R82). -/
def microReady (f : FK) (s : State) (_ : Run) (g : Group) : Prop :=
  s.replacing g.part f.k.toNat = false ∧ (s.slotWords g.part f.k.toNat).isSome ∧
    (s.shareOf g.part g.region).testBit f.k.toNat

/-- One absent or not shared (R81). -/
def microAbsent (f : FK) (s : State) (_ : Run) (g : Group) : Prop :=
  s.replacing g.part f.k.toNat = false ∧
    ((s.slotWords g.part f.k.toNat).isNone ∨ (s.shareOf g.part g.region).testBit f.k.toNat = false)

/-- A member whose run ends plainly: nothing is left to be done after the run. -/
def plainEnd (fb : Fibre) : Prop := fb.after = {} ∧ fb.wait = none ∧ fb.owed = none

/-- Such a member after its run (R64 to R67, R126): its results written or on the scoreboard, at the packet its branch
has chosen or at the next, ready from this tick. -/
def ended (r : Run) (named : List Nat) (now : DWord) (fb : Fibre) : Fibre :=
  { fb.endResults named with
    pc := fb.npc.getD (r.pkt + 12)
    npc := none
    exempt := false
    mc := none
    st := .ready
    rdy := now }

end Sys2Proof.Spec

/-- BR, BRN and CALL complete and choose each member's next packet: K packets from this one where the predicate of D is 1
(BR) or 0 (BRN), and always for CALL, which writes the return address to the pair D (R126); the packet that K names is a
multiple of 12 for a member that takes the branch. JMP and RET complete where every member's A is a multiple of 12 and go
there. -/
def Sys2Proof.Spec.BranchWords : Prop :=
  ∀ (f : FK) (h : F3),
    DoesWhen (.br f) f.c (fun s r _ => jumpFits r f.k s fun fb => predOf fb f.d.toNat)
      (fun r _ fb => { fb with npc := some (branchTo r f.k (predOf fb f.d.toNat)) }) ∧
    DoesWhen (.brn f) f.c (fun s r _ => jumpFits r f.k s fun fb => !predOf fb f.d.toNat)
      (fun r _ fb => { fb with npc := some (branchTo r f.k (!predOf fb f.d.toNat)) }) ∧
    DoesWhen (.call f) f.c (fun s r _ => jumpFits r f.k s fun _ => true)
      (fun r e fb => { fb.put e .A f.d 2 (r.pkt + 12).toNat with npc := some (branchTo r f.k true) }) ∧
    DoesWhen (.jmp h) h.c (fun s r _ => strayTargets h s r = []) (fun _ e fb => { fb with npc := some (e.op64 fb h.a) }) ∧
    DoesWhen (.ret h) h.c (fun s r _ => strayTargets h s r = []) (fun _ e fb => { fb with npc := some (e.op64 fb h.a) })

/-- BR, BRN, CALL, JMP and RET to an address that is no packet address raise illegal-packet cause 6, their stray members
failing (R54, R126); ERET outside a handler and MCALL of an absent or unshared slot raise illegal-instruction causes 7 and 8 (R81,
R350). -/
def Sys2Proof.Spec.ControlTraps : Prop :=
  ∀ (f : F3) (k : FK),
    (∀ i ∈ [Instr.jmp f, .ret f], Raises i (fun s r _ => strayTargets f s r ≠ [])
      fun s r => { kind := 8, cause := 6, failing := maskOfFibres (strayTargets f s r) }) ∧
    Raises (.br k) (fun s r _ => ¬jumpFits r k.k s fun fb => predOf fb k.d.toNat)
      (fun s r => strayJump r s fun fb => predOf fb k.d.toNat) ∧
    Raises (.brn k) (fun s r _ => ¬jumpFits r k.k s fun fb => !predOf fb k.d.toNat)
      (fun s r => strayJump r s fun fb => !predOf fb k.d.toNat) ∧
    Raises (.call k) (fun s r _ => ¬jumpFits r k.k s fun _ => true) (fun s r => strayJump r s fun _ => true) ∧
    Raises (.eret f) (fun s r _ => (f.x.getLsbD 0 → strayTargets f s r = []) ∧ notInHandler s r ≠ [])
      (fun s r => { kind := 7, cause := 7, failing := maskOfFibres (notInHandler s r) }) ∧
    Raises (.eret f) (fun s r _ => f.x.getLsbD 0 ∧ strayTargets f s r ≠ [])
      (fun s r => { kind := 8, cause := 6, failing := maskOfFibres (strayTargets f s r) }) ∧
    Raises (.mcall k) (microAbsent k) fun _ r => { kind := 7, cause := 8, failing := maskOf r.fids }

/-- Branches, calls, jumps and returns choose the next packet of each member; stray targets, ERET outside a handler and an
absent microprogram trap (R54, R81, R126, R350). -/
def Obligations.ControlTransfer : Prop := Sys2Proof.Spec.BranchWords ∧ Sys2Proof.Spec.ControlTraps

/-- FEND, GEND, TRAP, SYSC, ERET, MCALL and YIELD complete and leave with their members or their run what the end of the
run does: the exit value, the group's code, the trap's number, the call's code and first register, the return and what it
keeps, the microprogram, the strength; nothing else changes (R78, R125, R129, R131, R348 to R350). -/
def Obligations.RunEndWords : Prop :=
  ∀ (f : F3) (k : FK),
    Does (.fend f) f.c (fun e fb => { fb with after := { fb.after with fend := some (e.op32 fb f.a) } }) ∧
    Does (.gend f) f.c (fun e fb => { fb with after := { fb.after with gend := some (e.op32 fb f.a) } }) ∧
    Does (.trap k) k.c (fun _ fb => { fb with after := { fb.after with trap := some k.k.toNat } }) ∧
    Does (.sysc k) k.c
      (fun e fb => { fb with after := { fb.after with sysc := some (k.k.toNat, mapReg e.mp k.d.toNat) } }) ∧
    DoesWhen (.eret f) f.c
      (fun s r _ => (f.x.getLsbD 0 → strayTargets f s r = []) ∧ notInHandler s r = [])
      (fun _ e fb =>
        { fb with
          npc := some (if f.x.getLsbD 0 then e.op64 fb f.a else fb.ctx.epc)
          after := { fb.after with eret := some (f.x.getLsbD 1, f.x.getLsbD 0) } }) ∧
    DoesWhen (.mcall k) k.c (microReady k)
      (fun _ _ fb => { fb with after := { fb.after with mcall := some (k.k.toNat, k.d.toNat) } }) ∧
    (∀ s r g, Ready s (.yield f) r g →
      ∃ t, exec (.yield f) s = .next t ∧ Members s t { r with yielded := some f.x.toNat } f.c id)

/-- TRAIL completes: the run ends. After an MCALL the core goes on with the microprogram (R79); otherwise the core has no
run, and a member with nothing left to do, named once in a group that goes on, has its results written or on the
scoreboard and is ready at its next packet (R64 to R67, R126).
That the oldest entry lands first where room is needed is the model's reading (log entry 29). -/
def Obligations.TrailEndsRun : Prop :=
  ∀ (f : F3) s r g, Ready s (.trail f) r g →
    ∃ t, exec (.trail f) s = .next t ∧
      (∀ slot base, (s.lead r).after.mcall = some (slot, base) →
        (t.core s.cur).run =
          some { grp := r.grp, fids := r.fids, start := r.pkt, pkt := r.pkt, mc := some (slot, base) }) ∧
      ((s.lead r).after.mcall = none →
        (t.core s.cur).run = none ∧
        (g.exit = none → (∀ fb ∈ s.members r, plainEnd fb) →
          ∀ k ∈ r.fids, r.fids.count k = 1 →
            t.fibre? r.grp k = some (ended r (trailRegs f (r.mc.map (·.2))) s.tick (g.fibre k))))

/-! ## Global memory and the scratchpad -/

namespace Sys2Proof.Spec

/-- The fibres, the groups and the cores after a word of memory: what lies outside the bundle is as it was, each member
differs as same says, groups and cores hold what they held, and the run has moved past the word. -/
def AroundMemory (s t : State) (r : Run) (c : Bool) (same : Fibre → Fibre → Prop) : Prop :=
  (∀ h f, ¬(h = r.grp ∧ f ∈ r.fids) → t.fibre? h f = s.fibre? h f) ∧
  (∀ f ∈ r.fids, ∀ x y, s.fibre? r.grp f = some x → t.fibre? r.grp f = some y → same x y) ∧
  SameGroups s t ∧ PastWord s t r c

/-- Word i, once ready: where its accesses pass the checks of R231 for every member it performs eff and is moved past;
where they raise an access or a translation fault it traps, with no effect of its own. -/
def Accesses (i : Instr) (c : Bool) (spec : Env → AccSpec) (req : Env → Fibre → List Req)
    (eff : State → Run → Group → List Req → State) (same : Fibre → Fibre → Prop) : Prop :=
  ∀ s r g, Ready s i r g →
    let l := (s.members r).flatMap (req (s.env r))
    (s.check r (spec (s.env r)) l = .ok →
      ∃ t, exec i s = .next t ∧ t = (eff s r g l).retire c ∧ AroundMemory s t r c same) ∧
    ∀ trap, s.check r (spec (s.env r)) l = .fault trap → trap.kind = 9 ∨ trap.kind = 10 →
      exec i s = .next (s.raise s.cur r trap)

/-- A member that has only a result in flight, a latch, flags and notes for its fences more. -/
def sameButResult (x y : Fibre) : Prop :=
  { y with
    flight := x.flight, raised := x.raised, wrote := x.wrote, synced := x.synced
    ctx := { y.ctx with lat := x.ctx.lat, fpctl := x.ctx.fpctl } } = x

/-- A member that has only a store more to be acknowledged, and notes for its fences. -/
def sameButStores (x y : Fibre) : Prop := { y with unacked := x.unacked, wrote := x.wrote, synced := x.synced } = x

/-- Bytes, registers and sign of an LD by its size code (R221). -/
def loadSize : Nat → Nat × Nat × Bool
  | 0 => (1, 1, true)
  | 1 => (1, 1, false)
  | 2 => (2, 1, true)
  | 3 => (2, 1, false)
  | 4 => (4, 1, false)
  | 5 => (8, 2, false)
  | _ => (16, 4, false)

/-- Bytes and registers of an ST by its size code (R221). -/
def storeSize : Nat → Nat × Nat
  | 0 => (1, 1)
  | 1 => (2, 1)
  | 2 => (4, 1)
  | 3 => (8, 2)
  | _ => (16, 4)

/-- The register value of n bytes read as a little-endian number (R221). -/
def widened (n : Nat) (signed : Bool) (v : Nat) : Nat :=
  if signed then
    let w := v % 256 ^ n
    if 2 * w < 256 ^ n then w else w + 2 ^ 32 - 256 ^ n
  else v

/-- The one address of a member's access: A alone, or A plus the 32-bit B as a signed offset (R223, R303). -/
def addrA (f : F3) (desc : Bool) (e : Env) (fb : Fibre) : List Req :=
  [{ fid := fb.fid, va := e.op64 fb f.a, desc := if desc then e.op32 fb f.b else 0 }]
def addrAB (f : F3) (e : Env) (fb : Fibre) : List Req :=
  [{ fid := fb.fid, va := e.op64 fb f.a + BitVec.ofInt 64 (e.op32 fb f.b).toInt }]

/-- The register that receives a result, none when the code suppresses it (R51). -/
def target (e : Env) (d : BitVec 7) : Option Nat := if d.toNat < 64 then some (mapReg e.mp d.toNat) else none

/-- What a load of n bytes, and a store, asks of R231. -/
def asLoad (n : Nat) (d : BitVec 7) (e : Env) : AccSpec :=
  { size := n, acc := .read, watchRead := true, locate := true, ecc := true, dest := target e d }
def asStore (n : Nat) : AccSpec := { size := n, acc := .write, watchWrite := true, sets := true }
/-- What an atomic asks: one with a result is read as well, and makes the locate check (R232, R307). -/
def asAtomic (n : Nat) (result : Bool) (d : BitVec 7) (e : Env) : AccSpec :=
  { size := n, acc := .rmw, watchRead := result, watchWrite := true, locate := result, ecc := true
    dest := if result then target e d else none }

/-- The members' loads in turn (R223): each value goes to D with the latch of the M pipe. -/
def loads (spec : AccSpec) (d : BitVec 7) (regs : Nat) (ext : Nat → Nat) (s : State) (r : Run) (g : Group)
    (l : List Req) : State :=
  l.foldl (fun s q =>
    let (v, bad, s) := s.readReq g spec q
    s.modFibre r.grp q.fid fun fb => fb.putLater (s.env r) .M d regs (ext v) 0 (if bad then some q.va else none)) s

/-- Members whose later fences take other fibres' writes along (R313), and members whose writes, and those before them,
have been performed at scope D. -/
def synced (s : State) (r : Run) : State := s.modFibres r.grp r.fids fun fb => { fb with synced := true }
def released (s : State) (r : Run) : State := s.modFibres r.grp r.fids fun fb => { fb with wrote := [], synced := false }

/-- The data of a store: n registers from D, the first lowest (R221). -/
def stored (e : Env) (fb : Fibre) (d : BitVec 7) : Nat → Nat
  | 0 => 0
  | n + 1 => stored e fb d n + (e.regAt fb d n).toNat * 2 ^ (32 * n)

/-- The members' stores in turn (R223). -/
def stores (spec : AccSpec) (d : BitVec 7) (regs : Nat) (s : State) (r : Run) (g : Group) (l : List Req) : State :=
  l.foldl (fun t q => t.writeReq g spec q (stored (s.env r) (g.fibre q.fid) d regs)) s

/-- The new value of ATOM and REDM (R304). -/
def combined (x : Nat) (old v : Word) : Word :=
  match x with
  | 0 => old + v
  | 1 => old &&& v
  | 2 => old ||| v
  | 3 => old ^^^ v
  | 4 => if old.toInt ≤ v.toInt then old else v
  | 5 => if old.toInt ≤ v.toInt then v else old
  | 6 => if old.toNat ≤ v.toNat then old else v
  | _ => if old.toNat ≤ v.toNat then v else old

/-- The new value of ATOX and the flags it raises (R305). -/
def exchanged (x : Nat) (old v : Nat) : Nat × BitVec 5 :=
  match x with
  | 0 => (v, 0)
  | 1 => (v, 0)
  | 2 => ((old + v) % 2 ^ 64, 0)
  | 3 => (if old < v then old + 1 else 0, 0)
  | 4 => (if old = 0 ∨ v < old then v else old - 1, 0)
  | 5 =>
    let r := fsum .rne [f32.decode old, f32.decode v]
    let c := f32.encode .rne false r.1
    (c.1, r.2 ||| c.2)
  | 6 => fminmax f32 false false old v
  | _ => fminmax f32 false true old v

/-- The members' read-modify-writes in turn, the old value to regs registers of D where the word has a result (R307); an
operation without a new value writes nothing (R306). -/
def atomics (spec : AccSpec) (d : BitVec 7) (regs : Option Nat) (op : Env → Fibre → Nat → Option Nat × BitVec 5) (s : State)
    (r : Run) (g : Group) (l : List Req) : State :=
  l.foldl (fun t q =>
    let fb := g.fibre q.fid
    let (old, bad, t) := t.rmwReq g spec q fun old => (op (s.env r) fb old).1
    match regs with
    | none => t
    | some n =>
      t.modFibre r.grp q.fid fun x =>
        x.putLater (s.env r) .M d n old (op (s.env r) fb old).2 (if bad then some q.va else none)) s

/-- The operand or operands that D holds for an atomic of n registers: value k (R303, R306). -/
def operandD (e : Env) (fb : Fibre) (d : BitVec 7) (n k : Nat) : Nat :=
  if n = 2 then (e.pairAt fb d (2 * k)).toNat else (e.regAt fb d k).toNat

/-- The words that load and store global memory (R221 to R223). -/
def LoadStore (f : F3) : Prop :=
  let ld := loadSize f.x.toNat
  let st := storeSize f.x.toNat
  Accesses (.ld f) f.c (asLoad ld.1 f.d) (addrAB f)
    (fun s r g l => loads (asLoad ld.1 f.d (s.env r)) f.d ld.2.1 (widened ld.1 ld.2.2) s r g l) sameButResult ∧
  Accesses (.lda f) f.c (asLoad 4 f.d) (addrAB f)
    (fun s r g l => loads (asLoad 4 f.d (s.env r)) f.d 1 id (synced (s.acquire s.cur (f.x.toNat + 1)) r) r g l)
    sameButResult ∧
  Accesses (.st f) f.c (fun _ => asStore st.1) (addrA f true)
    (fun s r g l => stores (asStore st.1) f.d st.2 s r g l) sameButStores ∧
  Accesses (.stl f) f.c (fun _ => asStore 4) (addrA f true)
    (fun s r g l =>
      let t := s.release s.cur (f.x.toNat + 1)
      stores (asStore 4) f.d 1 (if f.x.toNat < 3 then t else released t r) r g l) sameButStores

/-- The atomic words (R303 to R307). -/
def AtomicWords (f : F3) : Prop :=
  let x := f.x.toNat
  let n := if x = 1 ∨ x = 2 then 2 else 1
  let m := if x = 1 then 2 else 1
  let word (op : Env → Fibre → Nat → Option Nat × BitVec 5) (i : Instr) (size : Nat) (regs : Option Nat) :=
    Accesses i f.c (asAtomic size regs.isSome f.d) (addrAB f)
      (fun s r g l => atomics (asAtomic size regs.isSome f.d (s.env r)) f.d regs op s r g l) sameButResult
  word (fun e fb old => (some (combined x (BitVec.ofNat 32 old) (e.regAt fb f.d 0)).toNat, 0)) (.atom f) 4 (some 1) ∧
  word (fun e fb old => (some (combined x (BitVec.ofNat 32 old) (e.regAt fb f.d 0)).toNat, 0)) (.redm f) 4 none ∧
  word (fun e fb old => let v := exchanged x old (operandD e fb f.d n 0); (some v.1, v.2)) (.atox f) (4 * n) (some n) ∧
  word (fun e fb old => (if old = operandD e fb f.d m 0 then some (operandD e fb f.d m 1) else none, 0)) (.cas f) (4 * m)
    (some m)

/-- The words on whole lines (R234 to R240). -/
def LineWords (f : F3) : Prop :=
  let range (e : Env) (fb : Fibre) (desc : Word) : List Req :=
    rangeReqs fb.fid (e.op64 fb f.a) (e.regAt fb f.d 0).toNat desc
  Accesses (.locate f) f.c (fun _ => { size := 1, acc := .read }) (addrA f false)
    (fun s r g l => l.foldl (fun s q => s.locateOne r g f q) s)
    (fun x y => { y with ctx := { y.ctx with regs := x.ctx.regs, lat := x.ctx.lat, loclvl := x.ctx.loclvl } } = x) ∧
  Accesses (.rsrev f) f.c (fun _ => { size := 1, acc := .revise, sets := true }) (fun e fb => range e fb (e.op32 fb f.b))
    (fun s r g _ => (s.members r).foldl (fun t fb =>
      (rangeLines ((s.env r).op64 fb f.a).toNat ((s.env r).regAt fb f.d 0).toNat).foldl (fun t va =>
        let p := t.transReq g .revise { fid := fb.fid, va := BitVec.ofNat 64 va }
        t.revise g.part t.cur (p.paOf / 256) f.x ((s.env r).op32 fb f.b) (pteHost p.entryOf)) t) s)
    (fun x y => y = x) ∧
  (f.x ≠ 1 → f.x ≠ 2 →
    Accesses (.cache f) f.c (fun _ => { size := 1, acc := .any }) (fun e fb => range e fb 0)
      (fun s r g _ => (s.members r).foldl (fun t fb =>
        let n := ((s.env r).regAt fb f.d 0).toNat
        let va := ((s.env r).op64 fb f.a).toNat
        if 2 ^ 24 < n ∨ 2 ^ 60 ≤ va then t
        else (rangeLines va n).foldl (fun t va => t.cacheLine g f.x va) t) s)
      (fun x y => y = x)) ∧
  (f.x = 1 ∨ f.x = 2 → ∀ s r g, Ready s (.cache f) r g →
    s.prefetchMisses g ((s.members r).flatMap fun fb => range (s.env r) fb 0) = [] →
    ∃ t, exec (.cache f) s = .next t ∧ AroundMemory s t r f.c (fun x y => y = x) ∧
      t = ((s.members r).foldl (fun t fb =>
        let n := ((s.env r).regAt fb f.d 0).toNat
        let va := ((s.env r).op64 fb f.a).toNat
        if 2 ^ 24 < n ∨ 2 ^ 60 ≤ va then t
        else (rangeLines va n).foldl (fun t va => t.cacheLine g f.x va) t) s).retire f.c)

/-- Every copy in a cache holds something. -/
def NoEmptyCopy (s : State) : Prop := ∀ c ∈ s.copies, c.sectors ≠ 0 ∨ c.dirty ≠ 0

/-- No cache holds line, and no eviction notice is about it. -/
def Uncached (s : State) (line : Nat) : Prop :=
  (∀ c ∈ s.copies, c.line ≠ line) ∧ (∀ n ∈ s.notices, n.line ≠ line)

/-- No cache has to give up a line for another one (R230). -/
def HasRoom (s : State) : Prop := ∀ u p, (s.rivals u p).length < s.capacity u p ∨ s.rivals u p = []

/-- Nothing is on its way to a home besides what concerns line, and no page is being moved: an access to line moves no other
one's bytes (R312, R329, R333). -/
def Calm (s : State) (line : Nat) : Prop :=
  HasRoom s ∧ s.notices = [] ∧ s.remaps = [] ∧ ∀ c ∈ s.copies, c.line ≠ line → c.dirty = 0

/-- A request whose bytes lie in one sector of memory and in no peer's aperture. -/
def Plain (s : State) (g : Group) (spec : AccSpec) (q : Req) : Prop :=
  let pa := (s.transReq g spec.acc q).paOf
  s.aperture? g.part pa = none ∧ 0 < spec.size ∧ pa % 64 + spec.size ≤ 64

end Sys2Proof.Spec

/-- LD, LDA, ST and STL complete wherever the checks of R231 pass for every member: each member in turn loads or stores
the bytes of its size code at A plus B, or at A; LDA acquires before, STL releases before; nothing else of any fibre
changes (R220 to R223). -/
def Sys2Proof.Spec.LoadStoreWords : Prop := ∀ f : F3, LoadStore f

/-- ATOM, REDM, ATOX and CAS complete wherever the checks of R231 pass for every member: each member in turn makes one
read-modify-write with the new value of its operation, and the old value goes to D, REDM writing no register (R303 to
R307). -/
def Sys2Proof.Spec.AtomicWordsPerform : Prop := ∀ f : F3, AtomicWords f

/-- LOCATE, RSREV and CACHE complete wherever the checks of R231 pass, member by member and line by line; a prefetch
needs no more than that its pages have been walked for (R234 to R240). -/
def Sys2Proof.Spec.LineWordsPerform : Prop := ∀ f : F3, LineWords f

/-- The words of global memory complete wherever the checks of R231 pass, member by member, and trap where those raise a
fault (R220 to R223, R234 to R240, R303 to R307).
That an LDA discards before it reads and an STL releases before it stores (log entry 49), that REDM needs both R and W of its
page (log entry 65), that an RSREV or CACHE of length 0 checks nothing (log entry 50), and which writes of others an acquire or
a release moves (log entries 120 and 123) are the model's choices. -/
def Obligations.GlobalMemoryWords : Prop := Sys2Proof.Spec.LoadStoreWords ∧ Sys2Proof.Spec.AtomicWordsPerform ∧ Sys2Proof.Spec.LineWordsPerform

/-- A load of a line that no cache holds, and that no cache gives up a line for, returns the bytes in memory,
little-endian, and changes none (R5, R223). -/
def Sys2Proof.Spec.LoadReadsMemory : Prop :=
  ∀ (s : State) g spec q, Plain s g spec q → HasRoom s → s.errors = [] →
    Uncached s ((s.transReq g spec.acc q).paOf / 256) →
    let pa := (s.transReq g spec.acc q).paOf
    let res := s.readReq g spec q
    res.1 = mle s.mem pa spec.size ∧ res.2.1 = false ∧ ∀ a, mread res.2.2.mem a = mread s.mem a

/-- A store is seen by its own core at once, whatever the caches hold of its line (a page of host bias is held by none); it
changes no byte of another line, and of its own line, where no cache holds it, no byte but those it stores. Said of a state in
which the access moves no other line and no soft error is outstanding (R219, R223, R227, R241, R332). -/
def Sys2Proof.Spec.StoreWritesItsBytes : Prop :=
  ∀ (s : State) g spec q v, NoEmptyCopy s → Plain s g spec q → s.errors = [] →
    Calm s ((s.transReq g spec.acc q).paOf / 256) →
    let pa := (s.transReq g spec.acc q).paOf
    let t := s.writeReq g spec q v
    ((pteHost (s.transReq g spec.acc q).entryOf → Uncached s (pa / 256)) →
      ∀ k < spec.size, t.peekByte s.cur (pa + k) = BitVec.ofNat 8 (v / 256 ^ k)) ∧
    (∀ a, a / 256 ≠ pa / 256 →
      mread t.mem a = mread s.mem a ∧ ∀ core, t.peekByte core a = s.peekByte core a) ∧
    (Uncached s (pa / 256) → ∀ a, ¬(pa ≤ a ∧ a < pa + spec.size) →
      mread t.mem a = mread s.mem a ∧ ∀ core, t.peekByte core a = s.peekByte core a)

/-- An atomic on a line that no cache holds reads the value in memory, and its core sees the new value at once, where
there is one (R306); every other byte is as it was (R307). -/
def Sys2Proof.Spec.AtomicUpdatesItsBytes : Prop :=
  ∀ (s : State) g spec q (f : Nat → Option Nat), NoEmptyCopy s → Plain s g spec q → s.errors = [] →
    Calm s ((s.transReq g spec.acc q).paOf / 256) → Uncached s ((s.transReq g spec.acc q).paOf / 256) →
    let pa := (s.transReq g spec.acc q).paOf
    let res := s.rmwReq g spec q f
    let old := mle s.mem pa spec.size
    res.1 = old ∧
    (∀ k < spec.size, res.2.2.peekByte s.cur (pa + k) = BitVec.ofNat 8 ((f old).getD old / 256 ^ k)) ∧
    (∀ a, ¬(pa ≤ a ∧ a < pa + spec.size) →
      mread res.2.2.mem a = mread s.mem a ∧ ∀ core, res.2.2.peekByte core a = s.peekByte core a)

/-- Loads, stores and atomics read and write the bytes of their address, little-endian, and no other byte (R5, R219, R223,
R227, R307, R332). -/
def Obligations.MemoryBytes : Prop := Sys2Proof.Spec.LoadReadsMemory ∧ Sys2Proof.Spec.StoreWritesItsBytes ∧ Sys2Proof.Spec.AtomicUpdatesItsBytes

/-! ## The scratchpad and the barrier objects -/

namespace Sys2Proof.Spec

/-- Where scratchpad address a of a group lies: in the column pool of its home cluster (R246, R248). -/
def poolOf (g : Group) (a : Word) : Nat := poolBase (clusterOf g.core) + a.toNat

/-- n bytes at a lie in the group's window, below 2^24, and the member stands in its home cluster (R248, R252). -/
def inWindow (g : Group) (fb : Fibre) (a : Word) (n : Nat) : Prop :=
  g.spb ≤ a.toNat ∧ a.toNat + n ≤ g.spl ∧ a.toNat < 2 ^ 24 ∧ fb.outside g = false

/-- n bytes at a touch no byte of the group's barrier area (R13, R252). -/
def offBarriers (g : Group) (a n : Nat) : Prop :=
  a + n ≤ g.spb + g.kern.spbytes ∨ g.spb + g.kern.spbytes + 32 * g.kern.barriers ≤ a

/-- a is the start of one of the group's barrier objects (R13, R252). -/
def atBarrier (g : Group) (a : Word) : Prop :=
  ∃ k < g.kern.barriers, a.toNat = g.spb + g.kern.spbytes + 32 * k

/-- The words of the scratchpad change no group and, if they say so, no memory; the run moves past them. -/
def AroundPad (s t : State) (r : Run) (c : Bool) : Prop := t.groups = s.groups ∧ PastWord s t r c

/-- No page that is being moved reaches past memory into the columns, and every group stands on a core of the package
(R1, R333). -/
def OffColumns (s : State) : Prop :=
  (∀ m ∈ s.remaps, pteAddr m.old + 65536 * m.pages ≤ 2 ^ 50) ∧ ∀ h ∈ s.groups, h.core < 1024

/-- No byte of column can be read wrongly, or every byte of the member's object (R249, R265). -/
def brokenAt (s : State) (g : Group) (a : Word) : Prop := s.uncorrectable (s.padProt (poolOf g a)) (poolOf g a) 32 = true

/-- The members' bytes written in turn (R253). -/
def padBytes (f : F3) (e : Env) (g : Group) (m : Memory) (l : List Fibre) : Memory :=
  l.foldl (fun m fb =>
    mwle m (poolOf g (e.op32 fb f.a)) (stored e fb f.d (storeSize f.x.toNat).2) (storeSize f.x.toNat).1) m

/-- Whether the 128-byte line of a pool address is full (R253). -/
def lineFull (s : State) (line : Nat) : Bool := s.full.any (·.1 == line)

/-- No fibre of the group waits at the object at a, in progress or interrupted (R261). -/
def noWaits (g : Group) (a : Word) : Prop :=
  ∀ fb ∈ g.fibres, ∀ w, fb.wait = some w ∨ fb.saved = some w → w.onBarrier a.toNat = false

/-- One member's arrival by BARV (R262, R264): the object and the member's D after it. -/
def arrival (f : F3) (e : Env) (g : Group) (s : State) (fb : Fibre) : State :=
  let pa := poolOf g (e.op32 fb f.a)
  let b := (e.op32 fb f.b).toNat
  let old := readBar s.mem pa
  let answer (s : State) (v : Nat) : State := s.modFibre g.gid fb.fid fun x => x.put e .M f.d 1 v
  match old.arrive fb.fid (b / 2 ^ 16) (b % 2 ^ 16) with
  | .ok (new, _) => answer (s.putBar pa new) old.phase
  | .error reason => answer s (2 ^ 31 + reason)

end Sys2Proof.Spec

/-- STS and FEMK complete where every member's range suits the window, its alignment and the barrier area: STS writes each
member's bytes in turn and fills the lines it says, FEMK sets or clears the full bit of every line of each range, and no
byte of memory, no fibre and no group changes besides (R252, R253, R256). -/
def Obligations.ScratchpadStores : Prop :=
  ∀ (f : F3) s r g, OffColumns s →
    (Ready s (.sts f) r g →
      (∀ fb ∈ s.members r,
        let a := (s.env r).op32 fb f.a
        let n := (storeSize f.x.toNat).1
        inWindow g fb a n ∧ a.toNat % n = 0 ∧ offBarriers g a.toNat n ∧ ((s.env r).op32 fb f.b).toNat < 2) →
      ∃ t, exec (.sts f) s = .next t ∧ AroundPad s t r f.c ∧
        t.mem = padBytes f (s.env r) g s.mem (s.members r) ∧
        ∀ line, lineFull t line =
          (lineFull s line || (s.members r).any fun fb =>
            ((s.env r).op32 fb f.b == 1) && poolOf g ((s.env r).op32 fb f.a) / 128 == line)) ∧
    (Ready s (.femk f) r g →
      (∀ fb ∈ s.members r,
        let a := (s.env r).op32 fb f.a
        let n := ((s.env r).op32 fb f.b).toNat
        inWindow g fb a (max n 1) ∧ a.toNat % 128 = 0 ∧ n % 128 = 0 ∧ (n = 0 ∨ offBarriers g a.toNat n)) →
      ∃ t, exec (.femk f) s = .next t ∧ AroundPad s t r f.c ∧ t.mem = s.mem ∧
        ∀ line, lineFull t line =
          if ∃ fb ∈ s.members r,
              poolOf g ((s.env r).op32 fb f.a) / 128 ≤ line ∧
                line < poolOf g ((s.env r).op32 fb f.a) / 128 + ((s.env r).op32 fb f.b).toNat / 128
          then f.x = 1 else lineFull s line)

/-- BINIT completes where the lowest member's address starts a barrier object of the group and its reload count is 16
bits: the object's 32 bytes are those of R261 after the completion test, and no other byte changes. BARV completes where
every member's address starts one: each member arrives in turn where no column word is bad, and no object changes that cannot
be read (R252, R261, R262, R264, R265).
That a broken object stays as it is, is the model's choice (log entry 126). -/
def Sys2Proof.Spec.BarrierWords : Prop :=
  ∀ (f : F3) s r g, OffColumns s →
    (Ready s (.binit f) r g →
      (let fb := s.lead r
       let a := (s.env r).op32 fb f.a
       inWindow g fb a 32 ∧ atBarrier g a ∧ ((s.env r).op32 fb f.b).toNat < 2 ^ 16) →
      ∃ t, exec (.binit f) s = .next t ∧ (t.core s.cur).run = some (pastRun r f.c) ∧
        (noWaits g ((s.env r).op32 (s.lead r) f.a) → AroundPad s t r f.c) ∧
        (let fb := s.lead r
         let e := s.env r
         let n := (e.op32 fb f.b).toNat
         let bytes := (e.regAt fb f.d 0).toNat
         t.mem = mwle s.mem (poolOf g (e.op32 fb f.a))
          ({ phase := 0, arrived := 0, landed := 0, rcount := n, rbytes := bytes, flags := 1, ebytes := bytes
             count := if n = 0xFFFF then 0 else n
             setter := if n = 0 ∨ n = 0xFFFF then 0 else 0xC000 } : Bar).settle.bytes 32)) ∧
    (Ready s (.barv f) r g →
      (∀ fb ∈ s.members r, inWindow g fb ((s.env r).op32 fb f.a) 32 ∧ atBarrier g ((s.env r).op32 fb f.a)) →
      (s.errors = [] → ∃ t, exec (.barv f) s = .next t ∧
        t = ((s.members r).foldl (arrival f (s.env r) g) s).retire f.c ∧ PastWord s t r f.c) ∧
      ((∀ fb ∈ s.members r, brokenAt s g ((s.env r).op32 fb f.a)) → ∃ t, exec (.barv f) s = .next t ∧ t.mem = s.mem))

/-- An arrival is refused by the first of R262's reasons that applies, and else counted toward the phase that stood, the
completion test of R260 following. -/
def Sys2Proof.Spec.BarrierArrival : Prop :=
  ∀ (b : Bar) (fid addb n : Nat),
    b.arrive fid addb n =
      if b.flags % 2 = 0 then .error 3
      else if b.rcount = 0xFFFF then .error 2
      else if n = 65535 ∨ (n ≠ 0 ∧ b.count ≠ 0 ∧ n ≠ b.count) then .error 1
      else if b.ebytes + addb > 2 ^ 32 - 1 then .error 4
      else if b.count = 0 ∧ n = 0 then .error 5
      else
        .ok (Bar.settle
          { b with
            count := if b.count = 0 then n else b.count
            setter := if b.count = 0 then 0x8000 + fid else b.setter
            arrived := b.arrived + 1
            ebytes := b.ebytes + addb }, b.phase)

/-- A phase that is complete ends: the phase number goes up, the bytes that landed too many carry over, and the counts of
the new phase are the reload values; an object that is not complete stays as it is. An object that admits arrivals
completes one phase, since its new count is above the arrivals (R260). -/
def Sys2Proof.Spec.BarrierCompletion : Prop :=
  ∀ b : Bar,
    ((¬((b.rcount = 0xFFFF ∨ (b.count ≠ 0 ∧ b.arrived = b.count)) ∧ b.ebytes ≤ b.landed)) → b.settle = b) ∧
    (b.rcount ≠ 0xFFFF → b.count ≠ 0 → b.arrived = b.count → b.ebytes ≤ b.landed →
      b.settle =
        { b with
          phase := (b.phase + 1) % 2 ^ 31
          landed := b.landed - b.ebytes
          ebytes := b.rbytes
          arrived := 0
          count := b.rcount
          setter := if b.rcount = 0 ∨ 65534 < b.rcount then 0 else 0xC000 })

/-- BINIT and BARV complete with the effect of their rules; an arrival is refused by the first reason that applies, else
counted; a phase that is complete ends with the carry and the reload values of R260 (R260 to R262, R264).
That an object with an uncorrectable error stays as it is, is the model's choice (log entry 126). -/
def Obligations.BarrierWordsAndObjects : Prop := Sys2Proof.Spec.BarrierWords ∧ Sys2Proof.Spec.BarrierArrival ∧ Sys2Proof.Spec.BarrierCompletion

/-! ## Waiting words -/

namespace Sys2Proof.Spec

/-- The wait that a member starts (R98): the word and its packet, the deadline that E names as it stands at issue, dl0 as
a wall deadline of now, and the operands. -/
def captured (i : Instr) (x : BitVec 3) (r : Run) (e : Env) (fb : Fibre) (a b d : DWord) : Wait :=
  { word := (encode i).getD 0
    pkt := r.pkt
    deadline := if x = 0 then BitVec.ofNat 64 (e.tick.toNat % 2 ^ 63) else sget 0 fb.snap.dl x.toNat
    issued := e.now
    a := a
    b := b
    d := d
    mp := e.mp
    bundle := e.mask }

/-- Waiting word i, once ready and where pre holds, starts its wait as eff says and is moved past. -/
def Starts (i : Instr) (c : Bool) (pre : State → Run → Group → Prop) (eff : State → Run → Group → State) : Prop :=
  ∀ s r g, Ready s i r g → pre s r g → exec i s = .next ((eff s r g).retire c)

/-- A 32-bit operand, zero-extended. -/
def op (e : Env) (fb : Fibre) (code : BitVec 7) : DWord := BitVec.ofNat 64 (e.op32 fb code).toNat

/-- Every member waits on its own, ascending, with the operands that args gives (R97). -/
def eachWaits (i : Instr) (x : BitVec 3) (k : WaitKind) (args : Env → Fibre → DWord × DWord × DWord)
    (s : State) (r : Run) (_ : Group) : State :=
  s.startEach r k (fun e fb => let v := args e fb; captured i x r e fb v.1 v.2.1 v.2.2) noPlace

/-- Every member waits on its own, tested with the other waits of the tick (R257). -/
def eachPlaced (i : Instr) (f : F3) (s : State) (r : Run) (_ : Group) : State :=
  s.modFibres r.grp r.fids fun fb =>
    { fb with wait := some (captured i f.x r (s.env r) fb (op (s.env r) fb f.a) (op (s.env r) fb f.b) 0) }

/-- The cross-lane words (R136). -/
def crossLane (f : F3) : List Instr :=
  [.xshf f, .xpsh f, .xrdi f, .xrdf f, .xrmn f, .xrmx f, .xscn f, .xvot f, .xffs f]

/-- A group that is placed and that no freeze holds. -/
def Runs (s : State) (g : Group) : Prop :=
  g.st = .placed ∧ g.exit = none ∧ g.frozen = false ∧ s.stopped g.part = false

/-- The member, on its issue tick, of a bundle of its own. -/
def Alone (s : State) (r : Run) (g : Group) (fb : Fibre) : Prop :=
  r.fids = [fb.fid] ∧ s.fibre? r.grp fb.fid = some fb ∧ fb.st = .issuing ∧ s.group? r.grp = some g

/-- A member after a wait that has ended with OK (R94, R100, R105): but for FENCE, of class 5, a note for its fences that
other fibres' writes may come before them (R313). -/
def okEnd (cls : Nat) (fb : Fibre) : Fibre :=
  { fb with
    wait := none
    synced := fb.synced || cls ≠ 5
    ctx := { fb.ctx with escnt := 0, wstat := BitVec.ofNat 32 (16 * cls), preds := fb.ctx.preds ||| 2 } }

/-- A member after a wait that has ended on its first tick with another code, below the escalation threshold (R105). -/
def otherEnd (cls code detail : Nat) (pkt : DWord) (fb : Fibre) : Fibre :=
  let n := if fb.ctx.escpc = pkt then fb.ctx.escnt.toNat + 1 else 1
  { fb with
    wait := none
    ctx := { fb.ctx with
      escnt := BitVec.ofNat 16 n
      escpc := pkt
      wstat := BitVec.ofNat 32 (code + 16 * cls + 256 * detail)
      preds := fb.ctx.preds &&& ~~~2#96 } }

/-- The deadline that E names, passed at issue for a member (R87, R89): dl0 always, else its target at or below the
clock of its mode. -/
def deadlinePassed (x : BitVec 3) (s : State) (fb : Fibre) : Bool :=
  x = 0 ||
    (let d := (sget 0 fb.snap.dl x.toNat).toNat
     d % 2 ^ 63 ≤ (if d / 2 ^ 63 = 1 then fb.rtk else s.tickAt s.cur).toNat)

/-- The value of an LDS or LDSC by its control word, and its registers (R254, R255). -/
def padValue (s : State) (g : Group) (a b : Word) : Nat × Nat :=
  let z := loadSize (b.toNat % 8)
  (z.2.1, widened z.1 z.2.2 (mle s.mem (poolOf g a) z.1))

end Sys2Proof.Spec

/-- SLEEP, FORK, FJOIN, QEMIT, QRECV, FENCE, BWAIT, BAW, LDS, LDSC, CSLD, MIGR, LDWT, the nine cross-lane words, VFPSH,
VFPOP and PGATE complete, where their checks at issue pass: every member, or the bundle once, waits with the deadline and
the operands of its issue tick, and the word's condition is tested on that tick (R97, R98 and the word's own rule); of LDS and
LDSC with the other waits of the tick, in the columns' order (R257).
That CSLD's image is read at issue (log entry 31), what MIGR checks of its address and of its home form (log entry 37), that
QEMIT captures sixteen registers and waits while its descriptor does not translate (log entry 38), which writes of others a
FENCE performs as it issues (log entry 123) and which registers a word is checked for (log entry 124) are the model's choices. -/
def Obligations.WaitingWordsStart : Prop :=
  ∀ f : F3,
    Starts (.sleep f) f.c (fun _ _ _ => True) (eachWaits (.sleep f) f.x sleepKind fun _ _ => (0, 0, 0)) ∧
    Starts (.fork f) f.c (fun _ _ _ => True) (fun s r g =>
      eachWaits (.fork f) f.x forkKind (fun e fb => (e.op64 fb f.a, op e fb f.b, 0))
        (s.modFibres r.grp r.fids (·.landAll)) r g) ∧
    Starts (.fjoin f) f.c (fun _ _ _ => True)
      (eachWaits (.fjoin f) f.x fjoinKind fun e fb => (op e fb f.a, 0, 0)) ∧
    Starts (.bwait f) f.c (fun s r _ => barCheck f s r = .ok)
      (eachWaits (.bwait f) f.x bwaitKind fun e fb => (op e fb f.a, op e fb f.b, 0)) ∧
    Starts (.baw f) f.c (fun s r _ => barCheck f s r = .ok) (fun s r _ =>
      s.startEach r bawKind (fun e fb => captured (.baw f) f.x r e fb (op e fb f.a) (op e fb f.b) 0) bawPlace) ∧
    Starts (.lds f) f.c (fun s r _ => ldsCheck f false s r = .ok) (eachPlaced (.lds f) f) ∧
    Starts (.ldsc f) f.c (fun s r _ => ldsCheck f true s r = .ok) (eachPlaced (.ldsc f) f) ∧
    Starts (.fence f) f.c (fun _ _ _ => True) (fun s r _ =>
      let s := s.fenceOthers r (BitVec.ofInt 64 (inlineValue f.a)).toNat
      ({ s with serial := s.serial + 1 }).startEach r fenceWait
        (fun e fb =>
          { captured (.fence f) f.x r e fb (BitVec.ofInt 64 (inlineValue f.a)) 0 0 with bound := s.serial }) noPlace) ∧
    Starts (.qemit f) f.c (fun _ _ _ => True) (fun s r _ =>
      s.startEach r qemitKind (fun e fb =>
        { captured (.qemit f) f.x r e fb (e.op64 fb f.a) 0 0 with
          bound := mapReg e.mp f.b.toNat
          data := [(0, (List.range 16).map (e.regAt fb f.b))] }) noPlace) ∧
    Starts (.qrecv f) f.c (fun _ _ _ => True) (fun s r _ =>
      s.startEach r qrecvKind (fun e fb =>
        { captured (.qrecv f) f.x r e fb (e.op64 fb f.a) 0 0 with bound := mapReg e.mp f.d.toNat }) noPlace) ∧
    (∀ i ∈ crossLane f, Starts i f.c (fun _ _ _ => True) fun s r _ =>
      s.startEach r xKind (fun e fb =>
        captured i f.x r e fb (op e fb f.a) (op e fb f.b)
          (if f.d.toNat < 64 then BitVec.ofNat 64 (e.regAt fb f.d 0).toNat else 0)) xPlace) ∧
    Starts (.csld f) f.c (fun s r _ => csldCheck f s r = .ok) (fun s r g =>
      s.startEach r csldKind (fun e fb =>
        let w := captured (.csld f) f.x r e fb (e.op64 fb f.a) (e.op64 fb f.b) 0
        match s.csldImage g (e.op64 fb f.a) with
        | .ok m => { w with bound := s.csldDetail g (e.op64 fb f.b) m, data := m.slots, image := m.bytes, d := m.present }
        | .error (.detail n) => { w with bound := n }
        | .error (.trans _ _) => { w with bound := 1 }) noPlace) ∧
    Starts (.migr f) f.c
      (fun s r _ => s.check r { size := 1, acc := .any } ((s.members r).flatMap fun fb =>
        if (s.env r).op32 fb f.b = 0 then [{ fid := fb.fid, va := (s.env r).op64 fb f.a }] else []) = .ok)
      (fun s r g => s.startEach r migrKind (fun e fb =>
        { captured (.migr f) f.x r e fb (e.op64 fb f.a) (op e fb f.b) 0 with
          bound := if e.op32 fb f.b = 0 then
              1 + homeStack (s.transReq g .any { fid := fb.fid, va := e.op64 fb f.a }).paOf
            else 0 }) noPlace) ∧
    Starts (.ldwt f) f.c
      (fun s r _ => s.check r { size := 4, acc := .read, watchRead := true, locate := true }
        ((s.members r).flatMap (addrA f false (s.env r))) = .ok)
      (fun s r g =>
        let s := ((s.members r).flatMap (addrA f false (s.env r))).foldl (fun s q =>
          let t := s.transReq g .read q
          (s.fillTlb s.cur g.vf (pageOf q.va.toNat)).resolveLine g.part s.cur (t.paOf / 256) (pteHost t.entryOf)) s
        s.startEach r ldwtKind (fun e fb => captured (.ldwt f) f.x r e fb (e.op64 fb f.a) (op e fb f.b) 0) noPlace) ∧
    Starts (.vfpsh f) f.c (fun _ _ _ => True) (fun s r _ =>
      (s.pin r.grp).startShared r vfpshKind fun e fb =>
        { captured (.vfpsh f) f.x r e fb 0 (op e fb f.b) 0 with
          data := (s.members r).map fun m => (m.fid % 32, [(s.env r).op32 m f.a]) }) ∧
    Starts (.vfpop f) f.c (fun _ _ _ => True) (fun s r _ =>
      (s.pin r.grp).startShared r vfpopKind fun e fb => captured (.vfpop f) f.x r e fb 0 (op e fb f.b) 0) ∧
    Starts (.pgate f) f.c (fun _ _ _ => True) (fun s r g =>
      let e := s.env r
      let fb := s.lead r
      let a := e.op32 fb f.a
      let b := e.op32 fb f.b
      let w := captured (.pgate f) f.x r e fb (op e fb f.a) (op e fb f.b) 0
      let legal := a.toNat < 1024 ∧ b.toNat < 4 ∧ a.toNat ∈ s.coresOf g.part
      let q := if legal then s.requestGate a.toNat (b.getLsbD 0) (b.getLsbD 1) else (s, 0)
      q.1.startShared r pgateKind fun _ _ => { w with bound := q.2 + 1 })

/-- Finish (R105): OK clears ESCNT and sets p1; another code counts, from 1 at a new packet, and is reported with p1 clear,
or escalates at the region's threshold with ESCNT cleared and its code as the detail. -/
def Obligations.FinishWritesStatus : Prop :=
  ∀ (fb : Fibre) (threshold : Nat) (k : WaitKind) (w : Wait) (code : Code) (detail : Nat), k.cls < 16 →
    k.fence = decide (k.cls = 5) →
    let x := fb.finish threshold k w code detail (0, 0)
    let n := if fb.ctx.escpc = w.pkt then fb.ctx.escnt.toNat + 1 else 1
    x.wait = none ∧ x.ctx.regs = fb.ctx.regs ∧ x.ctx.lat = fb.ctx.lat ∧
    (∀ p, p ≠ 1 → x.ctx.preds.getLsbD p = fb.ctx.preds.getLsbD p) ∧
    (if code = .ok then
      x = { okEnd k.cls fb with ctx := { (okEnd k.cls fb).ctx with wstat := BitVec.ofNat 32 (16 * k.cls + 256 * detail) } }
    else if n < threshold then x = otherEnd k.cls code.num detail w.pkt fb
    else
      x.ctx.escnt = 0 ∧ x.ctx.escpc = w.pkt ∧ x.ctx.preds.getLsbD 1 = false ∧ x.after.escw = some code.num ∧
        x.ctx.wstat = BitVec.ofNat 32 (15 + 16 * k.cls + 256 * code.num))

/-- SLEEP whose deadline has passed returns OK on its issue tick; with a deadline ahead the fibre waits (R109). FJOIN of
a fibre that has ended once since its handle returns OK with the exit value in D (R130). -/
def Sys2Proof.Spec.SleepAndJoin : Prop :=
  ∀ (f : F3) s r g fb, Alone s r g fb →
    (Ready s (.sleep f) r g → fb.onCore g = s.cur → ∃ t, exec (.sleep f) s = .next t ∧
      t.fibre? r.grp fb.fid = some
        (if deadlinePassed f.x s fb then okEnd 1 fb
        else { fb with wait := some (captured (.sleep f) f.x r (s.env r) fb 0 0 0) })) ∧
    (Ready s (.fjoin f) r g →
      let h := ((s.env r).op32 fb f.a).toNat
      let slot := g.fibre (h % 1024)
      h / 1024 % 64 = 0 → h % 1024 < 32 * g.kern.teams →
      slot.gen.toNat = (h / 2 ^ 16 + 1) % 2 ^ 16 →
      ∃ t, exec (.fjoin f) s = .next t ∧
        t.fibre? r.grp fb.fid = some (okEnd 6 (fb.put (s.env r) .X f.d 1 slot.exitv.toNat)))

/-- FORK with a free slot in the team completes on its issue tick: the lowest free slot holds a new ready fibre with g0 as
B, g1 as the forker's handle, the forker's FPCTL and nothing else, and D receives the new fibre's handle (R128, R88). -/
def Sys2Proof.Spec.ForkStartsFibre : Prop :=
  ∀ (f : F3) s r g fb n, Alone s r g fb → Ready s (.fork f) r g → g.freeSlot (fb.fid / 32) = some n →
    let handle (gen fid : Nat) : Nat := gen * 2 ^ 16 + fid
    let parent := fb.landAll
    let slot := g.fibre n
    ∃ t, exec (.fork f) s = .next t ∧
      t.fibre? r.grp fb.fid = some (okEnd 6 (parent.put (s.env r) .X f.d 1 (handle slot.gen.toNat (n % 2 ^ 16)))) ∧
      ∃ new, t.fibre? r.grp n = some new ∧ new.st = .ready ∧ new.pc = (s.env r).op64 fb f.a ∧
        new.ctx.fpctl = parent.ctx.fpctl ∧ new.gen = slot.gen ∧ new.rdy = s.tick ∧ new.rtk = 0 ∧
        new.ctx.preds = 0 ∧ new.ctx.dl = [] ∧ new.ctx.wstat = 0 ∧ new.ctx.escnt = 0 ∧
        (∀ k, sget 0 new.ctx.regs k =
          if k = 0 then (s.env r).op32 fb f.b
          else if k = 1 then BitVec.ofNat 32 (handle fb.gen.toNat (fb.fid % 2 ^ 16)) else 0)

/-- SLEEP, FJOIN and FORK end on their issue tick where their condition is met then (R88, R109, R128, R130).
The order of FJOIN's tests is the model's reading (log entry 36). -/
def Obligations.SleepJoinAndFork : Prop := Sys2Proof.Spec.SleepAndJoin ∧ Sys2Proof.Spec.ForkStartsFibre

/-- LDS and LDSC of a full line, and LDS with the plain bit, complete on their issue tick: their wait, tested in its place on
that tick, ends with the bytes at A in D, and LDSC leaves the line empty; BWAIT for a phase that has completed returns OK with
the phase in D (R254, R255, R257, R265). -/
def Sys2Proof.Spec.ScratchpadWaitsEnd : Prop :=
  ∀ (f : F3) s r g fb, Alone s r g fb → s.errors = [] →
    let a := (s.env r).op32 fb f.a
    let b := (s.env r).op32 fb f.b
    let v := padValue s g a b
    (Ready s (.lds f) r g → Runs s g → fb.held = none → ldsCheck f false s r = .ok →
      (b.getLsbD 3 ∨ lineFull s (poolOf g a / 128)) →
      ∃ t u, exec (.lds f) s = .next t ∧ exec (.waitConditionMet r.grp fb.fid) t = .next u ∧
        u.full = s.full ∧ (sget 0 s.fired (firedLine (poolOf g a)) ≤ 2 → u.mem = s.mem) ∧
        u.fibre? r.grp fb.fid = some (okEnd 3 (fb.put (s.env r) .M f.d v.1 v.2))) ∧
    (Ready s (.ldsc f) r g → Runs s g → fb.held = none → ldsCheck f true s r = .ok → lineFull s (poolOf g a / 128) →
      ∃ t u, exec (.ldsc f) s = .next t ∧ exec (.waitConditionMet r.grp fb.fid) t = .next u ∧
        (sget 0 s.fired (firedLine (poolOf g a)) ≤ 2 → u.mem = s.mem) ∧
        (∀ line, lineFull u line = (lineFull s line && line ≠ poolOf g a / 128)) ∧
        u.fibre? r.grp fb.fid = some (okEnd 3 (fb.put (s.env r) .M f.d v.1 v.2))) ∧
    (Ready s (.bwait f) r g → barCheck f s r = .ok →
      let o := readBar s.mem (poolOf g a)
      o.flags % 2 = 1 → ((o.phase : Int) - b.toNat - 1) % 2 ^ 31 < 2 ^ 30 →
      ∃ t, exec (.bwait f) s = .next t ∧ (sget 0 s.fired (firedBar (poolOf g a)) ≤ 2 → t.mem = s.mem) ∧
        t.fibre? r.grp fb.fid = some (okEnd 2 (fb.put (s.env r) .M f.d 1 o.phase)))

/-! ## The matrix array's words -/

namespace Sys2Proof.Spec

/-- t is s after a word that has changed its own group by G, its fibres left alone, each member by u, and nothing
else. -/
def GroupAndMembers (s t : State) (r : Run) (g : Group) (c : Bool) (G : Group → Group) (u : Fibre → Fibre) : Prop :=
  (t.group? r.grp).map (fun x => { x with fibres := [] }) = some { G g with fibres := [] } ∧
  (∀ f, t.fibre? r.grp f = if f ∈ r.fids then (s.fibre? r.grp f).map u else s.fibre? r.grp f) ∧
  (∀ h, h ≠ r.grp → t.group? h = s.group? h) ∧ SameElsewhere s t ∧ PastWord s t r c

/-- The operands of the lowest member (R197). -/
def leadOp (s : State) (r : Run) (code : BitVec 7) : Word := (s.env r).op32 (s.lead r) code
def leadPair (s : State) (r : Run) (code : BitVec 7) : DWord := (s.env r).op64 (s.lead r) code

/-- No two reservations that are in use overlap (R199). -/
def Disjoint (g : Group) : Prop :=
  ∀ i j, i ≠ j → (g.entry i).valid → (g.entry j).valid →
    (g.entry i).base + (g.entry i).bytes ≤ (g.entry j).base ∨ (g.entry j).base + (g.entry j).bytes ≤ (g.entry i).base

/-- Whether ACCRD of a fibre reads an uncorrectable column of its row (R195, R205): one column with V 0, and of a
wide tile with V 3; else a pair. -/
def readsFlawed (f : F3) (e : Env) (g : Group) (fb : Fibre) : Bool :=
  let tile := (e.op32 fb f.a).toNat
  let n := (e.op32 fb f.b).toNat % 32
  let cols := if f.x = 0 ∨ (f.x = 3 ∧ tile < g.kern.acc32) then [n] else [n - n % 2, n - n % 2 + 1]
  tile < g.kern.acc32 + g.kern.acc16 && cols.any fun c => g.accBad.contains (1024 * tile + 32 * (fb.fid % 32) + c)

/-- One member's ACCWR (R205): its row of the tile, or NV where there is no such tile. -/
def writesRow (f : F3) (e : Env) (grp : Nat) (s : State) (fb : Fibre) : State :=
  match s.group? grp with
  | none => s
  | some g =>
    let v := accWrite g f.x (e.op32 fb f.a).toNat (fb.fid % 32) ((e.op32 fb f.b).toNat % 32) (e.regAt fb f.d 0).toNat
    (s.modGroup grp fun _ => v.1).modFibre grp fb.fid fun x => merged x v.2

/-- One member's MTQ (R215): V 0 reads the saved step of a tile to D, V 1 sets it, at once or, while a sequencer holds the
tile, when that lets go; a tile past the last reads as 0 and raises NV. -/
def savedStep (f : F3) (e : Env) (grp : Nat) (s : State) (fb : Fibre) : State :=
  match s.group? grp with
  | none => s
  | some g =>
    let tile := (e.op32 fb f.a).toNat
    let past := g.kern.acc32 + g.kern.acc16 ≤ tile
    let flagged (s : State) : State := if past then s.modFibre grp fb.fid fun x => merged x 1 else s
    if f.x = 0 then
      flagged (s.modFibre grp fb.fid fun x => x.put e .X f.d 1 (if past then 0 else (sget 0 g.saveq tile) % 2 ^ 32))
    else if past then flagged s
    else
      let v := (e.op32 fb f.b).toNat % 512
      s.modGroup grp fun g =>
        if g.seqs.any fun q => q.tile = tile then { g with setq := sset 0 g.setq tile (v + 1) }
        else { g with saveq := sset 0 g.saveq tile v }

/-- The new contents of column n of a row after one dense K-step of 32 products (R208, R209). -/
def stepColumn (g : Group) (t : BTile) (r : Reservation) (ctl : Word) (m n : Nat) : Word :=
  let tile := ctl.toNat % 16
  let fmt := accFmt (ctl.toNat / 16 % 4)
  let step := ctl.toNat / 256 % 256
  let row := ctl.toNat / 65536 % 256 + m
  let old := if ctl.getLsbD 31 then FVal.fin false 0 0 else fmt.decode (g.accAt tile m n).toNat
  BitVec.ofNat 32 (accumulate fmt (old :: (List.range 32).map fun k =>
    (mmaTerm (g.rowElem r row (32 * step + k) (32 * step + k)) (t.elem n k)).1)).1

end Sys2Proof.Spec

/-- OBRES completes once for the bundle and gives every member the handle or the reason; OBREL completes for each member
in turn; BBLD completes where its image translates and queues a load behind the slot's others, or nothing for a slot the
group does not have (R197, R199, R201 to R203). -/
def Sys2Proof.Spec.OperandBufferWords : Prop :=
  ∀ (f : F3) s r g,
    (Ready s (.obres f) r g →
      let v := g.reserve ((s.lead r).formats g) (leadOp s r f.a) (leadOp s r f.b)
      ∃ t, exec (.obres f) s = .next t ∧
        GroupAndMembers s t r g f.c (fun _ => v.2) fun fb =>
          let w := fb.put (s.env r) .X f.d 1 v.1.toNat
          { w with ctx := { w.ctx with lat := { w.ctx.lat with la0 := v.1.setWidth 64, la1 := fb.ctx.lat.la0 } } }) ∧
    (Ready s (.obrel f) r g → ∃ t, exec (.obrel f) s = .next t ∧
      t = ((s.members r).foldl (fun t fb => t.modGroup r.grp (·.releaseRes ((s.env r).op32 fb f.a))) s).retire f.c) ∧
    (Ready s (.bbld f) r g → bbldCheck f s r = .ok →
      let a := bbldArgs s r g f
      let bad := (s.quiesce g.part).bbldDetail g a.2.2.1 a.2.2.2 a.2.1
      ∃ t, exec (.bbld f) s = .next t ∧
        GroupAndMembers s t r g f.c
          (fun g =>
            if g.units ≤ a.1 then g
            else
              { g with
                btiles := g.btiles ++
                  [{ slot := a.1, seq := g.slotSeq a.1 + 1, ready := bad.isSome, fault := bad
                     addr := BitVec.ofNat 64 a.2.1, fmt := a.2.2.1, desc := a.2.2.2 }] }) id)

/-- No OBRES and no OBREL makes two reservations in use overlap (R199, R201). -/
def Sys2Proof.Spec.ReservationsStayDisjoint : Prop :=
  ∀ g : Group, Disjoint g →
    (∀ tab geo fmt, Disjoint (g.reserve tab geo fmt).2) ∧ (∀ h, Disjoint (g.releaseRes h))

/-- OBRES, OBREL and BBLD complete as their rules say, and reservations in use never overlap (R197, R199, R201 to R203).
That OBRES enters lx0 as well as la0, and that la1 takes the old la0, is the model's choice (log entry 128). -/
def Obligations.OperandBufferRules : Prop := Sys2Proof.Spec.OperandBufferWords ∧ Sys2Proof.Spec.ReservationsStayDisjoint

/-- ACCZ clears the rows of its members' tiles and no other column, or raises NV; ACCRD reads a column of its row to D, a
deferrable result, 0 from an uncorrectable column, which is reported (R195); ACCWR, COMPR and MTQ complete for every operand,
each member in turn (R204 to R206, R215).
That one column of an accumulator row is the protected word, and what a read of a flawed one leaves, is the model's choice (log
entries 45 and 129). -/
def Obligations.AccumulatorWords : Prop :=
  ∀ (f : F3) s r g,
    let e := s.env r
    (Ready s (.accz f) r g → ∃ t h, exec (.accz f) s = .next t ∧ t.group? r.grp = some h ∧
      SameElsewhere s t ∧ PastWord s t r f.c ∧
      (∀ tile row col, row < 32 → col < 32 →
        h.accAt tile row col =
          if ∃ fb ∈ s.members r, fb.fid % 32 = row ∧ (e.op32 fb f.a).toNat = tile ∧ tile < g.kern.acc32 + g.kern.acc16
          then 0 else g.accAt tile row col) ∧
      (∀ k, h.fibre k =
        if k ∈ r.fids ∧ g.kern.acc32 + g.kern.acc16 ≤ (e.op32 (g.fibre k) f.a).toNat then merged (g.fibre k) 1
        else g.fibre k)) ∧
    (Ready s (.accrd f) r g → ∃ t, exec (.accrd f) s = .next t ∧
      Members (if (s.members r).any (readsFlawed f e g) then s.report g.part (.operandError g.core false) else s) t r f.c
        fun fb =>
          let v := accRead g f.x (e.op32 fb f.a).toNat (fb.fid % 32) ((e.op32 fb f.b).toNat % 32)
          if readsFlawed f e g fb then fb.putLater e .X f.d 1 0 else fb.putLater e .X f.d 1 v.1 v.2) ∧
    (Ready s (.accwr f) r g → ∃ t, exec (.accwr f) s = .next t ∧
      t = ((s.members r).foldl (writesRow f e r.grp) s).retire f.c) ∧
    (Ready s (.compr f) r g → ∃ t, exec (.compr f) s = .next t ∧
      Members s t r f.c fun fb =>
        let v := compr (fb.formats g) (f.x = 1) (e.op64 fb f.a) (e.op32 fb f.b)
        merged (fb.put e .X f.d 2 v.1) v.2) ∧
    (Ready s (.mtq f) r g → ∃ t, exec (.mtq f) s = .next t ∧
      t = ((s.members r).foldl (savedStep f e r.grp) s).retire f.c)

/-- MMA, MMAS, GATHR and MTILE complete where their checks at issue pass: each member of an MMA or MMAS, and the bundle
once for the other two, waits with its operands and bindings, an accepted GATHR queues its gather, and a sequencer takes
an MTILE's tile (R197, R208, R212, R214). -/
def Sys2Proof.Spec.MatrixWaitsStart : Prop :=
  ∀ f : F3,
    Starts (.mma f) f.c (fun _ _ _ => True)
      (fun s r _ => s.startEach r mmaKind (mmaWait s r (.mma f) f false) noPlace) ∧
    Starts (.mmas f) f.c (fun s r _ => mmasCheck f s r = .ok)
      (fun s r _ => s.startEach r mmaKind (mmaWait s r (.mmas f) f true) noPlace) ∧
    Starts (.gathr f) f.c (fun s r _ => gathrCheck f s r = .ok) (fun s r g =>
      let e := s.env r
      let lead := s.lead r
      let h := leadOp s r f.b
      let d := gathrDetail g h (e.regAt lead f.d 3)
      let t := { s with serial := s.serial + 1 }
      let t := if d = 0 then
          (t.release s.cur 1).modGroup r.grp fun g => { g with gathers := g.gathers ++ [gatherOf g e lead f s.serial] }
        else t
      t.startShared r gathrKind fun e fb =>
        { captured (.gathr f) f.x r e fb (op (s.env r) lead f.b) 0 (BitVec.ofNat 64 d) with
          bound := 1 + h.toNat % 32
          bound2 := s.serial }) ∧
    Starts (.mtile f) f.c
      (fun s r _ => (s.members r).filter (s.env r).leads = [s.lead r] ∧ s.check r { size := 64, acc := .read }
        [{ fid := (s.lead r).fid, va := leadPair s r f.a }] = .ok)
      (fun s r g =>
        let lead := s.lead r
        let q : Req := { fid := lead.fid, va := leadPair s r f.a }
        let unreadable := (s.badRead g { size := 64, acc := .read } q).isSome
        let v := s.readReq g { size := 64, acc := .read } q
        let t := TileDesc.of v.1
        let tab := lead.formats g
        let h := leadOp s r f.b
        let d := mtileDetail g tab h t
        let desc (x : Nat) : Word := if x / 16 = 0 then sget 0 tab (x % 16) else 0
        (v.2.2.startShared r mtileKind fun e fb =>
          { captured (.mtile f) f.x r e fb (op (s.env r) lead f.b) 0 (BitVec.ofNat 64 (if unreadable then 2 else d)) with
            bound := if unreadable then 0 else 1 + h.toNat % 32
            data :=
              [(0, wordsOfNat v.1 16),
               (1, [BitVec.ofNat 32 (g.slotSeq t.slot), BitVec.ofNat 32 (g.slotSeq (t.slot + 1))]),
               (2, [desc t.afmt, desc t.bfmt])] }).startSequencer r.grp t.tile)

/-- An accepted dense MMA whose B slot is ready and whose tile no sequencer holds ends with OK on its issue tick; each of
the 32 columns of its member's row becomes the accumulation of 32 products on the old value, and every other column stays
(R208, R209). -/
def Sys2Proof.Spec.MmaAccumulates : Prop :=
  ∀ (f : F3) s r g fb i, Alone s r g fb → Ready s (.mma f) r g →
    let e := s.env r
    let ctl := e.regAt fb f.d 0
    let b := e.op32 fb f.b
    let m := fb.fid % 32
    let tile := g.tileAt (b.toNat % 16) (g.slotSeq (b.toNat % 16))
    mmaDetail g false ctl (e.op32 fb f.a) b m = 0 → g.handle? (e.op32 fb f.a) = some i → tile.ready → tile.fault = none →
    g.obBad = [] → g.accBad = [] → (∀ q ∈ g.seqs, q.tile ≠ ctl.toNat % 16) →
      ∃ t h fl, exec (.mma f) s = .next t ∧ t.group? r.grp = some h ∧
        t.fibre? r.grp fb.fid = some (okEnd 11 (merged fb fl)) ∧
        ∀ tl row n, row < 32 → n < 32 →
          h.accAt tl row n =
            if tl = ctl.toNat % 16 ∧ row = m then stepColumn g tile (g.entry i) ctl m n else g.accAt tl row n

/-- MMA, MMAS, GATHR and MTILE start, and a dense MMA accumulates its 32 products per column (R197, R208, R209, R212,
R214). -/
def Obligations.MatrixWords : Prop := Sys2Proof.Spec.MatrixWaitsStart ∧ Sys2Proof.Spec.MmaAccumulates

/-! ## Copy channels and debugging -/

namespace Sys2Proof.Spec

/-- The channel that a number names (R266, R274). -/
def channel (g : Group) (n : Word) : Option Channel := if n.toNat < 8 then g.chan? n.toNat else none

/-- Whether a channel works or is stopping (R267). -/
def busy (c : Channel) : Prop := c.st = 1 ∨ c.st = 2

/-- A pointer that CHGO refuses (R269): null, with bits 5:1 set, or past 32 bits in the scratchpad. -/
def pointerBad (p : DWord) : Prop :=
  p = 0 ∨ p.toNat / 2 % 32 ≠ 0 ∨ (p.toNat % 2 = 1 ∧ 2 ^ 32 ≤ p.toNat)

/-- A channel started at a pointer for its first record (R276, R277). -/
def started (s : State) (r : Run) (p : DWord) (c : Channel) : Channel :=
  { c with cur := p, done := 0, lastf := 0, st := 1, issuer := (s.lead r).fid, issuerGen := (s.lead r).gen
           stuck := none, paused := false }

/-- The word completes with one value of n registers in every member's D (R197). -/
def Answers (i : Instr) (f : F3) (s : State) (r : Run) (n v : Nat) : Prop :=
  ∃ t, exec i s = .next t ∧ Members s t r f.c fun fb => fb.put (s.env r) .X f.d n v

end Sys2Proof.Spec

/-- CHGO, CHST, CHSTP and CPROM complete for every operand: CHGO answers 2, 1 or 3 without an effect or starts the channel
and answers 0; CHST reads state and count, pointer or fault word; CHSTP asks a working channel to stop; CPROM reads the
promise into D and the special (R274, R276, R278 to R280). -/
def Sys2Proof.Spec.ChannelWords : Prop :=
  ∀ (f : F3) s r g,
    (Ready s (.chgo f) r g →
      match channel g (leadOp s r f.b) with
      | none => Answers (.chgo f) f s r 1 2
      | some c =>
        (busy c → Answers (.chgo f) f s r 1 1) ∧
        (¬busy c → pointerBad (leadPair s r f.a) → Answers (.chgo f) f s r 1 3) ∧
        (¬busy c → ¬pointerBad (leadPair s r f.a) → ∃ t, exec (.chgo f) s = .next t ∧
          GroupAndMembers s t r g f.c
            (fun g => g.modChan c.n fun c => { started s r (leadPair s r f.a) c with job := none })
            fun fb => fb.put (s.env r) .X f.d 1 0)) ∧
    (Ready s (.chst f) r g →
      match channel g (leadOp s r f.a) with
      | none => if f.x = 0 then Answers (.chst f) f s r 1 (2 ^ 32 - 1) else Answers (.chst f) f s r 2 0
      | some c =>
        match f.x.toNat with
        | 0 => Answers (.chst f) f s r 1 ((c.done * 2 ^ 16 + c.st) % 2 ^ 32)
        | 1 => Answers (.chst f) f s r 2 c.cur.toNat
        | _ => Answers (.chst f) f s r 2 c.lastf.toNat) ∧
    (Ready s (.chstp f) r g →
      match channel g (leadOp s r f.a) with
      | none => Answers (.chstp f) f s r 1 (2 ^ 32 - 1)
      | some c => ∃ t, exec (.chstp f) s = .next t ∧
        GroupAndMembers s t r g f.c
          (fun g => g.modChan c.n fun c => if c.st = 1 then { c with st := 2 } else c)
          fun fb => fb.put (s.env r) .X f.d 1 (c.st % 2 ^ 32)) ∧
    (Ready s (.cprom f) r g →
      let p := match channel g (leadOp s r f.a) with
        | none => 0
        | some c => c.prom
      ∃ t, exec (.cprom f) s = .next t ∧
        Members s t r f.c fun fb =>
          let fb := fb.put (s.env r) .X f.d 2 p.toNat
          { fb with ctx := { fb.ctx with prom := p } })

/-- CPY completes for every operand: it answers 2 for no channel, 1 for a busy one, 4 for a record that is not owned by
the channel, has a next record or is bad, each without an effect; else the channel has accepted the record, every member
holds its promise, and D receives 0 (R277, R289). -/
def Sys2Proof.Spec.CpyAcceptsRecord : Prop :=
  ∀ (f : F3) s r g, Ready s (.cpy f) r g →
    let bytes : BitVec 512 := BitVec.ofNat 512 (stored (s.env r) (s.lead r) f.a 16)
    let rec_ := Record.of bytes
    let bad := rec_.own = false ∨ rec_.next ≠ 0 ∨ s.recordCause g rec_ ≠ none
    match channel g (leadOp s r f.b) with
    | none => Answers (.cpy f) f s r 1 2
    | some c =>
      (busy c → Answers (.cpy f) f s r 1 1) ∧ (¬busy c → bad → Answers (.cpy f) f s r 1 4) ∧
      (¬busy c → ¬bad → ∃ t, exec (.cpy f) s = .next t ∧ t.serial = s.serial + 1 ∧
        GroupAndMembers s { t with serial := s.serial } r g f.c
          (fun g => g.modChan c.n fun c =>
            { started s r 0 c with
              prom := s.promiseTick, job := some { bytes := bytes, ptr := 0, accepted := true } })
          fun fb =>
            let fb := fb.put (s.env r) .X f.d 1 0
            { fb with ctx := { fb.ctx with prom := s.promiseTick } })

/-- CHGO, CHST, CHSTP, CPROM and CPY complete for every operand with the answers and effects of their rules (R274, R276 to
R280, R289). -/
def Obligations.ChannelStartWords : Prop := Sys2Proof.Spec.ChannelWords ∧ Sys2Proof.Spec.CpyAcceptsRecord

/-- DBG completes: V 0 leaves a marker record of both operands with the trace unit, V 1 reads a stall-reason counter, and
V 2, in a privileged group, asks for a freeze of the partition and receives its code; in another it raises
illegal-instruction cause 7 (R404, R408, R411). -/
def Sys2Proof.Spec.DebugWord : Prop :=
  ∀ (f : F3) s r g, Ready s (.dbg f) r g →
    (f.x = 0 → exec (.dbg f) s = .next
      ((s.traceRecord s.cur g.vf g.gid 4 (s.lead r).fid (maskOf r.fids)
        (BitVec.ofNat 96 ((leadOp s r f.a).toNat + (leadOp s r f.b).toNat * 2 ^ 32))).retire f.c)) ∧
    (f.x = 1 → ∃ t, exec (.dbg f) s = .next t ∧
      Members s t r f.c fun fb => fb.put (s.env r) .X f.d 2 (sget 0 g.stall (((s.env r).op32 fb f.a).toNat % 16)).toNat) ∧
    (f.x = 2 → g.pol.privileged = false →
      exec (.dbg f) s = .next (s.raise s.cur r { kind := 7, cause := 7, failing := maskOf r.fids })) ∧
    (f.x = 2 → g.pol.privileged →
      let v := s.askFreeze (some g.part) (leadPair s r f.a) false
      exec (.dbg f) s = .next
        ((v.2.eachMember r fun _ fb => fb.put (s.env r) .X f.d 1 v.1).retire f.c))

/-- MOVS, MOVT, FMTS and DBG complete with the effect of their rules; DBG's freeze outside a privileged group is illegal
(R160, R168, R177, R178, R404, R408, R411). -/
def Obligations.SpecialTableAndDebugWords : Prop := Sys2Proof.Spec.SpecialWords ∧ Sys2Proof.Spec.FormatTableWrite ∧ Sys2Proof.Spec.DebugWord

/-! ## Encoding and the step -/

namespace Sys2Proof.Spec

/-- A word from its bits: the chain bit, the opcode, bits 23:21, D, A and B (R44, formats R, W and M). -/
def wordOf (c op x d a b : Nat) : Word := BitVec.ofNat 32 (c * 2 ^ 31 + op * 2 ^ 24 + x * 2 ^ 21 + d * 2 ^ 14 + a * 2 ^ 7 + b)
/-- A word of format K or J from its bits: the chain bit, the opcode, D or P, and K17 (R44). -/
def wordOfK (c op d k : Nat) : Word := BitVec.ofNat 32 (c * 2 ^ 31 + op * 2 ^ 24 + d * 2 ^ 17 + k)

/-- The state in which core c issues, the entry that says so taken off the agenda and the tick's order of acts come to
it (log entry 1). -/
def issuing (s : State) (c : Nat) (rest : List Act) : State := { ({ s with agenda := rest }).note (.issue c) with cur := c }

/-- Run r of group g stands on core c, whose issue is the next entry of the agenda and comes next in the order of the
tick; words are those of its packet. -/
def AtPacket (s : State) (c : Nat) (rest : List Act) (r : Run) (g : Group) (words : List Word) : Prop :=
  s.agenda = .issue c :: rest ∧ lexLess (s.keyOf (.issue c)) s.turn = false ∧ s.firstBefore (.issue c) = none ∧
  (s.core c).run = some r ∧ s.group? r.grp = some g ∧ s.stopped g.part = false ∧
  s.traceFull c = false ∧ (issuing s c rest).packet g r = .ok words

/-- The packet raises no illegal-packet fault (R58, R63, R83), which the head of a packet is checked for. -/
def PacketLegal (s : State) (g : Group) (r : Run) (words : List Word) : Prop := s.packetFault g r words = none

/-- At the head of a run, no member holds a register of it poisoned (R69). -/
def Unpoisoned (s : State) (g : Group) (r : Run) : Prop := r.count = 0 → (s.openRun g r).poisonTrap g r = none

/-- The state in which a chain group of words l finds the machine: at a run's head the results that the run meets have
landed (R68), and so have those that the group's own words meet (R60); what its words read is fixed (R56). -/
def opened (s : State) (g : Group) (r : Run) (l : List Word) : State :=
  (if r.count = 0 then s.openRun g r else s).openGroup g r l

/-- Words run one after the other from s to u, each of them taking effect. -/
def inTurn : List Word → State → State → Prop
  | [], s, u => s = u
  | w :: l, s, u =>
    ∃ i t, decodeFields w = some i ∧ exec i s = .next t ∧ tookEffect w s t = true ∧ inTurn l t u

end Sys2Proof.Spec

/-- The word of every well-formed instruction of the instruction set decodes to that instruction, with every field at
every value the encoding admits (R44, R45, R72). -/
def Obligations.DecodeEncode : Prop :=
  ∀ i : Instr, i.isWord = true → i.wf = true → ∃ w, encode i = some w ∧ decode w = .ok i

/-- Whatever word the decoder takes for an instruction is the word of that instruction: no two words are one, and no bit
is left out; the instruction is well formed (R44, R74). -/
def Obligations.EncodeDecode : Prop :=
  ∀ (w : Word) (i : Instr), decode w = .ok i → encode i = some w ∧ i.isWord = true ∧ i.wf = true

/-- A word with a reserved opcode decodes to nothing, and its issue raises an illegal-instruction fault of cause 1 for
its bundle, in every place of its chain group, unless a stray control transfer of the group or an illegal word before it is
reported instead (R73, R83). -/
def Obligations.ReservedOpcodesRefused : Prop :=
  (∀ w : Word, (w.extractLsb' 24 7).toNat ∈ [0x07, 0x2F, 0x47, 0x4F, 0x7F] ↔ decode w = .error .reservedOpcode) ∧
  ∀ s c rest r g words w, AtPacket s c rest r g words → PacketLegal (issuing s c rest) g r words → Unpoisoned (issuing s c rest) g r →
    decode w = .error .reservedOpcode → ∀ before after, chainGroup (words.drop (r.idx % 3)) = before ++ w :: after →
    let o := opened (issuing s c rest) g r (before ++ w :: after)
    (∀ v ∈ before ++ after, ∀ i, decodeFields v = some i → o.transferFault r i = none) →
    (∀ v ∈ before, o.illegalFault r v = none) →
    step s = .next (o.raise c r { kind := 7, cause := 1, failing := maskOf r.fids })

/-- Words written out from the encoding tables decode to what they stand for (R34, R46, R72, R82, R347): the manual's own
examples among them. -/
def Obligations.DecodedWords : Prop :=
  decode 0x0C028103 = .ok (.imul { c := false, x := 0, d := 10, a := 2, b := 3 }) ∧
  decode 0x8C028103 = .ok (.imul { c := true, x := 0, d := 10, a := 2, b := 3 }) ∧
  decode 0x32100307 = .ok (.fmul { c := false, x := 0, d := 64, a := 6, b := 7 }) ∧
  decode 0x04000007 = .ok (.trap { c := false, d := 0, k := 7 }) ∧
  decode 0x05100003 = .ok (.sysc { c := false, d := 8, k := 3 }) ∧
  decode 0x06000000 = .ok (.eret { c := false, x := 0, d := 0, a := 0, b := 0 }) ∧
  decode 0x06600200 = .ok (.eret { c := false, x := 3, d := 0, a := 4, b := 0 }) ∧
  decode (wordOf 0 0x68 4 11 2 96) = .ok (.ld { c := false, x := 4, d := 11, a := 2, b := 96 }) ∧
  decode (wordOf 1 0x11 5 95 1 127) = .ok (.icmp { c := true, x := 5, d := 95, a := 1, b := 127 }) ∧
  decode (wordOf 0 0x76 7 64 72 79) = .ok (.bwait { c := false, x := 7, d := 64, a := 72, b := 79 }) ∧
  decode (wordOfK 0 0x50 1 0x1FFFF) = .ok (.br { c := false, d := 1, k := -1 }) ∧
  decode (wordOf 0 0x11 0 96 0 0) = .error .predicateCode ∧
  decode (wordOf 0 0x08 3 1 0 0) = .error .oddRegister ∧
  decode (wordOf 0 0x08 4 0 0 0) = .error .undefinedVariant ∧
  decode (wordOf 0 0x00 0 0 0 1) = .error .unusedField

/-- When a core issues and the word at its run's place decodes to an instruction whose fields raise no illegal-instruction
cause for the bundle, the step is exec of that instruction on the opened state (R44, R54 to R56, R60, R68). -/
def Sys2Proof.Spec.StepRunsDecodedWord : Prop :=
  ∀ s c rest r g words w i, AtPacket s c rest r g words → PacketLegal (issuing s c rest) g r words → Unpoisoned (issuing s c rest) g r →
    chainGroup (words.drop (r.idx % 3)) = [w] → decodeFields w = some i →
    i.cause (r.mc.map (·.2)) g.kern.window = none →
    step s = exec i (opened (issuing s c rest) g r [w])

/-- The chained words of a group run one after the other within one step, each on what those before it have left, when no
fault of the group comes before them and all of them take effect (R55, R70). -/
def Sys2Proof.Spec.StepRunsChainedWords : Prop :=
  ∀ s c rest r g words l u, AtPacket s c rest r g words → PacketLegal (issuing s c rest) g r words →
    Unpoisoned (issuing s c rest) g r → chainGroup (words.drop (r.idx % 3)) = l →
    (opened (issuing s c rest) g r l).earlyFault r l = none →
    inTurn l (opened (issuing s c rest) g r l) u → step s = .next u

/-- The step of an issuing core is exec of the decoded word, and of chained words one after the other (R44, R54 to R56,
R60, R68, R70).
Which core issues next is the agenda's to say, the model's own (log entry 1). -/
def Obligations.StepRunsDecodedWords : Prop := Sys2Proof.Spec.StepRunsDecodedWord ∧ Sys2Proof.Spec.StepRunsChainedWords

/-- What a word reads of a member is not changed by a result of its own chain group: registers, latches and predicates
read as they stood when the group was opened (R56, R51, R52). -/
def Sys2Proof.Spec.ChainGroupReadsBefore : Prop :=
  ∀ (fb : Fibre) (e : Env) (p : Pipe) (code k : BitVec 7) (n v q : Nat) (b : Bool) (bad : Option DWord)
      (fl : BitVec 5),
    (∀ x ∈ [fb.put e p code n v, fb.putLater e p code n v fl bad, fb.putPred q b],
      e.op32 x k = e.op32 fb k ∧ e.op64 x k = e.op64 fb k ∧ x.pred q = fb.pred q)

/-- A packet with C set in its third word, or with a chained TRAIL, raises illegal-packet cause 1; one that starts past
the 24th word of its run, with no lower cause, raises cause 5; no word of it takes effect (R58, R62, R83). -/
def Sys2Proof.Spec.IllegalPacketTraps : Prop :=
  ∀ s c rest r g words, AtPacket s c rest r g words → r.idx % 3 = 0 →
    let fault (k : Nat) : Host.Outcome State Fault Refusal :=
      .next ((issuing s c rest).raise c r { kind := 8, cause := k, failing := maskOf r.fids })
    ((∃ u v w, words = [u, v, w] ∧ isChained w = true) ∨ (∃ w ∈ words, isTrail w = true ∧ isChained w = true) →
      step s = fault 1) ∧
    (r.mc = none → 24 ≤ r.count →
      (∃ t u v, words = [t, u, v] ∧ isTrail t = true ∧ ∀ w ∈ words, isChained w = false) → step s = fault 5)

/-- Every word of the instruction set whose fields raise an illegal-instruction cause for the issuing bundle traps with
the lowest such cause and has no effect of its own (R50, R52, R65, R74, R83). -/
def Sys2Proof.Spec.IllegalWordTraps : Prop :=
  ∀ i s r c, i.isWord = true → s.run? = some r → i.cause (s.env r).mp (s.env r).window = some c →
    exec i s = .next (s.raise s.cur r { kind := 7, cause := c, failing := maskOf r.fids })

/-- Illegal packets and illegal words trap with the lowest cause that applies and have no effect of their own (R50, R52,
R58, R62, R65, R74, R83). -/
def Obligations.IllegalInstructionsTrap : Prop := Sys2Proof.Spec.IllegalPacketTraps ∧ Sys2Proof.Spec.IllegalWordTraps

/-! ## Results, traps and the checks of memory -/

namespace Sys2Proof.Spec

/-- Latches 0 and 1 of a pipe. -/
def latch (l : Latches) (p : Pipe) (k : Nat) : DWord :=
  match p, k with
  | .A, 0 => l.la0
  | .A, _ => l.la1
  | .F, 0 => l.lf0
  | .F, _ => l.lf1
  | .M, 0 => l.lm0
  | .M, _ => l.lm1
  | .X, 0 => l.lx0
  | .X, _ => l.lx1
  | .none, _ => 0

/-- A fibre but for its registers, latches, flags and results in flight. -/
def apartFromResults (fb : Fibre) : Fibre :=
  { fb with flight := [], raised := 0, ctx := { fb.ctx with regs := [], lat := {}, fpctl := 0 } }

/-- FINFO by its fields (R343). -/
def finfoOf (t : Trap) : Word :=
  BitVec.ofBool t.self ++ BitVec.ofNat 4 t.kind ++ 0#1 ++ BitVec.ofBool t.escw ++ BitVec.ofBool t.esci ++
    BitVec.ofNat 8 t.cause ++ BitVec.ofNat 16 t.detail

/-- The code of an ESCAL whose trap is still owed once a fibre leaves its run for a handler or the supervisor: that of a run
that goes on in a wait, else one owed before (R107). That the trap stays owed past the handler is the model's reading (log
entry 33). -/
def owedBy (fb : Fibre) : Option Nat := if fb.wait.isSome ∧ fb.after.escal.isSome then fb.after.escal else fb.owed

/-- A fibre that has entered its handler at h (R345): its results landed, EPC, the shadow of g0 to g3, FINFO, FVAL and
FVAH written, the wait it was in and the trap of an ESCAL it is owed (log entry 33) saved, its latches zero, and nothing
else of its context changed. -/
def entered (fb : Fibre) (h now : DWord) (t : Trap) : Fibre :=
  let fb := fb.landAll
  let g (k : Nat) := sget 0 fb.ctx.regs k
  { fb with
    st := .ready
    rdy := now
    pc := h
    npc := none
    saved := if fb.wait.isSome then fb.wait else fb.saved
    wait := none
    smc := fb.mc
    mc := none
    entry := none
    held := none
    after := {}
    owed := none
    sowed := owedBy fb
    exempt := false
    ctx := { fb.ctx with
      epc := t.epc
      shadow := sset 0 (sset 0 (sset 0 (sset 0 [] 0 (g 0)) 1 (g 1)) 2 (g 2)) 3 (g 3)
      finfo := finfoOf t
      fval := t.fva.extractLsb' 0 32
      fvah := t.fva.extractLsb' 32 32
      inhandler := true
      lat := {} } }

/-- A fibre held at the supervisor by a trap (R351), its results landed. -/
def heldBy (fb : Fibre) (t : Trap) : Fibre :=
  { fb.landAll with
    held := some t
    sent := false
    entry := none
    after := {}
    owed := owedBy fb
    exempt := false
    st := if fb.st = .waiting then .waiting else .ready
    npc := none }

/-- The trap of kind 15 that a trap in a handler, or one without a handler, turns into (R345). -/
def doubleTrap (c : Nat) (t : Trap) : Trap :=
  { kind := 15, cause := c, epc := t.epc, self := t.self, mask := t.mask, failing := t.failing }

/-- The packet at which a run starts again: of a microprogram, the MCALL's (R70, R80). -/
def restartAt (r : Run) : DWord := if r.mc.isSome then r.pkt else r.start

/-- A member set back to the start of its run (R70). -/
def setBackTo (s : State) (r : Run) (fb : Fibre) : Fibre :=
  { fb with pc := restartAt r, after := {}, mc := r.mc, exempt := false, st := .ready, rdy := s.tick }

/-- The trap of member f: self says whether it failed itself (R343, R351). -/
def trapOf (r : Run) (t : Trap) (f : Nat) : Trap :=
  { t with epc := restartAt r, mask := maskOf r.fids, self := t.failing.getLsbD (memberOf f) }

/-- A handler address that can be entered (R345). -/
def handlerFits (h : Nat) : Prop := h ≠ 0 ∧ h % 12 = 0 ∧ h < 2 ^ 64

/-- An access with nothing to stop it (R231): aligned, inside the address space, in a page that is held, permitted,
backed by a frame of the partition's on a stack that serves, without a side window. -/
def Reachable (s : State) (g : Group) (spec : AccSpec) (q : Req) : Prop :=
  q.va.toNat % spec.size = 0 ∧ q.va.toNat < 2 ^ 60 ∧ q.len ≤ 2 ^ 24 ∧ (spec.sets = true → q.desc = 0) ∧
  ∃ t, s.held? (some s.cur) (stackOf s.cur) g.vf (q.va.toNat / 65536) spec.acc.stores = some t ∧
    leafCauses t.entry t.page (q.va.toNat / 65536) spec.acc = [] ∧ (spec.acc.stores = true → pteD t.entry = true) ∧
    pteSide t.entry = false ∧
    s.owns g.part (frameOf t.entry t.page (q.va.toNat / 65536)) = true ∧
    s.homeUp (frameOf t.entry t.page (q.va.toNat / 65536) + q.va.toNat % 65536) = true

/-- Nothing besides the access itself stands in its way: no comparator of the core, no declared set, no scrub, no write that
is not at its home yet, no peer's aperture, no soft error. -/
def Undisturbed (s : State) (g : Group) : Prop :=
  (s.core s.cur).watch = [] ∧ s.lines = [] ∧ s.scrubbing = [] ∧ s.errors = [] ∧ (∀ c ∈ s.copies, c.dirty = 0) ∧
  (∀ p, s.part? g.part = some p → p.apertures = [])

end Sys2Proof.Spec

/-- A register result enters its pipe's latch 0, the old contents of which move to latch 1; unless suppressed it fills
the n registers from D on, low word first; a 128-bit result sends its low half to the latch; nothing else changes (R51,
R59). -/
def Obligations.ResultWritesLatchAndRegisters : Prop :=
  ∀ (fb : Fibre) (e : Env) (p q : Pipe) (code : BitVec 7) (n v k : Nat), p ≠ .none → v < 2 ^ (32 * n) →
    let u := fb.put e p code n v
    (latch u.ctx.lat q 0 = if q = p then BitVec.ofNat 64 v else latch fb.ctx.lat q 0) ∧
    (latch u.ctx.lat q 1 = if q = p then latch fb.ctx.lat q 0 else latch fb.ctx.lat q 1) ∧
    (sget 0 u.ctx.regs k =
      if code.toNat < 64 ∧ mapReg e.mp code.toNat ≤ k ∧ k < mapReg e.mp code.toNat + n then
        BitVec.ofNat 32 (v / 2 ^ (32 * (k - mapReg e.mp code.toNat)))
      else sget 0 fb.ctx.regs k) ∧
    u.ctx.fpctl = fb.ctx.fpctl ∧ u.flight = fb.flight ∧ apartFromResults u = apartFromResults fb

/-- A deferrable result takes its latch at issue and leaves the registers until it lands; landed it fills them, and its
flags are then merged; a suppressed one has no register to wait for (R51, R60, R66, R170). -/
def Sys2Proof.Spec.DeferredResultLands : Prop :=
  ∀ (fb : Fibre) (e : Env) (p q : Pipe) (code : BitVec 7) (n v k : Nat) (fl : BitVec 5) (bad : Option DWord),
    p ≠ .none → n ≤ 4 → v < 2 ^ (32 * n) →
    let u := fb.putLater e p code n v fl bad
    (latch u.ctx.lat q 0 = if q = p then BitVec.ofNat 64 v else latch fb.ctx.lat q 0) ∧
    u.ctx.regs = fb.ctx.regs ∧ apartFromResults u = apartFromResults fb ∧
    (64 ≤ code.toNat → u.flight = fb.flight ∧ u.ctx.fpctl = fb.ctx.fpctl ||| (fl.setWidth 32 <<< 8)) ∧
    (code.toNat < 64 → u.ctx.fpctl = fb.ctx.fpctl ∧ ∃ w, u.flight = fb.flight ++ [w] ∧
      (u.land w).ctx.fpctl = fb.ctx.fpctl ||| (fl.setWidth 32 <<< 8) ∧
      sget 0 (u.land w).ctx.regs k =
        if mapReg e.mp code.toNat ≤ k ∧ k < mapReg e.mp code.toNat + n then
          BitVec.ofNat 32 (v / 2 ^ (32 * (k - mapReg e.mp code.toNat)))
        else sget 0 fb.ctx.regs k)

/-- At the end of a run nothing is in flight, and the scoreboard holds no more than six results (R66, R67). -/
def Sys2Proof.Spec.ScoreboardHoldsSix : Prop :=
  ∀ (fb : Fibre) (named : List Nat), fb.board.length ≤ 6 →
    (fb.endResults named).flight = [] ∧ (fb.endResults named).board.length ≤ 6 ∧
    ∀ p ∈ (fb.endResults named).board, p ∈ fb.board ∨ p ∈ fb.flight ∧ p.reg ∈ named

/-- A deferrable result takes its latch at issue and its registers and flags when it lands; at a run's end nothing is in
flight, and the scoreboard holds at most six (R51, R60, R66, R67, R170). -/
def Obligations.DeferredResultsLand : Prop := Sys2Proof.Spec.DeferredResultLands ∧ Sys2Proof.Spec.ScoreboardHoldsSix

/-- p0 reads as 1 whatever its bit, and a write to it is discarded; a write to another predicate is read back and leaves
the rest (R52, R142). -/
def Sys2Proof.Spec.PredicateZero : Prop :=
  ∀ (fb : Fibre) (p q : Nat) (v : Bool), fb.pred 0 = true ∧ fb.putPred 0 v = fb ∧
    (p ≠ 0 → p < 96 → (fb.putPred p v).ctx.preds.getLsbD q = if q = p then v else fb.ctx.preds.getLsbD q)

/-- p0 reads as 1 and keeps no write; the words of a chain group read registers, latches and predicates as they stood
before it (R51, R52, R56, R142). -/
def Obligations.ReadsWithinChainGroup : Prop := Sys2Proof.Spec.PredicateZero ∧ Sys2Proof.Spec.ChainGroupReadsBefore

/-- Taking a fibre-level trap outside a handler with a handler that fits enters it: the resume packet, the trap's
information and g0 to g3 are saved, PC is the handler, and no other fibre, no group and no byte of memory changes
(R343, R345). -/
def Sys2Proof.Spec.TrapEntersHandler : Prop :=
  ∀ (s : State) (g f : Nat) (gr : Group) (fb : Fibre) (t : Trap), s.group? g = some gr → gr.fibre? f = some fb →
    fb.ctx.inhandler = false → handlerFits (s.handlerOf gr.part gr.region) →
    t.kind < 16 → t.cause < 256 → t.detail < 2 ^ 16 →
    let h := BitVec.ofNat 64 (s.handlerOf gr.part gr.region)
    (∀ g' f', (s.enterTrap g f t).fibre? g' f' =
      if g' = g ∧ f' = f then some (entered fb h s.tick t) else s.fibre? g' f') ∧
    SameGroups s (s.enterTrap g f t) ∧ SameElsewhere s (s.enterTrap g f t)

/-- A trap in a handler becomes a double trap of its own kind, a trap whose handler is missing or no packet address one
of cause 0: the fibre is held at the supervisor; a promise miss in a handler waits for ERET instead (R345, R351). -/
def Sys2Proof.Spec.DoubleTrapHoldsFibre : Prop :=
  ∀ (s : State) (g f : Nat) (gr : Group) (fb : Fibre) (t : Trap), s.group? g = some gr → gr.fibre? f = some fb →
    let h := s.handlerOf gr.part gr.region
    let becomes (u : Fibre) : Prop :=
      (∀ g' f', (s.enterTrap g f t).fibre? g' f' = if g' = g ∧ f' = f then some u else s.fibre? g' f') ∧
      SameGroups s (s.enterTrap g f t) ∧ SameElsewhere s (s.enterTrap g f t)
    (fb.ctx.inhandler = true → t.kind ≠ 4 → becomes (heldBy fb (doubleTrap t.kind t))) ∧
    (fb.ctx.inhandler = true → t.kind = 4 → becomes { fb with misses := fb.misses ++ [t], entry := none }) ∧
    (fb.ctx.inhandler = false → h = 0 ∨ h % 12 ≠ 0 → becomes (heldBy fb (doubleTrap 0 t)))

/-- A fibre-level trap enters the region's handler, or holds the fibre as a double trap (R343, R345, R351).
That the trap of an ESCAL stays owed past another entry (log entry 33), and that a held fibre keeps its FINFO, FVAL and FVAH (log
entry 78), are the model's choices. -/
def Obligations.FibreTrapEntry : Prop := Sys2Proof.Spec.TrapEntersHandler ∧ Sys2Proof.Spec.DoubleTrapHoldsFibre

/-- A synchronous fault of kind 7 and above ends the run without effect: every member is set back to the run's start and
held at the supervisor with the trap; no other fibre, no other core's run and no byte of memory changes (R70, R346,
R351). -/
def Sys2Proof.Spec.FaultHoldsBundle : Prop :=
  ∀ (s : State) (c : Nat) (r : Run) (gr : Group) (t : Trap), s.group? r.grp = some gr → r.fids.Nodup → 7 ≤ t.kind →
    let u := s.raise c r t
    (∀ f ∈ r.fids, ∀ fb, gr.fibre? f = some fb →
      u.fibre? r.grp f = some (heldBy (setBackTo s r fb) (trapOf r t f))) ∧
    (∀ g f, ¬(g = r.grp ∧ f ∈ r.fids) → u.fibre? g f = s.fibre? g f) ∧
    (u.core c).run = none ∧ (∀ k, k ≠ c → u.core k = s.core k) ∧ u.mem = s.mem

/-- A locate fault, or a watchpoint hit that starts no freeze, sends every member of the bundle into the handler with EPC
at the run's start; self marks the failing ones (R70, R343, R345). -/
def Sys2Proof.Spec.FaultEntersHandler : Prop :=
  ∀ (s : State) (c : Nat) (r : Run) (gr : Group) (t : Trap), s.group? r.grp = some gr → r.fids.Nodup →
    t.kind = 1 ∨ t.kind = 2 ∧ t.late = false → t.cause < 256 → t.detail < 2 ^ 16 →
    handlerFits (s.handlerOf gr.part gr.region) →
    let u := s.raise c r t
    let h := BitVec.ofNat 64 (s.handlerOf gr.part gr.region)
    (∀ f ∈ r.fids, ∀ fb, gr.fibre? f = some fb → fb.ctx.inhandler = false →
      u.fibre? r.grp f = some (entered (setBackTo s r fb) h s.tick (trapOf r t f))) ∧
    (∀ g f, ¬(g = r.grp ∧ f ∈ r.fids) → u.fibre? g f = s.fibre? g f) ∧ (u.core c).run = none ∧ u.mem = s.mem

/-- A synchronous fault sets its whole bundle back to the run's start, into the handler or held at the supervisor by its
kind (R70, R343, R345, R346, R351).
That a fibre held by a supervisor trap keeps its FINFO, FVAL and FVAH (log entry 78), the packet of a restart inside a
microprogram (log entry 32) and the escalations that an entry leaves owed (log entry 33) are the model's choices. -/
def Obligations.SynchronousFaults : Prop := Sys2Proof.Spec.FaultHoldsBundle ∧ Sys2Proof.Spec.FaultEntersHandler

/-- The checks of R231 pass wherever each member's access is aligned, inside the address space and translated with the
permission it needs, and nothing disturbs it: what the memory statements assume holds on an ordinary page. -/
def Obligations.ChecksPass : Prop :=
  ∀ (s : State) (r : Run) (g : Group) (spec : AccSpec) (l : List Req), s.group? r.grp = some g → Undisturbed s g →
    (∀ q ∈ l, Reachable s g spec q) → s.check r spec l = .ok

/-- A misaligned address raises access fault cause 1, and one with bits 63:60 set cause 2, before any other check and for
all members that fail, with the address of the lowest of them (R218, R231). -/
def Obligations.AddressFaults : Prop :=
  ∀ (s : State) (r : Run) (g : Group) (spec : AccSpec) (l : List Req) (q : Req), s.group? r.grp = some g →
    (∀ q ∈ l, q.len ≤ 2 ^ 24) →
    let bad (q : Req) : Bool := q.va.toNat % spec.size ≠ 0 || 2 ^ 60 ≤ q.va.toNat
    (l.filter bad).head? = some q →
    s.check r spec l = .fault
      { kind := 9, cause := if ∃ q ∈ l, q.va.toNat % spec.size ≠ 0 then 1 else 2
        failing := maskOf ((l.filter bad).map (·.fid)), fva := q.va }

/-! ## Events of fibres -/

namespace Sys2Proof.Spec

/-- Nothing outside the groups and the cores has changed, whichever core the event was computed on. -/
def SameAside (s t : State) : Prop := { t with groups := s.groups, cores := s.cores, cur := s.cur } = s

/-- Of all fibres only fibre f of group g has changed, into u; nothing outside the fibres and the cores has. -/
def OnlyFibre (s t : State) (g f : Nat) (u : Fibre) : Prop :=
  (∀ g' f', t.fibre? g' f' = if g' = g ∧ f' = f then some u else s.fibre? g' f') ∧ SameGroups s t ∧ SameAside s t

/-- Fibre fb of group g waits, on its own and with no arrival placed, in word w of kind k, and nothing holds it. -/
def WaitsAlone (s : State) (g : Group) (fb : Fibre) (w : Wait) : Prop :=
  s.group? g.gid = some g ∧ g.fibre? fb.fid = some fb ∧ fb.wait = some w ∧ fb.st = .waiting ∧ fb.held = none ∧
  Runs s g ∧ w.mask = 0 ∧ w.ended = none ∧ w.arr = .none ∧ fb.after = {} ∧
  fb.owed = none ∧ fb.entry = none ∧ fb.misses = []

/-- The opcode of a waiting word. -/
def opcode (w : Wait) : Nat := (w.word.extractLsb' 24 7).toNat

/-- A fibre whose wait has ended on this tick (R98, R122). -/
def readied (now : DWord) (fb : Fibre) : Fibre := { fb with st := .ready, rdy := now }

/-- The slot and the generation that a captured handle names (R128). -/
def handleSlot (w : Wait) : Nat := w.a.toNat % 1024
def handleGen (w : Wait) : Nat := w.a.toNat / 2 ^ 16 % 2 ^ 16

/-- A handle that names the slot of another fibre than the one that waits, or an earlier life of its own (R130). -/
def handleLegal (g : Group) (fb : Fibre) (w : Wait) : Prop :=
  w.a.toNat / 2 ^ 10 % 64 = 0 ∧ handleSlot w < 32 * g.kern.teams ∧
  ¬(handleSlot w = fb.fid ∧ handleGen w = fb.gen.toNat)

/-- Whether a non-OK code counted for a packet stays below its region's escalation threshold (R105). -/
def belowThreshold (g : Group) (fb : Fibre) (w : Wait) : Prop :=
  (if fb.ctx.escpc = w.pkt then fb.ctx.escnt.toNat + 1 else 1) < g.pol.escal

/-- The number of a fibre's stores to peers, none of which is still to be answered. -/
def NoPeerStore (s : State) (g f : Nat) : Prop := ∀ w ∈ s.peers, ¬(w.grp = g ∧ w.fid = f)

/-- A supervisor call served with an answer: the fibre goes on at its next run (R349). -/
def served (r a : Nat) (now : DWord) (fb : Fibre) : Fibre :=
  { fb with
    held := none
    sent := false
    rdy := now
    wait := fb.wait.map fun w => { w with resumed := true }
    sysc := none
    ctx := { fb.ctx with regs := sset 0 fb.ctx.regs r (BitVec.ofNat 32 a) } }

end Sys2Proof.Spec

/-- A wait ends on the tick that meets it: a SLEEP on its deadline and an FJOIN on the end of its fibre with OK, an FJOIN
of an older life with CLOSED, and an FJOIN whose deadline passes with TIMEOUT; the fibre is ready, and nothing else but
the core's notes changes (R98, R105, R109, R130).
That every wait is tested on every tick, in the order of the tick's acts, is the model's reading (log entry 35). -/
def Obligations.WaitsEnd : Prop :=
  ∀ (s : State) (g : Group) (fb : Fibre) (w : Wait), WaitsAlone s g fb w →
    (opcode w = 0x4D → w.deadline.getLsbD 63 = false → w.deadline.toNat ≤ (s.tickAt (fb.onCore g)).toNat →
      ∃ t, exec (.waitConditionMet g.gid fb.fid) s = .next t ∧
        OnlyFibre s t g.gid fb.fid (readied s.tick (okEnd 1 fb))) ∧
    (opcode w = 0x57 → handleLegal g fb w →
      ((g.fibre (handleSlot w)).gen.toNat = (handleGen w + 1) % 2 ^ 16 → fb.place = .home →
        ∃ t, exec (.waitConditionMet g.gid fb.fid) s = .next t ∧
          OnlyFibre s t g.gid fb.fid (readied s.tick (okEnd 6
            (fb.put w.env .X (w.word.extractLsb' 14 7) 1 (g.fibre (handleSlot w)).exitv.toNat)))) ∧
      ((g.fibre (handleSlot w)).gen.toNat ≠ handleGen w →
        (g.fibre (handleSlot w)).gen.toNat ≠ (handleGen w + 1) % 2 ^ 16 → w.resumed = false → belowThreshold g fb w →
        ∃ t, exec (.waitImmediateOutcome g.gid fb.fid) s = .next t ∧
          OnlyFibre s t g.gid fb.fid (readied s.tick (otherEnd 6 9 0 w.pkt fb))) ∧
      ((g.fibre (handleSlot w)).gen.toNat = handleGen w → w.resumed = false → belowThreshold g fb w →
        w.deadline.getLsbD 63 = false → w.deadline.toNat ≤ (s.tickAt (fb.onCore g)).toNat →
        ∃ t, exec (.waitDeadlinePassed g.gid fb.fid) s = .next t ∧
          OnlyFibre s t g.gid fb.fid (readied s.tick (otherEnd 6 1 0 w.pkt fb))))

/-- The events of a fibre take effect: the oldest scoreboard entry lands; the first trap due is entered; the record of a
held fibre goes to the supervisor; a migrating fibre arrives at its core or at home; a store is acknowledged; a departure
that stalls is held where it was (R67, R135, R345, R351, R360, R361). -/
def Sys2Proof.Spec.FibreEvents : Prop :=
  ∀ (s : State) (g : Group) (fb : Fibre), s.group? g.gid = some g → g.fibre? fb.fid = some fb →
    (∀ p rest, fb.board = p :: rest → s.stopped g.part = false →
      ∃ t rdy, exec (.deferredResultLanding g.gid fb.fid) s = .next t ∧ (rdy = fb.rdy ∨ rdy = s.tick) ∧
        OnlyFibre s t g.gid fb.fid ({ fb with board := rest, rdy := rdy }.land p)) ∧
    (∀ tr, Runs s g → g.fibres.find? (s.entersNow g) = some fb → fb.entry = some tr → fb.ctx.inhandler = false →
      handlerFits (s.handlerOf g.part g.region) → tr.kind < 16 → tr.cause < 256 → tr.detail < 2 ^ 16 →
      ∃ t, exec (.fibreTrapEntry g.gid) s = .next t ∧
        OnlyFibre s t g.gid fb.fid (entered fb (BitVec.ofNat 64 (s.handlerOf g.part g.region)) s.tick
          { tr with epc := ((fb.wait.map (·.pkt)).getD fb.pc) })) ∧
    (∀ tr, g.fibres.find? (fun x => x.held.isSome && !x.sent) = some fb → fb.held = some tr →
      let told := (s.modFibre g.gid fb.fid fun x => { x with sent := true }).report g.part (.trap g.gid fb.fid g.vf tr)
      exec (.supervisorTrap g.gid) s = .next
        (match fb.sysc with
        | none => told
        | some (code, reg) => told.report g.part (.call g.gid fb.fid g.vf code reg))) ∧
    (∀ dest d left, fb.place = .transit dest d left → fb.unacked = 0 → Runs s g →
      (∀ c, dest = some c → s.stackUp (stackOf c) = true) →
      ∃ t, exec (.migrArrival g.gid fb.fid) s = .next t ∧ t = (s.acquire (dest.getD g.core) 4).modFibre g.gid fb.fid fun x =>
        { x.putRegs none d 1 (dest.getD g.core) with
          st := .ready
          rdy := s.tick
          slotOn := none
          slots := []
          place := if dest.isNone then .home else .landed (dest.getD g.core)
          leftAs := if dest.isNone then [] else x.leftAs
          ftab := if dest.isNone then none else x.ftab }) ∧
    (0 < fb.unacked → s.stopped g.part = false → NoPeerStore s g.gid fb.fid → s.invalidations = [] → g.frame = none →
      ∃ t, exec (.storeAcknowledge g.gid fb.fid) s = .next t ∧
        (∀ g' f', t.fibre? g' f' =
          if g' = g.gid ∧ f' = fb.fid then
            some { fb with
              unacked := fb.unacked - 1
              slotOn := if fb.unacked = 1 then none else fb.slotOn
              slots := (fb.slots.map fun q => (q.1, q.2 - 1)).filter (·.2 ≠ 0) }
          else s.fibre? g' f') ∧ SameElsewhere s t) ∧
    (∀ dest d left, fb.place = .transit dest d left → fb.unacked ≠ 0 → left.toNat + 65536 ≤ s.tick.toNat →
      g.st = .placed → g.fibres.find? (·.stalledMigr s.tick) = some fb →
      ∃ t u, exec (.drainStall g.gid) s = .next t ∧ OnlyFibre s t g.gid fb.fid u ∧ u.ctx = fb.ctx ∧ u.st = .ready ∧
        u.pc = fb.pc - 12 ∧ (∃ tr, u.held = some tr ∧ tr.kind = 14 ∧ tr.detail = min fb.unacked 65535) ∧
        u.place = (match fb.slotOn with
          | some c => .landed c
          | none => .home))

/-- The partition's firmware serves a supervisor call: code 1 with a packet of a loaded code section below the root sets
the region's handler and fault domain and answers 0, at the root 2, with another address 1; any other code is answered
with all ones; the fibre goes on (R349, R415). -/
def Sys2Proof.Spec.SupervisorCallServed : Prop :=
  ∀ (s : State) (g : Group) (fb : Fibre) (code r : Nat), s.group? g.gid = some g → g.fibre? fb.fid = some fb →
    fb.sysc = some (code, r) → s.homeUp g.region = true →
    let h := (sget 0 fb.ctx.regs r).toNat + 2 ^ 32 * (sget 0 fb.ctx.regs (r + 1)).toNat
    let atRoot := g.region = ((s.vf? g.vf).map (·.root)).getD 0
    let fits := h % 12 = 0 ∧ s.inCode g.vf h = true
    let answer := if code ≠ 1 then 2 ^ 32 - 1 else if atRoot then 2 else if fits then 0 else 1
    let set := ((s.putHome (g.region + 16) 8 h).putHome (g.region + 8) 8 0).putHome (g.region + 60) 4
      (mle s.mem (g.region + 60) 4 / 2 * 2 + 1)
    exec (.setHandlerService g.gid fb.fid) s = .next
      ((if answer = 0 then set else s).modFibre g.gid fb.fid fun x => served r answer s.tick x)

/-- The events of a fibre and the firmware's answer to a supervisor call take effect (R67, R135, R345, R349, R351, R360,
R361, R415).
Which of several events comes next is the agenda's to say, the model's own (log entry 1). -/
def Obligations.FibreAndServiceEvents : Prop := Sys2Proof.Spec.FibreEvents ∧ Sys2Proof.Spec.SupervisorCallServed

/-! ## Engines -/

namespace Sys2Proof.Spec

/-- Group g is placed and its engines work (R368, R412). -/
def EnginesWork (s : State) (g : Group) : Prop :=
  s.group? g.gid = some g ∧ g.st = .placed ∧ g.frozen = false ∧ s.stopped g.part = false

/-- s with everything in the partition's caches and notices brought to its home, where engines read, in memory without a
soft error (R312, R322, R363). -/
def AtHome (s q : State) (g : Group) : Prop := q = s.quiesce g.part ∧ q.errors = []

/-- Channel c of group g works at a record, owing no write into one. -/
def ChannelWorks (s : State) (g : Group) (c : Channel) : Prop :=
  EnginesWork s g ∧ OffColumns s ∧ c.owed = [] ∧ g.chan? c.n = some c ∧ c.frozen = false ∧ c.stuck = none ∧ c.paused = false ∧ c.st = 1

/-- A record pointer into the scratchpad whose 64 bytes lie in the group's window, clear of its barrier objects (R259,
R269). -/
def recordInPad (g : Group) (p : DWord) : Prop :=
  p.toNat % 2 = 1 ∧ g.spb ≤ p.toNat / 64 * 64 ∧ p.toNat / 64 * 64 + 64 ≤ g.spl ∧
  offBarriers g (p.toNat / 64 * 64) 64

/-- A record's control word with its status, and with own as given (R271). -/
def control (ctl status own : Nat) : Nat := ctl / 1024 * 1024 + status * 256 + ctl % 256 / 2 * 2 + own

/-- The channel of t by its group and number. -/
def channelIn (t : State) (g n : Nat) : Option Channel := (t.group? g).bind (·.chan? n)

/-- The kind of a transfer record (R271). -/
def kindOfRecord (b : BitVec 512) : Nat := b.toNat / 2 % 8

/-- The value of word k of a copy or a fill (R272), read where the record says. -/
def copied (s : State) (g : Group) (t : Transfer) : Except (Nat × Hit) Nat :=
  let r := Record.of t.bytes
  if r.kind = 4 then .ok (r.param.toNat % 2 ^ 32) else s.engineRead g r.sspace (r.srcAt t.idx t.pos) 4

end Sys2Proof.Spec

/-- A drained reservation that no accepted word is bound to is returned, zero-filled, and keeps its generation; the oldest
load of a B slot lands once nothing is bound to what stood there; a gather's next row is written to its reservation; a
sequencer performs its next K-step (R201, R203, R212, R214).
That a row's index, bytes and scales are read as it lands (log entry 48), and that the engine first brings every dirty byte and
notice of its partition home, so that it reads there (log entry 59), are the model's choices. -/
def Obligations.MatrixEvents : Prop :=
  ∀ (s q : State) (g : Group), EnginesWork s g → AtHome s q g →
    (∀ i, (g.entry i).valid → (g.entry i).drain → (∀ w ∈ g.waits, w.2.boundTo i = false) →
      ∃ t h, exec (.obrelRangeReturn g.gid i) s = .next t ∧ t.group? g.gid = some h ∧
        (∀ k, k ≠ g.gid → t.group? k = s.group? k) ∧ { t with groups := s.groups } = s ∧ h.entry i = { gen := (g.entry i).gen } ∧ (∀ j, j ≠ i → h.entry j = g.entry j) ∧
        (∀ a, mread h.ob a =
          if (g.entry i).base ≤ a ∧ a < (g.entry i).base + (g.entry i).bytes then 0 else mread g.ob a) ∧
        { h with res := g.res, ob := g.ob, obBad := g.obBad } = g) ∧
    (∀ slot t es ss, g.nextLoad slot = some t → t.stuck = none → (∀ w ∈ g.waits, w.2.bindsBefore slot t.seq = false) →
      q.readTile g t = .ok (es, ss) →
      exec (.bbldLoadLand g.gid slot) s = .next (q.modGroup g.gid fun h =>
        { h with
          btiles := (h.btiles.filter fun u => !(u.slot == t.slot && u.seq ≤ t.seq)) ++
            [{ t with ready := true, elems := es, scales := ss }] })) ∧
    (∀ p row scales, g.gathers.find? (·.id == p.id) = some p →
      (∃ w ∈ g.waits, opcode w.2 = 0x2C ∧ w.2.bound2 = p.id ∧ w.2.d = 0) → p.done < p.count → p.fault = none →
      p.stuck = none → q.gatherRow g p = .ok (row, scales) →
      let k := p.row0 + p.done
      exec (.gathrRowLand g.gid p.id) s = .next (q.modGroup g.gid fun h =>
        let r := h.entry p.entry
        let h := (h.obZero (r.base + k * r.rowbytes) r.rowbytes).obZero (r.base + r.sofs + k * r.nb * 2) (2 * r.nb)
        { h with
          ob := mwle (mwle h.ob (r.base + k * r.rowbytes) row r.rowbytes) (r.base + r.sofs + k * r.nb * 2) scales (2 * r.nb)
          gathers := change (·.id == p.id) (fun x => { x with done := x.done + 1 }) h.gathers })) ∧
    (∀ sq w a b, g.seqs.find? (·.tile == sq.tile) = some sq → g.seqWait sq = some w → sq.done = false → sq.bad = false →
      g.killAt = none → g.accBad = [] →
      let t := w.tileDesc
      let k := g.stepOf sq.tile
      k < t.ksteps → q.operand g t.abase t.astride t.ascale t.asstride t.afmt t.ablk k = .ok a →
      q.operand g t.bbase t.bstride t.bscale t.bsstride t.bfmt t.bblk k = .ok b →
      exec (.mtileKstep g.gid sq.tile) s = .next (q.modGroup g.gid fun h =>
        let h := h.kstep w sq.fid k a b
        { h with
          saveq := sset 0 h.saveq t.tile (k + 1)
          seqs := change (·.tile == t.tile) (fun x => { x with done := k + 1 = t.ksteps }) h.seqs }))

/-- A channel reads its next record: one without own leaves it idle, another is accepted with a promise at most 2^32 ticks
ahead and status 1, or waits as a grid record for a Churn engine, which takes it with its descriptor and table once one is
free (R281, R289, R295). -/
def Sys2Proof.Spec.ChannelTakesRecord : Prop :=
  ∀ (s q : State) (g : Group) (c : Channel), ChannelWorks s g c → AtHome s q g →
    (∀ v, c.job = none → c.cur ≠ 0 → q.engineRead g (c.cur.getLsbD 0) (c.cur.toNat / 64 * 64) 64 = .ok v →
      let b := BitVec.ofNat 512 v
      (v % 2 = 0 → exec (.channelRecordRead g.gid c.n) s = .next (q.modChan g.gid c.n fun c => { c with st := 0 })) ∧
      (v % 2 = 1 → 5 ≤ kindOfRecord b → (Record.of b).malformed = false →
        exec (.channelRecordRead g.gid c.n) s =
          .next (q.modChan g.gid c.n fun x => { x with job := some { bytes := b, ptr := c.cur } })) ∧
      (v % 2 = 1 → kindOfRecord b < 5 → q.recordCause g (Record.of b) = none → recordInPad g c.cur →
        ∃ t p, exec (.channelRecordRead g.gid c.n) s = .next t ∧ p.toNat ≤ q.tick.toNat + 2 ^ 32 ∧
          channelIn t g.gid c.n = some { c with prom := p, job := some { bytes := b, ptr := c.cur, accepted := true } } ∧
          mle t.mem (g.padAddr (c.cur.toNat / 64 * 64)) 8 = control (v % 2 ^ 64) 1 1 ∧
          mle t.mem (g.padAddr (c.cur.toNat / 64 * 64) + 8) 8 = p.toNat)) ∧
    (∀ t p, c.job = some t → 5 ≤ kindOfRecord t.bytes → t.grid = none →
      s.churnBusy (stackOf g.core) < 8 → q.readGrid g (Record.of t.bytes) = .plan p →
      (t.accepted = true →
        exec (.churnTake g.gid c.n) s = .next (q.modChan g.gid c.n fun x => { x with job := some { t with grid := some p } })) ∧
      (t.accepted = false → q.recordCause g (Record.of t.bytes) = none → recordInPad g t.ptr →
        ∃ u pr, exec (.churnTake g.gid c.n) s = .next u ∧ pr.toNat ≤ q.tick.toNat + 2 ^ 32 ∧
          channelIn u g.gid c.n = some { c with prom := pr, job := some { t with grid := some p, accepted := true } } ∧
          mle u.mem (g.padAddr (t.ptr.toNat / 64 * 64)) 8 = control (t.bytes.toNat % 2 ^ 64) 1 1 ∧
          mle u.mem (g.padAddr (t.ptr.toNat / 64 * 64) + 8) 8 = pr.toNat))

/-- A channel moves the next word of a copy or a fill into the scratchpad and fires its divergence target when the word
completes its chunk: with mode 2 the line is full; no other byte of memory changes (R272, R285). -/
def Sys2Proof.Spec.ChannelMovesWord : Prop :=
  ∀ (s q : State) (g : Group) (c : Channel) (t : Transfer) (v : Nat), ChannelWorks s g c → AtHome s q g →
    c.job = some t → t.accepted = true →
    let r := Record.of t.bytes
    let a := r.dstAt t.idx t.pos
    kindOfRecord t.bytes < 5 → (r.indexed = true → t.idx.length = r.rows ∧ t.badIdx = none) →
    t.pos < r.words t.idx → r.dspace = true → g.spb ≤ a → a + 4 ≤ g.spl → offBarriers g a 4 → r.sfmode = 0 → r.dvmode ≠ 1 →
    q.nextFar g t r = none → copied q g t = .ok v →
    ∃ u, exec (.targetFire g.gid c.n) s = .next u ∧ u.mem = mwle q.mem (g.padAddr a) v 4 ∧
      channelIn u g.gid c.n = some { c with job := some { t with pos := t.pos + 1 } } ∧
      (∀ line, (u.full.any (·.1 == line)) =
        (q.full.any (·.1 == line) ||
          (r.dvmode = 2 && (r.chunk t.idx false t.pos).isSome && line = g.padAddr a / 128)))

/-- A record whose last word has moved completes: own is cleared with status 2, the fault word and the count are written
and the channel goes on at the next record, or idles at the end of the chain; a record that is late beyond the fairness
interval is reported once, to the fibre that started it (R286, R290). -/
def Sys2Proof.Spec.ChannelEndsRecord : Prop :=
  ∀ (s : State) (g : Group) (c : Channel) (t : Transfer), ChannelWorks s g c → c.job = some t → t.accepted = true →
    (t.finished = true → recordInPad g t.ptr ∨ t.ptr = 0 →
      let r := Record.of t.bytes
      let fw := BitVec.ofNat 64 (t.flags.toNat * 2 ^ 56)
      ∃ u, exec (.recordComplete g.gid c.n) s = .next u ∧
        channelIn u g.gid c.n = some
          { c with
            lastf := fw
            done := min (c.done + 1) 65535
            cur := r.next
            job := none
            st := if r.next = 0 then 0 else 1 } ∧
        (t.ptr ≠ 0 →
          mle u.mem (g.padAddr (t.ptr.toNat / 64 * 64)) 8 = control (t.bytes.toNat % 2 ^ 64) 2 0 ∧
          mle u.mem (g.padAddr (t.ptr.toNat / 64 * 64) + 56) 8 = fw.toNat)) ∧
    (∀ fb, t.missed = false → c.prom.toNat + g.pol.fair < s.tick.toNat → g.fibre? c.issuer = some fb →
      fb.st ≠ .free → fb.gen = c.issuerGen →
      ∃ u, exec (.promiseMiss g.gid c.n) s = .next u ∧ channelIn u g.gid c.n = some { c with job := some { t with missed := true } } ∧
        (∀ g' f', u.fibre? g' f' =
          if g' = g.gid ∧ f' = c.issuer then
            some { fb with misses := fb.misses ++ [{ kind := 4, cause := 0, detail := c.n, fva := t.ptr }] }
          else s.fibre? g' f') ∧ SameElsewhere s u)

/-- A channel takes its next record, moves its words and fires its targets, and ends it (R272, R281, R285, R286, R289, R290,
R295).
That a channel first brings every dirty byte and notice of its partition home (log entry 59), how its own writes into a record
wait (log entry 57) and when a promise is missed (log entry 61) are the model's choices; promise ticks are a constant without a
body (log entry 9). Stated of records and destinations in the scratchpad and of the divergence and scale modes that the parts
name; transfers into global memory and the other modes are left to the model's text. -/
def Obligations.ChannelEvents : Prop := Sys2Proof.Spec.ChannelTakesRecord ∧ Sys2Proof.Spec.ChannelMovesWord ∧ Sys2Proof.Spec.ChannelEndsRecord

/-! ## Events of memory -/

namespace Sys2Proof.Spec

/-- A command of the supervisor of partition p has completed: s and its status, refused or not (R352). -/
def answered (s : State) (p : Nat) (refused : Bool) : State := s.report p (.status refused)

/-- Every translation of vf that meets page is gone from t; those of other virtual functions stand. -/
def Untranslated (s t : State) (vf page : Nat) : Prop :=
  (∀ core st, t.held? core st vf page = none) ∧ ∀ core st v p, v ≠ vf → t.held? core st v p = s.held? core st v p

/-- No store of a fibre of vf is unacknowledged, and no request to a peer is out (R341). -/
def Settled (s : State) (vf : Nat) : Prop :=
  s.peers = [] ∧ ∀ h ∈ s.groups, h.vf = vf → ∀ fb ∈ h.fibres, fb.unacked = 0

/-- A fibre that a fault on a page held, set going again at the same packet (R340). -/
def goesOn (now : DWord) (fb : Fibre) : Fibre :=
  { fb with
    held := none
    sent := false
    rdy := now
    wait := fb.wait.map fun w => { w with resumed := true } }

/-- The page of an address, and its frame. -/
def inFrame (frame a : Nat) : Prop := a / 65536 = frame

/-- The whey bytes of a frame (R243). -/
def inWhey (frame a : Nat) : Prop := 2 ^ 52 + frame * 8192 ≤ a ∧ a < 2 ^ 52 + frame * 8192 + 8192

end Sys2Proof.Spec

/-- A walk gives every stack that asked the leaf it finds, with A set and D set for a write to a writable page, or notes
the cause of its failure for the page and who asked; an invalidation leaves no translation of its pages, and completes at
once or waits for the stores not acknowledged (R336 to R339, R341). -/
def Sys2Proof.Spec.WalksAndInvalidation : Prop :=
  ∀ (s : State) (vf p : Nat) (v : VirtualFunction), s.vf? vf = some v → v.part = some p →
    (∀ w page, (s.walks.find? fun w => w.vf == vf && w.page == page) = some w → w.started = true → w.askers ≠ [] →
      let found := (s.walkFrom p page 4 v.tableRoot.toNat).1
      ∃ t, exec (.pageWalk vf page) s = .next t ∧
        (found ≠ .held → ∀ u ∈ t.walks, ¬(u.vf = vf ∧ u.page = page)) ∧
        (∀ l, found = .leaf l → (∀ st ∈ w.askers, s.held? none st vf page = none) →
          ∀ st ∈ w.askers, ∃ e, t.held? none st vf page = some e ∧ e.page = l.page ∧ e.pages = l.pages ∧
            e.entry = l.entry ||| 1#64 <<< 10 ||| (if w.write && l.entry.getLsbD 4 then 1#64 <<< 11 else 0)) ∧
        (∀ c bad, found = .fault c bad →
          ∃ r, t.note? p vf page = some r ∧ r.cause = c ∧ r.leaf = bad ∧ r.tick = s.tick ∧ r.by_ = w.by_)) ∧
    (∀ lo hi, s.invalidations = [] →
      let u := s.dropPages vf lo hi
      u.mem = s.mem ∧ (∀ page, lo ≤ page → page < hi → Untranslated s u vf page) ∧
      (Settled s vf → exec (.invalidate p vf lo hi) s = .next (answered u p false)) ∧
      ((∃ g fb, s.group? g.gid = some g ∧ g.vf = vf ∧ g.fibre? fb.fid = some fb ∧ fb.unacked ≠ 0) →
        ∃ w, exec (.invalidate p vf lo hi) s = .next { u with invalidations := [w] } ∧ w.part = p ∧ w.owed ≠ [])) ∧
    (∀ p' lo hi, p' ≠ p → exec (.invalidate p' vf lo hi) s = .next (answered s p' true))

/-- A fault record that is resolved lets the fibres that joined it translate again, held by a trap or in an LDWT; one that
is unresolvable sends them into their handlers with kind 6 (R224, R340, R344). -/
def Sys2Proof.Spec.FaultRecordAnswered : Prop :=
  (∀ (s : State) (vf p page : Nat) (v : VirtualFunction) (g : Group) (fb : Fibre) (w : Wait), s.vf? vf = some v →
    v.part = some p → s.group? g.gid = some g → g.vf = vf → g.fibre? fb.fid = some fb → fb.wait = some w → opcode w = 0x6C →
    w.bound = 1 → w.a.toNat / 65536 = page → s.joined vf page = [] →
    ∃ t u, exec (.resolved p vf page) s = .next (answered t p false) ∧ t.record? p vf page = none ∧
      t.fibre? g.gid fb.fid = some u ∧ u.ctx = fb.ctx ∧ u.wait = some { w with bound := 0 }) ∧
  ∀ (s : State) (vf p page : Nat) (v : VirtualFunction) (g : Group) (fb : Fibre) (tr : Trap), s.vf? vf = some v →
    v.part = some p → s.group? g.gid = some g → g.vf = vf → g.fibre? fb.fid = some fb → fb.held = some tr →
    tr.kind = 10 → tr.fva.toNat / 65536 = page → s.joined vf page = [(g.gid, fb.fid, tr)] →
    (∀ h ∈ s.groups, ∀ x ∈ h.fibres, x.rejoin page = x) →
    (∃ t, exec (.resolved p vf page) s = .next (answered t p false) ∧ t.record? p vf page = none ∧
      t.fibre? g.gid fb.fid = some (goesOn s.tick fb) ∧
      ∀ g' f', ¬(g' = g.gid ∧ f' = fb.fid) → t.fibre? g' f' = s.fibre? g' f') ∧
    ((∀ h ∈ s.groups, (∀ c ∈ h.chans, c.stuck ≠ some page) ∧ ∀ q ∈ h.gathers, q.stuck ≠ some page) →
      fb.ctx.inhandler = false → handlerFits (s.handlerOf g.part g.region) → tr.cause < 256 → tr.detail < 2 ^ 16 →
      ∃ t, exec (.unresolvable p vf page) s = .next (answered t p false) ∧ t.record? p vf page = none ∧
        t.fibre? g.gid fb.fid = some
          (entered (goesOn s.tick fb) (BitVec.ofNat 64 (s.handlerOf g.part g.region)) s.tick { tr with kind := 6 }) ∧
        ∀ g' f', ¬(g' = g.gid ∧ f' = fb.fid) → t.fibre? g' f' = s.fibre? g' f')

/-- Walks, invalidations and the supervisor's answers to fault records take effect (R336 to R341, R344).
The life of a failed walk's result and the naming of a function beside its partition are the model's reading (log
entries 71, 72 and 74). -/
def Obligations.WalksAndFaultRecords : Prop := Sys2Proof.Spec.WalksAndInvalidation ∧ Sys2Proof.Spec.FaultRecordAnswered

/-- A remap to other frames of the partition opens a dual-home window and copies the page as its lines stand where they
are coherent; a write in the window reaches both homes; the switch installs the new entry in the leaf, drops the old
translation everywhere and returns the old frames (R333).
That the copy is made as the window opens is the model's choice (log entry 73). -/
def Obligations.RemapMovesPage : Prop :=
  (∀ (s : State) (vf p page : Nat) (v : VirtualFunction) (l : Leaf) (entry : DWord), s.vf? vf = some v → v.part = some p →
    page < 2 ^ 44 → s.walkHeld p vf page = false → s.retries = [] →
    let q := ((s.quiesce p).leafOf p vf page).2
    let old := pteAddr l.entry / 65536
    let new := pteAddr entry / 65536
    ((s.quiesce p).leafOf p vf page).1 = some l → pteMalformed entry l.level = false → entry.getLsbD 0 = true →
    entry.getLsbD 2 = true → (∀ k, k < l.pages → q.owns p (pteAddr entry + 65536 * k) = true) →
    pteSide l.entry = false → pteSide entry = false → (∀ r ∈ q.remaps, ¬(r.vf = vf ∧ r.page = l.page)) →
    old + l.pages ≤ new ∨ new + l.pages ≤ old → q.framesUp old l.pages = true → q.framesUp new l.pages = true →
    ∃ t, exec (.remap p vf page entry) s = .next t ∧ t.parts = q.parts ∧ t.tlb = q.tlb ∧
      t.remaps = q.remaps ++
        [{ part := p, vf := vf, page := l.page, pages := l.pages, old := l.entry, new := entry }] ∧
      ∀ k, k < 65536 * l.pages →
        mread t.mem (new * 65536 + k) = (q.homeLine (old * 256 + k / 256)).extractLsb' (8 * (k % 256)) 8) ∧
  (∀ (s : State) (r : Remap) (pa n v : Nat), s.remaps = [r] → pteAddr r.old ≤ pa → pa < pteAddr r.old + 65536 * r.pages →
    pa + n ≤ pa - pteAddr r.old + pteAddr r.new ∨ pa - pteAddr r.old + pteAddr r.new + n ≤ pa →
    mle (s.homeWrite pa n v).mem pa n = v % 256 ^ n ∧
    mle (s.homeWrite pa n v).mem (pa - pteAddr r.old + pteAddr r.new) n = v % 256 ^ n) ∧
  (∀ (s : State) (vf p page : Nat) (v : VirtualFunction) (l : Leaf) (r : Remap), s.vf? vf = some v → v.part = some p →
    (s.remaps.find? fun r => r.part == p && r.vf == vf && r.page == page) = some r → s.invalidations = [] → Settled s vf →
    s.walkHeld p vf page = false → s.framesUp (pteAddr r.new / 65536) r.pages = true →
    let q : State := { s.quiesce p with remaps := s.remaps.filter fun r => !(r.part == p && r.vf == vf && r.page == page) }
    q.remaps = [] → (q.leafOf p vf page).1 = some l →
    ∃ t u, exec (.remapSwitch p vf page) s = .next (answered u p false) ∧
      u = (List.range r.pages).foldl (fun u k => u.report p (.returned (pteAddr r.old / 65536 + k))) t ∧
      mle t.mem l.at_ 8 = r.new.toNat ∧ ∀ core st, t.held? core st vf page = none)

/-- An eviction removes the copy and sends a numbered notice with its dirty bytes; the notice of an L2 is applied at the
home; a request waits for the child's notices before it is served; an owner's cluster is the only one with copies of its
line, exclusively owned, and a request from outside the line's partition is a violation; a forced publish leaves its holder
nothing dirty; a late one lets the read be served and is reported; a refused access translates again (R230, R322 to R324,
R328 to R330, R333, R360, R367, R368).
That an owner's request fetches every dirty byte first and a child's notices are applied together is the model's reading (log
entries 59 and 120). -/
def Obligations.CoherenceEvents : Prop :=
  ∀ (s : State),
    (∀ u line c, s.copy? u line = some c → s.line? line = none → s.notices = [] →
      (∀ d ∈ s.copies, d.line ≠ line → d.dirty = 0) →
      ∃ t n, exec (.capacityEviction u line) s = .next t ∧ t.copy? u line = none ∧ t.mem = s.mem ∧
        t.notices.getLast? = some n ∧ n.child = u ∧ n.line = line ∧ n.data = c.data ∧ n.dirty = c.dirty ∧
        n.seq = ((s.sent.find? (·.1 == u)).map (·.2)).getD 0 + 1) ∧
    (∀ n rest st, s.notices = n :: rest → n.child = .l2 st → s.remaps = [] →
      ∃ t, exec (.evictionNotice n.child) s = .next t ∧ t.notices = rest ∧
        ∀ a, mread t.mem a =
          if a / 256 = n.line ∧ n.dirty.getLsbD (a % 256) then n.data.extractLsb' (8 * (a % 256)) 8 else mread s.mem a) ∧
    (∀ child line, (∃ n ∈ s.notices, n.child = child ∧ n.line = line) →
      ∃ t, exec (.goneReply child line) s = .next t ∧ ∀ n ∈ t.notices, n.child ≠ child) ∧
    (∀ core line, s.holdsAddr (s.clusterPart (clusterOf core)) (line * 256) = true → s.line? line = none →
      s.hostBiased (line * 256) = true → exec (.ownershipRequest core line) s = .next (s.settle line)) ∧
    (∀ core line, s.holdsAddr (s.clusterPart (clusterOf core)) (line * 256) = true → s.line? line = none →
      s.hostBiased (line * 256) = false →
      ∃ t, exec (.ownershipRequest core line) s = .next t ∧ ∀ c ∈ t.copies, c.line = line →
        (c.unit = .l1 core ∨ c.unit = .ck (clusterOf core)) ∧ c.dirty = 0 ∧ c.excl = c.sectors) ∧
    (∀ core line g rest, s.holdsAddr (s.clusterPart (clusterOf core)) (line * 256) = false → s.groupsOn core = g :: rest →
      exec (.ownershipRequest core line) s = .next (s.violate g.part (.group g.gid))) ∧
    (∀ k line q, q ∈ s.publishes → q.isSent (.ck k) line = true →
      ∃ t, exec (.forcedPublish (.ck k) line) s = .next t ∧ (∀ d ∈ t.copies, unitCluster d.unit = some k → d.dirty = 0) ∧
        ∀ r ∈ t.publishes, r.isSent (.ck k) line = false) ∧
    (∀ st line q, q ∈ s.publishes → q.isSent (.l2 st) line = true →
      ∃ t, exec (.forcedPublish (.l2 st) line) s = .next t ∧
        (∀ d ∈ t.copies, d.unit = .l2 st → d.part = s.clusterPart (clusterOf q.reader) → d.dirty = 0) ∧
        ∀ r ∈ t.publishes, r.isSent (.l2 st) line = false) ∧
    (∀ holder line q, q ∈ s.publishes → q.isSent holder line = true → q.since.toNat + 65536 ≤ s.tick.toNat →
      ∃ t, exec (.forcedPublishDeadline holder line) s = .next t ∧ { t with publishes := s.publishes, parts := s.parts } = s ∧
        (∀ r ∈ t.publishes, r.isSent holder line = true → s.tick.toNat < r.since.toNat + 65536) ∧
        ∀ p, s.part? (s.clusterPart (clusterOf q.reader)) = some p →
          ∃ p', t.part? p.id = some p' ∧ Report.publish line ∈ p'.reports) ∧
    (∀ core vf page, ∃ t, exec (.movedRefusal core vf page) s = .next t ∧ { t with tlb := s.tlb } = s ∧
      ∀ e, e ∈ t.tlb ↔ e ∈ s.tlb ∧ ¬(e.core = some core ∧ e.vf = vf ∧ e.page ≤ page ∧ page < e.page + e.pages))

/-- Every event of the coherence directories completes in every state, and changes no fibre, no core, no tick and no full
bit: its effects stay in the caches, the notices, the homes and the translations (R230, R322, R323, R328 to R330, R333). -/
def Obligations.CoherenceEventsComplete : Prop :=
  ∀ (s : State) (u : CacheId) (core line vf page : Nat),
    ∀ i ∈ [Instr.capacityEviction u line, .evictionNotice u, .goneReply u line, .ownershipRequest core line,
      .forcedPublish u line, .forcedPublishDeadline u line, .movedRefusal core vf page],
      ∃ t, exec i s = .next t ∧ (∀ g f, t.fibre? g f = s.fibre? g f) ∧ t.cores = s.cores ∧ t.tick = s.tick ∧
        t.full = s.full ∧ t.agenda = s.agenda ∧ t.cur = s.cur

/-- The number of one bits of a 32-byte word. -/
def Sys2Proof.Spec.oneBits (x : BitVec 256) : Nat := ((List.range 256).filter x.getLsbD).length

/-- A soft error flips its bits and is recorded; one bit of an operand store is corrected and counted, more make the word
uncorrectable (R195); the patrol corrects a correctable one in place; a scrub of an owned frame
zeroes its bytes and its whey and holds writes to it until it ends; a resource of another partition is refused (R241 to
R243, R352, R369, R370).
A patrol's protection and a scrub in one step are the model's reading (log entries 75 and 93), and so are the code words of the
operand stores, 32 bytes of a group that is not descheduled (log entries 45 and 129). -/
def Obligations.ErrorsAndScrubs : Prop :=
  ∀ (s : State),
    (∀ addr flips, addr < 2 ^ 49 ∨ 2 ^ 50 ≤ addr ∧ addr < 2 ^ 52 → sget 0 s.errors (addr / 32) = 0 →
      ∃ t, exec (.softError (.memory addr) flips) s = .next t ∧ sget 0 t.errors (addr / 32) = BitVec.setWidth 288 flips ∧
        ∀ a, mread t.mem a =
          if a / 32 = addr / 32 then mread s.mem a ^^^ flips.extractLsb' (8 * (a % 32)) 8 else mread s.mem a) ∧
    (∀ (g : Group) (k : Nat) (flips : BitVec 256), s.group? g.gid = some g → g.st ≠ .descheduled → 32 * k < g.kern.opbytes →
      (oneBits flips = 1 → exec (.softError (.operand g.gid k) flips) s = .next (s.operandError g true)) ∧
      (2 ≤ oneBits flips →
        exec (.softError (.operand g.gid k) flips) s = .next (s.modGroup g.gid fun h => { h with obBad := h.obBad ++ [k] }))) ∧
    (∀ k, sget 0 s.errors k ≠ 0 → (sget 0 s.errors k).extractLsb' 256 32 = 0 → s.protOf (32 * k) ≠ 2 →
      correctable (s.protOf (32 * k)) (sget 0 s.errors k) = true →
      ∃ t, exec (.scrubPatrol k) s = .next t ∧ sget 0 t.errors k = 0 ∧
        ∀ a, mread t.mem a =
          if a / 32 = k then mread s.mem a ^^^ (sget 0 s.errors k).extractLsb' (8 * (a % 32)) 8 else mread s.mem a) ∧
    (∀ frame, exec (.scrubHoldEnd frame) s = .next
      { s with scrubbing := s.scrubbing.filter (· ≠ frame), heldWrites := sdel frame s.heldWrites }) ∧
    (∀ p frame, s.owns p (frame * 65536) = true →
      ∃ t, exec (.scrub p (.frame frame)) s = .next (answered t p false) ∧ frame ∈ t.scrubbing ∧
        (∀ e ∈ t.tlb, ¬(pteAddr e.entry / 65536 ≤ frame ∧ frame < pteAddr e.entry / 65536 + e.pages)) ∧
        ∀ a, (inFrame frame a ∨ inWhey frame a → mread t.mem a = 0) ∧
          (¬inFrame frame a → ¬inWhey frame a → mread t.mem a = mread s.mem a)) ∧
    (∀ p frame, s.owns p (frame * 65536) = false → exec (.scrub p (.frame frame)) s = .next (answered s p true)) ∧
    (∀ p core, core ∈ s.coresOf p →
      ∃ t, exec (.scrub p (.watchpoints core)) s = .next (answered t p false) ∧ (t.core core).watch = [] ∧ t.mem = s.mem)

/-! ## Lives of groups -/

namespace Sys2Proof.Spec

/-- A fibre as a launch starts it at slot f (R15, R88, R142). -/
def startedBy (l : Launch) (now : DWord) (f : Nat) : Fibre :=
  { fid := f, st := .ready, pc := l.kern.entry, rdy := now, ctx := { regs := l.args } }

/-- A slot in which a launch starts a fibre: one of the first fibres of a team (R15). -/
def starts (l : Launch) (f : Nat) : Bool := f / 32 < l.kern.teams && f % 32 < l.kern.fibres

/-- Group g has ended as after a kill with a cause and a code: every fibre is free, its tiles, buffers and reservations
are zero (R216, R410). -/
def killed (t : State) (gid cause : Nat) (code : Word) : Prop :=
  ∃ h, t.group? gid = some h ∧ h.exit = some (cause, code) ∧ h.st = .ended ∧ h.res = [] ∧ h.ob = [] ∧ h.btiles = [] ∧
    h.acc = [] ∧ (∀ f fb, h.fibre? f = some fb → fb.st = .free ∧ fb.wait = none) ∧
    ∀ k r, (t.core k).run = some r → r.grp ≠ gid

/-- A descheduled group that resumes (R103, R358, R359): its ages kept, its waits told so, its channels going on. -/
def resumes (now : DWord) (g : Group) : Group :=
  { g with
    resume := false
    frame := none
    overBudget := false
    fibres := g.fibres.map fun fb =>
      { fb with
        rdy := now - fb.age
        wait := fb.wait.map fun w => { w with resumed := true } }
    chans := g.chans.map fun c => { c with paused := false } }

end Sys2Proof.Spec

/-- A core without a run starts the bundle of its choice, which no ready bundle exceeds in priority: its members issue from
the run's packet with latches zero, and no other fibre and no byte of memory changes (R61, R64, R122). -/
def Sys2Proof.Spec.PickStartsRun : Prop :=
  ∀ (s : State) (core : Nat) (b : Bundle) (g : Group), (s.core core).run = none → s.traceFull core = false →
    s.fetchMisses core = [] → s.choose core = some b → s.group? b.grp = some g → s.edge g.part = true →
    (∀ o ∈ s.bundles core, o.prio ≤ b.prio) ∧
    ∃ t, exec (.bundlePick core) s = .next t ∧ t.mem = s.mem ∧
      (t.core core).run = some { grp := b.grp, fids := b.fids, start := b.pc, pkt := b.pc, mc := b.mc } ∧
      ∀ g' f, t.fibre? g' f =
        if g' = b.grp ∧ f ∈ b.fids then
          (s.fibre? g' f).map fun fb => { fb with st := .issuing, ctx := { fb.ctx with lat := {} } }
        else s.fibre? g' f

/-- The next group of a launch enters on the core chosen for it with its fibres ready at the entry packet, the arguments in
their registers; a queue with enough records launches one successor group with the claimed records' address and number; a
group that has ended and drained leaves; a region that has used up its budget deschedules its groups (R15, R112, R116,
R131, R134). -/
def Sys2Proof.Spec.PlacementEvents : Prop :=
  (∀ (s : State) l st index g, s.launch? l.id = some l → l.claim = none → l.nextOn st = some index → s.stackUp st = true →
    s.stopped l.part = false → l.kern.fibres ≤ 32 →
    s.coreFor (s.newGroup l index) ((coreSet (s.coresOf l.part)).filter (stackOf · == st)) false false = some g →
    (∀ a n, s.padSource g = some (a, n) → (s.virtBytes g.part g.vf a n).2.awayIn g.part g.vf a n = false) →
    ∃ t, exec (.groupPlacement l.id st) s = .next t ∧ t.groups = s.groups ++ [g] ∧ g.gid = s.serial ∧ g.index = index ∧
      g.kern = l.kern ∧ g.st = .placed ∧ stackOf g.core = st ∧
      ∀ f, g.fibre? f = if starts l f then some (startedBy l s.tick f) else none) ∧
  (∀ (s : State) vf desc q part d n m k, s.graphQueue? vf desc = some q → (s.vf? vf).bind (·.part) = some part →
    (s.readDesc part vf desc).1 = some d → (s.readDesc part vf desc).2.successorClaim q d = some (n, m) →
    (∀ e ∈ q.taken, e.2 ≠ 2) → s.roomForLaunch part s.serial = true →
    let b := (s.readDesc part vf desc).2.virtBytes part vf d.succ 64
    let rec_ := LaunchRecord.ofBytes (b.1.getD [])
    b.1 ≠ none → (b.2.image? q.image).bind (·.kernels[rec_.khdr]?) = some k →
    ∃ t l, exec (.successorGroupLaunch vf desc) s = .next t ∧ t.launches = b.2.launches ++ [l] ∧ l.kern = k ∧
      l.total = 1 ∧ l.claim = some (desc, n, m) ∧ sget 0 l.args 0 = BitVec.ofNat 32 (d.ring + 64 * (n % d.cap)) ∧
      sget 0 l.args 1 = BitVec.ofNat 32 ((d.ring + 64 * (n % d.cap)) / 2 ^ 32) ∧ sget 0 l.args 2 = BitVec.ofNat 32 m ∧
      sget 0 l.args 3 = BitVec.ofNat 32 n) ∧
  (∀ (s : State) g l, s.group? g.gid = some g → g.st = .ended → (∀ fb ∈ g.fibres, fb.unacked = 0) →
    s.inRun g.gid = false → s.stopped g.part = false → (∀ c ∈ g.chans, c.job = none ∧ c.owed = [] ∧ (c.st = 0 ∨ c.st = 3)) →
    s.launch? g.launch = some l → l.ended + 1 < l.total → g.exit ≠ none → s.stackStates = [] →
    ∃ t, exec (.groupAllotmentReturn g.gid) s = .next t ∧ (∀ h ∈ t.groups, h.gid ≠ g.gid) ∧
      ∃ m, t.launch? g.launch = some m ∧
        if (g.exit.map (·.1)) = some 2 ∧ g.pol.relaunch ∧ g.kern.relaunch ∧ sget 0 l.kills g.index < 4 then
          m = { l with again := l.again ++ [(g.index, stackOf g.core)] }
        else m.ended = l.ended + 1 ∧ m.again = l.again) ∧
  (∀ (s : State) block g rest, s.placedIn block = g :: rest → s.tickBudget g.part block ≠ 0 →
    s.tickBudget g.part block ≤ mle s.mem (block + 64) 8 →
    ∃ t : State, exec (.tickBudgetExhausted block) s = .next (t.report g.part (.budget block)) ∧
      { t with groups := s.groups } = s ∧
      t.groups = s.groups.map fun h =>
        if ∃ p ∈ g :: rest, p.gid = h.gid then { h with st := .stopping, overBudget := true } else h)

/-- The picker starts a run, groups are placed, launched by a graph queue, leave, and are descheduled by a budget (R15, R61,
R64, R112, R116, R122, R131, R134).
Numbers of groups, and what their end takes with it, are the model's reading (log entries 20, 39 and 41). -/
def Obligations.PickAndPlacement : Prop := Sys2Proof.Spec.PickStartsRun ∧ Sys2Proof.Spec.PlacementEvents

/-- A pre-empted group starts no new run, and once it rests and has drained its record is saved and its core is given up;
resumed, it is placed with its ages, waits and channels; a kill ends every fibre at once, by the supervisor with cause 3,
after a faulted operand fetch with 2, for lost stores with 6 (R216, R352, R354, R359 to R361).
Rest before a save and where the save frame lies are the model's reading (log entries 17, 82 and 84). -/
def Obligations.GroupLives : Prop :=
  ∀ (s : State) (g : Group), s.group? g.gid = some g → g.exit = none →
    (g.st = .placed → exec (.preempt g.part g.gid) s =
      .next (answered (s.modGroup g.gid fun h => { h with st := .stopping }) g.part false)) ∧
    (∀ p, p ≠ g.part → exec (.preempt p g.gid) s = .next (answered s p true) ∧
      exec (.kill p g.gid) s = .next (answered s p true)) ∧
    (∀ frame, g.st = .stopping → s.inRun g.gid = false → s.stopped g.part = false → (∀ fb ∈ g.fibres, fb.unacked = 0) →
      (∀ c ∈ g.chans, c.job = none ∧ c.owed = [] ∧ (c.st = 0 ∨ c.st = 3 ∨ c.paused = true)) →
      (∀ fb ∈ g.fibres, fb.entry = none ∧ fb.misses = []) →
      let khdr := ((s.launch? g.launch).map (·.khdr)).getD 0
      s.maySave g frame (((g.contextRecord g.gridx khdr s.tick).length + 65535) / 65536) = true →
      ∃ t h, exec (.contextSave g.gid frame) s = .next t ∧ t.group? g.gid = some h ∧ h.st = .descheduled ∧
        h.drain = none ∧ h.frame = some frame ∧ h.fibres = g.fibres.map fun fb =>
          { fb.landAll with
            age := if fb.st = .ready ∧ fb.held = none ∧ fb.sysc = none then s.tick - fb.rdy else 0
            wrote := []
            synced := false }) ∧
    (∀ h, g.st = .descheduled → g.resume = true → s.stackUp (stackOf g.core) = true → s.stopped g.part = false →
      s.coreFor g g.resumeCores true (g.pinned || g.undrained) = some h →
      ∃ t, exec (.resumeGroup g.part g.gid) s = .next t ∧ t.group? g.gid = some (resumes s.tick h) ∧ h.st = .placed ∧
        h.core ∈ g.resumeCores) ∧
    (∃ t, exec (.kill g.part g.gid) s = .next (answered t g.part false) ∧ killed t g.gid 3 0) ∧
    (∀ va, g.killAt = some va → ∃ t, exec (.groupKill g.gid) s = .next t ∧ killed t g.gid 2 0) ∧
    (∃ t, exec (.declareStoresLost g.part g.gid) s = .next (answered t g.part false) ∧ killed t g.gid 6 0 ∧
      (∀ f fb, t.fibre? g.gid f = some fb → fb.unacked = 0) ∧ ∀ w ∈ t.peers, ¬(w.grp = g.gid ∧ w.store = true))

/-! ## The supervisor's commands, and watching the machine -/

namespace Sys2Proof.Spec

/-- A fibre set going at another packet: the wait it stood in is abandoned (R101, R352). -/
def restarted (pc now : DWord) (fb : Fibre) : Fibre :=
  { fb with held := none, sent := false, sysc := none, wait := none, st := .ready, pc := pc, mc := none, rdy := now }

/-- The registers that the supervisor reaches of a fibre it holds: of a call the eight from its register on, else all of
the group's window (R349, R352). -/
def reached (g : Group) (fb : Fibre) : Nat × Nat :=
  match fb.sysc with
  | some (_, r) => (r, 8)
  | none => (0, g.kern.window)

/-- The bytes of n registers from r on. -/
def registerBytes (fb : Fibre) (r n : Nat) : List Byte :=
  (List.range n).flatMap fun k => leBytes (sget 0 fb.ctx.regs (r + k)).toNat 4

/-- A region block that partition q can have at addr below parent (R110, R111). -/
def regionFits (s : State) (q : Partition) (addr parent : Nat) : Bool :=
  addr % 128 = 0 && addr ≠ 0 && s.owns q.id addr && !q.regions.contains addr && q.regions.length < 4096 &&
    parentFits s q parent
where
  /-- No parent, or a region of the partition less than eight levels deep. -/
  parentFits (s : State) (q : Partition) (parent : Nat) : Bool :=
    parent = 0 || (q.regions.contains parent && (s.ancestors 8 parent).length < 8)

/-- The fault domain that a region block written at addr names stays in the partition, where the block sets one (R111,
R352). -/
def domainFits (q : Partition) (addr : Nat) (block : BitVec 512) : Bool :=
  let fdom := block.toNat / 2 ^ 64 % 2 ^ 64
  !block.getLsbD 480 || fdom = 0 || fdom = addr || q.regions.contains fdom

/-- The byte at a of a region block written at addr: the 64 bytes of software, with the reserved bits of prio, flags and ovr
zero, and zero counters above (R6, R110). -/
def blockByte (block : BitVec 512) (addr a : Nat) : Byte :=
  let b := block.extractLsb' (8 * (a - addr)) 8
  let k := a - addr
  if k = 54 ∨ k = 55 then b &&& 0x0F
  else if k = 61 then b &&& 0x1F
  else if k = 62 ∨ k = 63 then 0
  else if k < 64 then b
  else 0

/-- Levels of the tree below a region, its own the first (R111). -/
def levelsBelow (s : State) (q : Partition) (addr : Nat) : Nat :=
  (q.regions.filterMap fun b =>
    if (s.ancestors 8 b).contains addr then some ((s.ancestors 8 b).idxOf addr + 1) else none).foldl max 1

/-- A parent under which a region of partition q can be put: none, or a region that does not lie below it, with room for
its levels among eight (R111). -/
def movesTo (s : State) (q : Partition) (addr parent : Nat) : Bool :=
  parent = 0 || (q.regions.contains parent && !(s.ancestors 8 parent).contains addr &&
    (s.ancestors 8 parent).length + levelsBelow s q addr ≤ 8)

/-- The blocks whose charges an edit of the block at addr writes again: it and its ancestors, new and old (R110, R112). -/
def chargedBlocks (s : State) (addr : Nat) (block : BitVec 512) : List Nat :=
  let u := s.putBlock addr block
  let old := mle s.mem addr 8
  u.ancestors 8 addr ++ if old = 0 then [] else (u.recharge addr).ancestors 8 old

/-- Of all cores only core k has changed, into c, and nothing else. -/
def CoreOnly (s t : State) (k : Nat) (c : Core) : Prop :=
  (∀ j, t.core j = if j = k then c else s.core j) ∧ { t with cores := s.cores } = s

/-- No group that meets a test is alive. -/
def AllEnded (t : State) (p : Group → Prop) : Prop := ∀ n g, t.group? n = some g → p g → g.exit ≠ none

/-- A virtual function has no live group, no image and no translation. -/
def Emptied (t : State) (vf : Nat) : Prop :=
  AllEnded t (·.vf = vf) ∧ (∀ m ∈ t.images, m.vf ≠ vf) ∧ ∀ core st page, page < 2 ^ 44 → t.held? core st vf page = none

/-- The 32 bytes of a trace record as one number (R406). -/
def recordNumber (r : TraceRecord) : Nat :=
  r.tick.toNat + 2 ^ 64 * (r.core % 1024) + 2 ^ 80 * r.seq.toNat + 2 ^ 96 * (r.kind % 256) + 2 ^ 104 * (r.slot % 256) +
    2 ^ 112 * (r.fid % 65536) + 2 ^ 128 * r.mask.toNat + 2 ^ 160 * r.payload.toNat

/-- Whether each of the n bytes from an address lies in a frame of partition p: the frame of its first byte, and each
further one that they reach. -/
def ownsRing (s : State) (p base n : Nat) : Bool :=
  n = 0 || (List.range ((base % 65536 + n - 1) / 65536 + 1)).all fun k => s.owns p ((base / 65536 + k) * 65536)

/-- A group whose freeze is ended: its waits are told so, and a channel frozen for a violation of its own stays frozen
(R103, R368). -/
def thawed (g : Group) : Group :=
  { g with
    frozen := false
    fibres := g.fibres.map fun fb => { fb with wait := fb.wait.map fun w => { w with resumed := true } } }

/-- The code of a request to freeze a scope at a tick (R411): 1 for a tick that is less than 2048 ahead, 2 while another
freeze that meets the scope is pending or in force, else 0. -/
def freezeCode (s : State) (busy : Bool) (at_ : DWord) : Nat :=
  if at_.toNat < s.tick.toNat + 2048 then 1 else if busy then 2 else 0

/-- The counters of a partition in their order (R409): the eleven of R244, the energy on each stack, and of each core the
cycles that trace has cost it, the records it has dropped and the errors corrected. -/
def snapshotOf (s : State) (q : Partition) : List DWord :=
  (List.range 11).map (sget 0 q.counters) ++ (List.range 8).map (fun st => sget 0 s.energy (8 * q.id + st)) ++
    (s.coresOf q.id).flatMap fun c => [(s.core c).trace.perturb, (s.core c).trace.drops, (s.core c).corrected]

end Sys2Proof.Spec

/-- A held fibre resumes where it is, or at a packet that the supervisor names; it takes a delivered trap into its handler;
its registers in reach are read, after its record unless it is in a call, and written; any other write, and a command for a
fibre that is not held, is refused (R342, R349, R352).
What an abandoned wait leaves and which registers are in reach are the model's reading (log entries 86 and 87). -/
def Obligations.SupervisorFibreCommands : Prop :=
  ∀ (s : State) (g : Group) (fb : Fibre), s.group? g.gid = some g → g.exit = none → g.fibre? fb.fid = some fb →
    (fb.held = none → ∀ pc, exec (.resume g.part g.gid fb.fid pc) s = .next (answered s g.part true) ∧
      exec (.deliver g.part g.gid fb.fid) s = .next (answered s g.part true)) ∧
    ∀ tr, fb.held = some tr →
      (∃ t, exec (.resume g.part g.gid fb.fid none) s = .next (answered t g.part false) ∧
        OnlyFibre s t g.gid fb.fid { goesOn s.tick fb with sysc := none }) ∧
      (∀ pc, ∃ t, exec (.resume g.part g.gid fb.fid (some pc)) s = .next (answered t g.part false) ∧
        (∀ g' f', t.fibre? g' f' = if g' = g.gid ∧ f' = fb.fid then some (restarted pc s.tick fb) else s.fibre? g' f') ∧
        ((∀ w, fb.wait = some w → w.arr = .none) → OnlyFibre s t g.gid fb.fid (restarted pc s.tick fb))) ∧
      (fb.ctx.inhandler = false → handlerFits (s.handlerOf g.part g.region) → tr.kind < 16 → tr.cause < 256 →
        tr.detail < 2 ^ 16 →
        ∃ t, exec (.deliver g.part g.gid fb.fid) s = .next (answered t g.part false) ∧
          OnlyFibre s t g.gid fb.fid
            (entered { fb with held := none, sent := false, sysc := none }
              (BitVec.ofNat 64 (s.handlerOf g.part g.region)) s.tick tr)) ∧
      (let w := reached g fb
       let age := if g.st = .descheduled then fb.age.toNat else 0
       let l := (if fb.sysc.isSome then [] else fb.record age) ++ registerBytes fb w.1 w.2
       exec (.readContext g.part g.gid fb.fid) s = .next (answered (s.report g.part (.context l)) g.part false) ∧
       (fb.record age).length = 192 ∧
       ∀ n v, (w.1 ≤ n ∧ n < w.1 + w.2 →
          ∃ t, exec (.writeRegisters g.part g.gid fb.fid (.reg n v)) s = .next (answered t g.part false) ∧
            OnlyFibre s t g.gid fb.fid { fb with ctx := { fb.ctx with regs := sset 0 fb.ctx.regs n v } }) ∧
        (¬(w.1 ≤ n ∧ n < w.1 + w.2) →
          exec (.writeRegisters g.part g.gid fb.fid (.reg n v)) s = .next (answered s g.part true))) ∧
      (∀ v, if fb.sysc.isSome then
          exec (.writeRegisters g.part g.gid fb.fid (.preds v)) s = .next (answered s g.part true)
        else ∃ t, exec (.writeRegisters g.part g.gid fb.fid (.preds v)) s = .next (answered t g.part false) ∧
          OnlyFibre s t g.gid fb.fid (withPreds fb fun k => v.getLsbD k)) ∧
      (∀ n v, if fb.sysc = none ∧ 1 ≤ n ∧ n ≤ 7 then
          ∃ t, exec (.writeRegisters g.part g.gid fb.fid (.deadline n v)) s = .next (answered t g.part false) ∧
            OnlyFibre s t g.gid fb.fid { fb with ctx := { fb.ctx with dl := sset 0 fb.ctx.dl n v } }
        else exec (.writeRegisters g.part g.gid fb.fid (.deadline n v)) s = .next (answered s g.part true))

/-- A region block that fits is created with the bytes given and zero counters, edited in its first 64 bytes with the charges
of its old and new ancestors, deleted when no live group lies below it; one on a stack under reset waits; anything else is
refused (R110 to R113, R352, R373). -/
def Sys2Proof.Spec.SupervisorRegions : Prop :=
  ∀ (s : State) (q : Partition) (addr : Nat) (block : BitVec 512), s.part? q.id = some q → Memory.wf s.mem = true →
    s.retries = [] →
    let parent := block.toNat % 2 ^ 64
    let fits := regionFits s q addr parent = true ∧ domainFits q addr block = true
    let edits := addr ∈ q.regions ∧ movesTo s q addr parent = true ∧ domainFits q addr block = true ∧
      ((∃ v ∈ s.vfs, v.part = some q.id ∧ v.root = addr) → parent = 0)
    (fits → s.homeUp addr = false →
      exec (.regionCreate q.id addr block) s = .next { s with retries := [.regionCreate q.id addr block] }) ∧
    (fits → s.homeUp addr = true →
      ∃ t, exec (.regionCreate q.id addr block) s = .next (answered t q.id false) ∧
        t.part? q.id = some { q with regions := q.regions ++ [addr] } ∧ t.groups = s.groups ∧
        ∀ a, mread t.mem a = if addr ≤ a ∧ a < addr + 128 then blockByte block addr a else mread s.mem a) ∧
    (¬fits → exec (.regionCreate q.id addr block) s = .next (answered s q.id true)) ∧
    (edits → s.homeUp addr = false →
      exec (.regionEdit q.id addr block) s = .next { s with retries := [.regionEdit q.id addr block] }) ∧
    (edits → s.homeUp addr = true →
      ∃ t, exec (.regionEdit q.id addr block) s = .next (answered t q.id false) ∧ t.parts = s.parts ∧
        ∀ a, (∀ b ∈ chargedBlocks s addr block, ¬(b + 72 ≤ a ∧ a < b + 84)) →
          mread t.mem a = if addr ≤ a ∧ a < addr + 64 then blockByte block addr a else mread s.mem a) ∧
    (¬edits → exec (.regionEdit q.id addr block) s = .next (answered s q.id true)) ∧
    (if addr ∈ q.regions ∧ ∀ g ∈ s.groups, addr ∈ s.ancestors 8 g.region → g.exit ≠ none then
      exec (.regionDelete q.id addr) s = .next
        (answered (s.modPart q.id fun q => { q with regions := q.regions.filter (· ≠ addr) }) q.id false)
     else exec (.regionDelete q.id addr) s = .next (answered s q.id true))

/-- A free virtual function is attached with its root region, which has no parent, and page tables in the partition's frames;
detached, nothing of it lives on, and the status comes once its stores are acknowledged; its exit ring is named in frames of the partition; a frozen group, channel or virtual function is released or killed; what is not
the partition's is refused (R110, R341, R352, R365, R368, R410). -/
def Sys2Proof.Spec.SupervisorFunctions : Prop :=
  ∀ (s : State) (p vf : Nat),
    (∀ q root table, s.part? p = some q → vf < 512 → (∀ v, s.vf? vf = some v → v.part = none) → root ∈ q.regions →
      if mle s.mem root 8 = 0 ∧ s.owns p table.toNat = true then ∃ t, exec (.attach p vf root table) s = .next (answered t p false) ∧ { t with vfs := s.vfs } = s ∧
        ∀ n, t.vf? n = if n = vf then some { id := vf, part := some p, tableRoot := table, root := root } else s.vf? n
      else exec (.attach p vf root table) s = .next (answered s p true)) ∧
    (∀ root table v, s.vf? vf = some v → v.part ≠ none → exec (.attach p vf root table) s = .next (answered s p true)) ∧
    (∀ v, s.vf? vf = some v →
      (v.part = some p →
        let gone (t : State) : Prop := Emptied t vf ∧
          ∃ u, t.vf? vf = some u ∧ u.part = none ∧ u.tableRoot = 0 ∧ u.queues = [] ∧ u.graphs = []
        (Settled s vf → ∃ t, exec (.detach p vf) s = .next (answered t p false) ∧ gone t) ∧
        ((∃ g fb, s.group? g.gid = some g ∧ g.vf = vf ∧ g.fibre? fb.fid = some fb ∧ fb.unacked ≠ 0) →
          ∃ t, exec (.detach p vf) s = .next t ∧ gone t ∧ ∃ w ∈ t.invalidations, w.part = p ∧ w.vf = vf ∧ w.owed ≠ [])) ∧
      (v.part ≠ some p → exec (.detach p vf) s = .next (answered s p true) ∧
        ∀ base n, exec (.nameExitRing p vf base n) s = .next (answered s p true)) ∧
      (v.part = some p → ∀ base n, exec (.nameExitRing p vf base n) s =
        .next (if ownsRing s p base.toNat (192 * n) = true then
          answered (s.modVf vf fun v => { v with exitRing := if n = 0 then none else some (base.toNat, n, 0) }) p false
        else answered s p true))) ∧
    (∀ g, s.group? g.gid = some g → g.exit = none → g.part = p →
      (g.frozen = true → exec (.unfreeze p (.group g.gid) false) s =
          .next (answered (s.modGroup g.gid thawed) p false) ∧
        ∃ t, exec (.unfreeze p (.group g.gid) true) s = .next (answered t p false) ∧ killed t g.gid 3 0) ∧
      (g.frozen = false → ∀ kill, exec (.unfreeze p (.group g.gid) kill) s = .next (answered s p true)) ∧
      (∀ c, g.chan? c.n = some c → c.frozen = true →
        exec (.unfreeze p (.channel g.gid c.n) false) s =
          .next (answered (s.modGroup g.gid fun g => g.modChan c.n fun c => { c with frozen := false }) p false) ∧
        exec (.unfreeze p (.channel g.gid c.n) true) s =
          .next (answered (s.modGroup g.gid fun g => g.modChan c.n fun c =>
            { c with frozen := false, st := 0, job := none, stuck := none }) p false))) ∧
    (∀ v, s.vf? vf = some v → v.part = some p → v.frozen = true →
      exec (.unfreeze p (.vf vf) false) s = .next (answered (s.modVf vf fun v => { v with frozen := false }) p false) ∧
      ∃ t u, exec (.unfreeze p (.vf vf) true) s = .next (answered t p false) ∧ t.vf? vf = some u ∧ u.frozen = false ∧
        (∀ h ∈ u.queues, h.enabled = false ∧ h.cmds = []) ∧ AllEnded t (·.vf = vf))

/-- The supervisor's commands over region blocks, virtual functions and frozen masters (R110, R111, R113, R352, R365, R368,
R410).
Tree depth, detaching and killing a frozen function are the model's reading (log entries 88 to 90 and 92). -/
def Obligations.SupervisorRegionsAndFunctions : Prop := Sys2Proof.Spec.SupervisorRegions ∧ Sys2Proof.Spec.SupervisorFunctions

/-- The supervisor sets comparators and traces of its own cores and acknowledges trace records; the oldest record of a core
drains into its ring; counters and measurements are returned in their order (R397, R399, R405, R406, R407, R409).
The layouts of a snapshot and a measurement are the model's (log entry 112), and so is a trace command's effect on
records held (log entry 111) and what becomes of records made while the buffer is full (log entry 139). -/
def Obligations.WatchingCommands : Prop :=
  ∀ (s : State) (p core : Nat),
    (core ∈ s.coresOf p →
      (∀ i cmp, i < 4 → ∃ t, exec (.watch p core i cmp) s = .next (answered t p false) ∧
        CoreOnly s t core { s.core core with
          watch := sset comparatorOff (s.core core).watch i { cmp with ctl := cmp.ctl &&& 0x07FF000F } }) ∧
      (∀ i cmp, 4 ≤ i → exec (.watch p core i cmp) s = .next (answered s p true)) ∧
      (∀ cfg, 8 ≤ cfg.lgRecords → cfg.lgRecords ≤ 24 → ownsRing s p cfg.ring (32 * 2 ^ cfg.lgRecords) = true →
        ∃ t, exec (.traceCommand p core cfg) s = .next (answered t p false) ∧
          CoreOnly s t core { s.core core with
            trace := { (s.core core).trace with cfg := cfg, head := 0, tail := 0, drops := 0, perturb := 0 } }) ∧
      (∀ cfg, cfg.lgRecords < 8 ∨ 24 < cfg.lgRecords ∨ ownsRing s p cfg.ring (32 * 2 ^ cfg.lgRecords) = false →
        exec (.traceCommand p core cfg) s = .next (answered s p true)) ∧
      (∀ n, ∃ t, exec (.traceAcknowledge p core n) s = .next (answered t p false) ∧
        CoreOnly s t core { s.core core with
          trace := { (s.core core).trace with head := min (s.core core).trace.tail ((s.core core).trace.head + n) } })) ∧
    (core ∉ s.coresOf p → ∀ i cmp cfg n, exec (.watch p core i cmp) s = .next (answered s p true) ∧
      exec (.traceCommand p core cfg) s = .next (answered s p true) ∧
      exec (.traceAcknowledge p core n) s = .next (answered s p true)) ∧
    (∀ r rest, (s.core core).trace.buf = r :: rest →
      (s.core core).trace.tail - (s.core core).trace.head < 2 ^ (s.core core).trace.cfg.lgRecords →
      (∀ q ∈ s.parts, core ∈ s.coresOf q.id → s.stopped q.id = false) → s.remaps = [] →
      s.homeUp (s.core core).trace.cfg.ring = true →
      let tr := (s.core core).trace
      let at_ := tr.cfg.ring + 32 * (tr.tail % 2 ^ tr.cfg.lgRecords)
      ∃ t, exec (.traceDrain core) s = .next t ∧
        (∀ j, t.core j = if j = core then
            { s.core core with
              trace := { tr with buf := (rest ++ tr.late).take 256, late := (rest ++ tr.late).drop 256, tail := tr.tail + 1 } }
          else s.core j) ∧
        ((∀ k, k < 32 → Uncached s ((at_ + k) / 256)) → ∀ a, mread t.mem a =
          if at_ ≤ a ∧ a < at_ + 32 then BitVec.ofNat 8 (recordNumber r / 256 ^ (a - at_)) else mread s.mem a)) ∧
    (∀ q, s.part? p = some q →
      exec (.counters p) s = .next (answered (s.report p (.counters s.tick (snapshotOf s q))) p false)) ∧
    (∀ nonce k, s.firmware = some k →
      let running := if k = 2 then (s.recovery.map (·.bytes)).getD [] else Config.firmwareImage k
      let bound (q : Partition) : List (List Byte) :=
        (((q.store.flatMap (·.images)).dedup).map (fun h => ((s.image? h).map (·.store)).getD []) ++
          (q.store.filterMap (·.loaded)).dedup).map Config.sha384
      let body := (Config.sha384 running :: (s.standing.map fun r => Config.sha384 r.signed) ++
        s.parts.flatMap bound).flatten ++ leBytes nonce.toNat 48
      exec (.measurementRequest nonce) s = .next { s with toPf0 := s.toPf0 ++ [body ++ Config.deviceSignature body] })

/-- A freeze asked for is pending with code 0, or has no effect with code 1 or 2; it starts on its tick with its Husk sent;
released, the clocks go on, and the partition's waits are told so; a supervisor may kill its groups first (R411 to
R413).
The Husk's sections are a constant without a body (log entries 18 and 113). -/
def Obligations.FreezeLives : Prop :=
  ∀ (s : State) (at_ : DWord),
    (∀ p q, s.part? p = some q →
      let code := freezeCode s (s.freeze.isSome || q.freeze.isSome) at_
      exec (.supervisorFreeze p at_) s = .next
        ((if code = 0 then s.modPart p fun q => { q with freeze := some { tick := at_ } } else s).report p (.frozen code))) ∧
    (let code := freezeCode s (s.freeze.isSome || s.parts.any fun q => q.freeze.isSome) at_
     exec (.deviceFreeze at_) s = .next { s with
       toPf0 := s.toPf0 ++ [leBytes code 4]
       freeze := if code = 0 then some { tick := at_ } else s.freeze }) ∧
    (∀ f, s.freeze = some f → f.inForce = false →
      exec (.freezeStart none) s = .next (if s.tick.toNat < f.tick.toNat then s else
        { s with
          freeze := some { f with inForce := true }
          toPf0 := s.toPf0 ++ [s.huskImage none f.tick] })) ∧
    (∀ p q f, s.part? p = some q → q.freeze = some f → f.inForce = false →
      exec (.freezeStart (some p)) s = .next (if s.tick.toNat < f.tick.toNat then s else
        (s.modPart p fun q => { q with freeze := some { f with inForce := true } }).report p
          (.husk (s.huskImage (some p) f.tick)))) ∧
    (∀ f kill, s.freeze = some f → f.inForce = true → exec (.freezeRelease none kill) s = .next { s with freeze := none }) ∧
    (∀ p q f, s.part? p = some q → q.freeze = some f → f.inForce = true →
      exec (.freezeRelease (some p) false) s = .next (answered
        { (s.modPart p fun q => { q with freeze := none }) with
          groups := s.groups.map fun g =>
            if g.part = p then
              { g with fibres := g.fibres.map fun fb => { fb with wait := fb.wait.map fun w => { w with resumed := true } } }
            else g } p false) ∧
      ∃ t, exec (.freezeRelease (some p) true) s = .next (answered t p false) ∧
        (t.part? p).map (·.freeze) = some none ∧ AllEnded t (·.part = p))

/-! ## Time, power, reset, and accesses from outside -/

namespace Sys2Proof.Spec

/-- A fibre of a group at the end of a tick (R85, R103): a resident tick more where they count. -/
def ticked (counts : Bool) (fb : Fibre) : Fibre :=
  let away := match fb.place with
    | .transit _ _ _ => true
    | _ => false
  { fb with
    rtk := if counts && !away && fb.st != .free then fb.rtk + 1 else fb.rtk
    wait := fb.wait.map fun w => { w with resumed := false } }

/-- The four things that let a pending gate close (R380). -/
def gateMayClose (s : State) (core : Nat) : Prop :=
  s.incoming core = [] ∧ s.groupsOn core = [] ∧ s.landedOn core = false ∧ s.boundTo core = false

/-- The temperature above which a stack is throttled (R385). -/
def warningAt (s : State) (st : Nat) : Int := Int.ofNat (sget 95 s.warning st)

/-- The clock of a partition after a window, by its cap and its mean power (R384). -/
def cappedClock (s : State) (q : Partition) : Nat :=
  let mean := Config.meanPower q.id s.tick.toNat
  if q.cap = 0 then q.clock
  else if q.cap < mean then max 8 (q.clock - 1)
  else if mean * 100 < q.cap * 95 ∧
      ∀ st ∈ s.hot, warningAt s st ≤ Config.stackTemperature st s.tick.toNat → q.onStack st = false then
    min 16 (q.clock + 1)
  else q.clock

/-- Whether a stack above its warning temperature throttles partition q: none with resources there used more energy on it
over the window (R385). -/
def throttles (s : State) (q : Partition) (st : Nat) : Bool :=
  decide (warningAt s st < Config.stackTemperature st s.tick.toNat) && q.onStack st &&
    s.parts.all fun r => !r.onStack st ||
      Config.windowEnergy r.id st s.tick.toNat ≤ Config.windowEnergy q.id st s.tick.toNat

/-- A partition at a clock, with an event record of the tick where that is a change (R384, R398). -/
def clocked (now : DWord) (c : Nat) (q : Partition) : Partition :=
  if c = q.clock then q else { q with clock := c, reports := q.reports ++ [.clock now c] }

/-- Whether a physical address is host memory. -/
def hostSide (a : Nat) : Bool := a / 2 ^ 49 % 2 = 1 && a < 2 ^ 50

/-- Whether a partition may own what an entry of the map gives it (R362): its number, sets without a repeat within the
package, a cluster and a pseudo-channel, and a slice on each stack of either. -/
def mayForm (m : MapEntry) : Prop :=
  m.id < 64 ∧ m.clusters ≠ [] ∧ m.channels ≠ [] ∧
  m.clusters.Nodup ∧ (∀ c ∈ m.clusters, c < 128) ∧ m.channels.Nodup ∧ (∀ c ∈ m.channels, c < 512) ∧
  m.slices.Nodup ∧ (∀ c ∈ m.slices, c < 128) ∧ m.lanes.Nodup ∧ (∀ c ∈ m.lanes, c < 128) ∧
  (∀ c ∈ m.clusters, ∃ x ∈ m.slices, x / 16 = c / 16) ∧ ∀ c ∈ m.channels, ∃ x ∈ m.slices, x / 16 = c / 64

/-- Whether every stack and HBM stack that an entry names resources of has passed (R395). -/
def stacksPass (m : MapEntry) : Prop :=
  (∀ c ∈ m.clusters, Config.stackPasses (c / 16) = true) ∧ (∀ c ∈ m.slices, Config.stackPasses (c / 16) = true) ∧
  ∀ c ∈ m.channels, Config.stackPasses (c / 64) = true

/-- Whether partition q owns what entry m gives it. -/
def formedFrom (m : MapEntry) (q : Partition) : Prop :=
  q.id = m.id ∧ q.clusters = m.clusters ∧ q.slices = m.slices ∧ q.channels = m.channels ∧ q.lanes = m.lanes

/-- Two lists with no member in common. -/
def apartLists (l m : List Nat) : Prop := ∀ x ∈ l, x ∉ m

/-- Two partitions with other numbers and no resource in common (R362). -/
def apartParts (q r : Partition) : Prop :=
  q.id ≠ r.id ∧ apartLists q.clusters r.clusters ∧ apartLists q.slices r.slices ∧ apartLists q.channels r.channels ∧
  apartLists q.lanes r.lanes

/-- Two entries of a map likewise. -/
def apartEntries (m n : MapEntry) : Prop :=
  m.id ≠ n.id ∧ apartLists m.clusters n.clusters ∧ apartLists m.slices n.slices ∧ apartLists m.channels n.channels ∧
  apartLists m.lanes n.lanes

/-- The firmware copy that boots: the first that verifies and is new enough (R395). -/
def bootCopy (least : Nat) : Option Nat :=
  if Config.firmwareValid 0 = true ∧ least ≤ Config.firmwareVersion 0 then some 0
  else if Config.firmwareValid 1 = true ∧ least ≤ Config.firmwareVersion 1 then some 1
  else none

/-- Bytes of an access from outside. -/
def opLength : MemOp → Nat
  | .load n => min n 16
  | .store n _ => min n 16
  | .atom _ _ => 4
  | .atox x _ => if x = 1 ∨ x = 2 then 8 else 4
  | .cas wide _ _ => if wide then 8 else 4

/-- The value that an access leaves; none when it leaves memory alone (R304 to R306). -/
def opValue (op : MemOp) (old : Nat) : Option Nat :=
  match op with
  | .load _ => none
  | .store _ v => some v.toNat
  | .atom x v => some (combined x.toNat (BitVec.ofNat 32 old) v).toNat
  | .atox x v => some (exchanged x.toNat old (v.toNat % 256 ^ opLength op)).1
  | .cas _ c v => some (if old = c.toNat % 256 ^ opLength op then v.toNat % 256 ^ opLength op else old)

/-- An answer to a sender's request seq (R332, R393). -/
def answerOf (sender seq v : Nat) (failed : Bool) : Answer :=
  { sender := sender, seq := seq, value := (BitVec.ofNat 64 v, BitVec.ofNat 64 (v / 2 ^ 64)), failed := failed }

/-- t is q after an access at pa by a sender, where no cache holds the line, no notice is on its way, no page is being moved,
no bit of memory is bad and the sender's number is new to the home: the sender has the old value, and memory the new
bytes (R309, R332). -/
def Performed (q t : State) (sender seq pa : Nat) (op : MemOp) : Prop :=
  q.errors = [] → q.notices = [] → q.remaps = [] → Uncached q (pa / 256) → pa % 256 + opLength op ≤ 256 →
  (∀ x ∈ q.answered, ¬(x.1 = 8 * sender + homeStack pa ∧ x.2.1 = seq)) →
  let old := mle q.mem pa (opLength op)
  let told := match op with
    | .store _ _ => 0
    | _ => old
  t.answers = q.answers ++ [answerOf sender seq told false] ∧
  ∀ a, mread t.mem a =
    match opValue op old with
    | some v => if pa ≤ a ∧ a < pa + opLength op then BitVec.ofNat 8 (v / 256 ^ (a - pa)) else mread q.mem a
    | none => mread q.mem a

/-- Of all host queues only queue k of vf has changed, into h, and nothing outside the virtual functions. -/
def QueueOnly (s t : State) (vf k : Nat) (h : HostQueue) : Prop :=
  (∀ v j, t.queue? v j = if v = vf ∧ j = k then some h else s.queue? v j) ∧ { t with vfs := s.vfs } = s

/-- Queue k of vf, whose registers answer, as it stands; one that has never been written rests (R387). -/
def Answering (s : State) (vf k : Nat) (h : HostQueue) : Prop :=
  k < 8 ∧ h.q = k ∧ h = (s.queue? vf k).getD { q := k } ∧ ∃ v, s.vf? vf = some v ∧ v.part ≠ none ∧ v.frozen = false

/-- A field of a queue written, where the value is within its limits (R387). -/
def fieldWritten (h : HostQueue) (f : QueueField) (v : BitVec 64) : HostQueue :=
  match f with
  | .base => if v.toNat % 128 = 0 then { h with base := v } else h
  | .cbase => if v.toNat % 64 = 0 then { h with cbase := v } else h
  | .vector => if v.toNat < 8 then { h with vector := v.toNat } else h
  | .lgn => if 4 ≤ v.toNat ∧ v.toNat ≤ 16 then { h with lgn := v.toNat } else h

/-- Whether a partition owns a lane of a port that a window uses (R362, R393). -/
def hasLane (q : Partition) (x : Window) : Prop := ∃ p < 16, x.ports.testBit p = true ∧ ∃ l ∈ q.lanes, l / 8 = p

/-- An access as translation sees it. -/
def accessOf : MemOp → Access
  | .load _ => .read
  | .store _ _ => .write
  | _ => .rmw

/-- The n bytes from an offset of a queue's register block (R387): zeros, the enable and the status byte, lgn, the vector,
the two bases, zeros, and head. -/
def registerBytes64 (h : HostQueue) (off n : Nat) : Nat :=
  let on := if h.enabled then 1 else 0
  (2 ^ 32 * on + 2 ^ 40 * (on + if h.refusedBell then 2 else 0) + 2 ^ 48 * (h.lgn % 256) + 2 ^ 56 * (h.vector % 256) +
    2 ^ 64 * h.base.toNat + 2 ^ 128 * h.cbase.toNat + 2 ^ 224 * h.head.toNat) / 256 ^ off % 256 ^ n

end Sys2Proof.Spec

/-- The tick advances by one unless a device freeze is in force, counting for the fibres of resident groups; at its last
value the machine stops (R84, R85, R384, R412). A pending gate closes once its core is quiet, the L1 with its instructions
and the TLB empty (R380, R381).
The stop at the last value is the model's (log entry 115), and when a gate closes is its reading (log entry 96). -/
def Obligations.TickAndGates : Prop :=
  ∀ s : State,
    ((∀ f, s.freeze = some f → f.inForce = false) →
      (s.tick = BitVec.allOnes 64 → exec .globalTick s = .fault .tickExhausted) ∧
      (s.tick ≠ BitVec.allOnes 64 → s.invalidations = [] → ∃ t, exec .globalTick s = .next t ∧ t.tick.toNat = s.tick.toNat + 1 ∧ t.did = [] ∧ t.turn = [] ∧
        (∀ n g f fb, s.group? n = some g → g.fibre? f = some fb → t.fibre? n f = some (ticked (s.resident g) fb)) ∧
        (∀ p q, s.part? p = some q → t.part? p = some { q with phase := (q.phase + q.clock) % 16 }) ∧
        ((∀ g ∈ s.groups, s.resident g = false) → t.mem = s.mem))) ∧
    (∀ f, s.freeze = some f → f.inForce = true → exec .globalTick s = .next s) ∧
    (∀ core,
      ((s.core core).gate = .pending → gateMayClose s core → ∃ t, exec (.gateClose core) s = .next t ∧
        (t.core core).gate = .closed ∧ (∀ c ∈ t.copies, c.unit ≠ .l1 core) ∧ (∀ c ∈ t.fetched, c.core ≠ core) ∧
        ∀ e ∈ t.tlb, e.core ≠ some core) ∧
      ((s.core core).gate ≠ .pending ∨ ¬gateMayClose s core → exec (.gateClose core) s = .next s))

/-- At the end of a power window each partition's clock moves a step by its cap, and falls a step for each stack above
warning on which no partition used more energy, with an event record of each change; a stack below warning is no longer in
emergency; an emergency slows every partition on its stack to 900 MHz with an event record; each stack has its own
temperatures (R384, R385).
Energy, power and temperature are constants without a body (log entries 11 and 95); a cap of 0 is no cap by the
model's choice (log entry 94). -/
def Obligations.PowerAndHeat : Prop :=
  ∀ s : State,
    (s.tick = 0 ∨ s.tick.toNat % 1048576 ≠ 0 → exec .powerWindow s = .next s) ∧
    (s.tick ≠ 0 → s.tick.toNat % 1048576 = 0 → ∃ t, exec .powerWindow s = .next t ∧
      (∀ st, st ∈ t.hot ↔ st ∈ s.hot ∧ warningAt s st ≤ Config.stackTemperature st s.tick.toNat) ∧
      ∀ q, s.parts.filter (·.id == q.id) = [q] → t.part? q.id = some
        (((List.range 8).filter (throttles s q)).foldl (fun x _ => clocked s.tick (max 8 (x.clock - 1)) x)
          (clocked s.tick (cappedClock s q) q))) ∧
    (∀ st temp, st < 8 → sget 105 s.emergency st ≤ temp → exec (.thermalEmergency st temp) s = .next
      { s with
        parts := s.parts.map fun q =>
          if q.onStack st = true then { q with clock := 8, reports := q.reports ++ [.emergency s.tick st] } else q
        hot := if st ∈ s.hot then s.hot else s.hot ++ [st] }) ∧
    (∀ st temp, temp < sget 105 s.emergency st ∨ 8 ≤ st → exec (.thermalEmergency st temp) s = .next s)

/-- After a package reset the tick is 0, device memory is zero and nothing is loaded; firmware runs if a copy verifies or
physical function 0 has given a recovery image that is accepted, and
forms partitions that R362 allows from the standing maps: each entry that shares nothing with another and whose stacks
have all passed; flash and host memory stay (R362, R395, R396).
That bring-up is one step, how a recovery image comes and the records' bodies are the model's (log entries 12, 107 and 108),
and so is which of two
entries that share a resource is formed (log entry 119). -/
def Obligations.ResetForms : Prop :=
  ∀ s : State, Memory.wf s.mem = true → ∃ t, exec .packageReset s = .next t ∧ t.tick = 0 ∧ t.vfs = [] ∧ t.images = [] ∧
    t.launches = [] ∧ t.groups = [] ∧ t.cores = [] ∧ t.copies = [] ∧ t.notices = [] ∧ t.tlb = [] ∧ t.flash = s.flash ∧
    (∀ a, mread t.mem a = if hostSide a then mread s.mem a else 0) ∧
    (let least := leastVersion (standingOf s.flash)
     t.firmware = match bootCopy least with
      | some k => some k
      | none =>
        if s.recovery.any fun i => Config.signatureValid i.bytes Config.rootKey i.signature && decide (least ≤ i.version)
        then some 2 else none) ∧
    (let l := mapEntries (standingOf s.flash)
     (t.firmware = none → t.parts = []) ∧
     (∀ q ∈ t.parts, ∃ m ∈ l, formedFrom m q ∧ mayForm m ∧ stacksPass m) ∧ t.parts.Pairwise apartParts ∧
     (t.firmware ≠ none → ∀ m ∈ l, mayForm m → stacksPass m → (∀ n ∈ l, n = m ∨ apartEntries m n) →
       ∃ q ∈ t.parts, formedFrom m q))

/-- A stack reset ends the groups on a released stack with cause 5; asked for again, once pages have been moved, it drains
the stack for 36000 ticks; then its memory is zero and its packets are refused; released, a refused packet is performed
once; a port that loses a lane and a module retrain (R371 to R373, R386, R392).
What a reset stack's caches and held packets become is the model's reading (log entries 105 and 106), and so are which event
begins the drain (log entry 131), that a port's retrain starts again, with a fresh 2^20 ticks, the unanswered requests whose
window uses the port and no others (log entry 109), and when what is owed to region blocks is written (log entry 151). -/
def Obligations.StackLives : Prop :=
  ∀ s : State,
    (∀ st, st < 8 → sget .released s.stackStates st = .released → ∃ t, exec (.stackReset st) s = .next t ∧
      sget .released t.stackStates st = .emptied ∧
      ∀ n g, s.group? n = some g → g.exit = none → g.onStack st = true → killed t n 5 0) ∧
    (∀ st, st < 8 → sget .released s.stackStates st = .emptied → exec (.stackReset st) s = .next
      (if ∃ g ∈ s.groups, g.exit = none ∧ g.onStack st = true then s
       else { s with stackStates := sset .released s.stackStates st (.draining (s.tick + 36000)) })) ∧
    (∀ st, 8 ≤ st ∨ ¬(sget .released s.stackStates st = .released ∨ sget .released s.stackStates st = .emptied) →
      exec (.stackReset st) s = .next s) ∧
    (∀ st d, sget .released s.stackStates st = .draining d →
      (s.tick.toNat < d.toNat → exec (.routeDrainDeadline st) s = .next s) ∧
      (d.toNat ≤ s.tick.toNat → ∃ t, exec (.routeDrainDeadline st) s = .next t ∧
        sget .released t.stackStates st = .resetting ∧
        t.packets = s.packets.map (fun p => if p.stack = st then { p with refused := true } else p) ∧
        ∀ a, homeStack a = st → hostSide a = false → mread t.mem a = 0)) ∧
    (∀ st, sget .released s.stackStates st ≠ .resetting → exec (.stackRelease st) s = .next s) ∧
    (∀ st, sget .released s.stackStates st = .resetting →
      (∃ t, exec (.stackRelease st) s = .next t ∧ t.stackStates = sset .released s.stackStates st .released ∧
        t.groups = s.groups ∧ ∀ o ∈ t.owedTicks, homeStack o.1 ≠ st) ∧
      ((∀ q ∈ s.parts, ∀ b ∈ q.regions, homeStack b ≠ st) → s.owedTicks = [] →
        exec (.stackRelease st) s = .next { s with stackStates := sset .released s.stackStates st .released })) ∧
    (∀ p, s.packets.find? (·.id == p.id) = some p →
      (p.refused = true → p.stuck = none → p.through = none → s.homeUp p.addr = true →
        ∃ t, exec (.routeLost p.id) s = .next t ∧ (∀ q ∈ t.packets, q.id ≠ p.id) ∧
          Performed { s with packets := s.packets.filter fun q => q.id != p.id } t p.sender p.seq p.addr p.op) ∧
      (p.refused = true → p.stuck = none → p.through = none → s.homeUp p.addr = false → exec (.routeLost p.id) s = .next
        { s with packets := s.packets.map fun q => if q.id = p.id then { q with stuck := none } else q }) ∧
      (p.refused = false ∨ p.stuck ≠ none → exec (.routeLost p.id) s = .next s)) ∧
    (∀ unit, exec (.moduleRetraining unit) s = .next
      (if unit < 4 then { s with modules := sset 32 s.modules unit 16 } else s)) ∧
    (∀ port, exec (.portLaneFailure port) s = .next
      (if port < 16 then
        { s with
          ports := sset 8 s.ports port 4
          peers := s.peers.map fun w =>
            if w.ports.testBit port = true ∧ s.tick.toNat < w.start.toNat + Config.peerTicks w.id then
              { w with start := s.tick }
            else w }
      else s))

/-- An access of the host to memory of the partition is performed at its address; one of a peer at the address that the
virtual function of the export window it names translates to; an access outside fails, and outside every window or on
lanes of others is a violation; one that translates into an own aperture goes on to that peer; one to a stack in reset, and
one whose walk or whose page's fault record it has to wait for, is held; a request that no peer answers within 2^20 ticks
fails as its kind says (R332, R338, R340, R367, R373, R393, R394).
A failed answer outside the partition and a retry after a reset are the model's reading (log entries 104 and 105), and so
is the stack whose translations serve a port (log entry 130). -/
def Obligations.OutsideAccesses : Prop :=
  ∀ (s : State) (part : Nat) (addr : BitVec 64) (op : MemOp),
    let n := s.serial
    let s1 : State := { s with serial := n + 1 }
    let inside : Bool := addr.toNat < 2 ^ 50 && !outsideMemory addr.toNat && s.owns part addr.toNat
    (inside = false → exec (.hostMemAccess part addr op) s = .next { s1 with answers := s.answers ++ [answerOf 0 n 0 true] }) ∧
    (inside = true → s.homeUp addr.toNat = true →
      ∃ t, exec (.hostMemAccess part addr op) s = .next t ∧ Performed s1 t 0 n addr.toNat op) ∧
    (inside = true → s.homeUp addr.toNat = false → exec (.hostMemAccess part addr op) s = .next
      { s1 with packets := s.packets ++
        [{ id := n, stack := homeStack addr.toNat, part := part, addr := addr.toNat, op := op, sender := 0, seq := n
           refused := true }] }) ∧
    (∀ w q, s.part? part = some q →
      let hit (x : Window) : Prop := x.base ≤ addr.toNat ∧ addr.toNat + opLength op ≤ x.base + x.size
      let fails (u : State) : State := { u with answers := u.answers ++ [answerOf (1 + w) n 0 true] }
      ((∀ x ∈ q.exports, ¬hit x) → exec (.peerRequest part w addr op) s = .next (fails (s1.report part (.outside w addr)))) ∧
      ((∀ x, q.exports[w]? = some x → ¬hit x) → (∃ x ∈ q.exports, hit x) →
        exec (.peerRequest part w addr op) s = .next (fails s1)) ∧
      ∀ x, q.exports[w]? = some x → hit x →
        (¬hasLane q x → exec (.peerRequest part w addr op) s = .next (fails (s1.report part (.outside w addr)))) ∧
        (hasLane q x →
          (∀ pa u, s1.virtOn x.stack part x.vf addr.toNat (accessOf op) = (some pa, u) →
            if u.strayLanes part pa = true then
              exec (.peerRequest part w addr op) s = .next (fails (u.violate part (.vf x.vf)))
            else if (u.aperture? part pa).isSome then
              ∃ t v, exec (.peerRequest part w addr op) s = .next t ∧ t.mem = u.mem ∧
                t.answers = u.answers ++ [answerOf (1 + w) n v false]
            else ∃ t, exec (.peerRequest part w addr op) s = .next t ∧ Performed u t (1 + w) n pa op) ∧
          ∀ u, s1.virtOn x.stack part x.vf addr.toNat (accessOf op) = (none, u) →
            let holds (page : Option Nat) : Prop := exec (.peerRequest part w addr op) s = .next
              { u with packets := u.packets ++
                [{ id := n, stack := x.stack, part := part, addr := addr.toNat, op := op, sender := 1 + w, seq := n
                   refused := true, through := some (x.vf, x.stack), stuck := page }] }
            match u.translate none x.stack part x.vf addr.toNat (accessOf op) with
            | .miss => holds none
            | .fault _ => holds (some (addr.toNat / 65536))
            | .violation => exec (.peerRequest part w addr op) s = .next (fails u)
            | .ok _ _ past =>
              if past = true then exec (.peerRequest part w addr op) s = .next (fails u) else holds none)) ∧
    (∀ w, s.peers.find? (·.id == w.id) = some w →
      let gone : State := { s with peers := s.peers.filter fun v => v.id != w.id }
      let answered : Prop := Config.peerTicks w.id ≤ 2 ^ 20
      (s.tick.toNat < w.start.toNat + 2 ^ 20 → exec (.peerRequestTimeout w.id) s = .next s) ∧
      (w.start.toNat + 2 ^ 20 ≤ s.tick.toNat →
        (∀ g fb q, w.chan = none → w.store = true → s.group? w.grp = some g → g.fibre? w.fid = some fb →
          s.part? w.part = some q →
          ∃ t : State, exec (.peerRequestTimeout w.id) s = .next t ∧ (answered → t = s) ∧
            (¬answered → t.peers = gone.peers ∧ (t.fibre? w.grp w.fid).map (·.unacked) = some (fb.unacked - 1) ∧
              t.part? w.part = some { q with dropped := q.dropped + 1, reports := q.reports ++ [.dropped w.id] })) ∧
        (∀ c r, w.chan = none → w.store = false → gone.runOf w.grp w.fid = some (c, r) →
          ∃ t : State, exec (.peerRequestTimeout w.id) s = .next t ∧ (answered → t = s) ∧
            (¬answered → t = ({ gone with peers := gone.peers.filter fun v => !r.fids.any fun f => v.reads w.grp f }).raise c r
              { kind := 12, cause := 1, fva := w.va, failing := maskOf [w.fid] })) ∧
        (∀ g k c t, w.chan = some k → s.group? w.grp = some g → g.chan? k = some c → c.job = some t →
          ∃ u : State, exec (.peerRequestTimeout w.id) s = .next u ∧ (answered → u = s) ∧
            (¬answered → ∃ d, channelIn u w.grp k = some d ∧ d.st = 3 ∧ d.cur = t.ptr ∧ d.job = none ∧
              d.lastf.toNat / 2 ^ 61 = 5))))

/-- A doorbell ahead of the tail and within the ring is taken, another one is noted; the enable byte is written; the other
registers only while the queue is disabled and within their limits; the block is read, and a read of the status byte starts
it again; a queue that does not answer ignores writes and fails reads; an access through one function that names another's
queue freezes the one it came through (R365, R367, R368, R387, R388).
What a write outside the limits and a queue that does not answer do is the model's reading (log entry 100), and so are what
the doorbell reads as (log entry 132), what a queue never written holds (lgn 4 and zeros) and that a doorbell is taken whether
or not the queue is enabled (log entry 99). -/
def Obligations.QueueRegisters : Prop :=
  ∀ (s : State) (vf k : Nat),
    (∀ h, Answering s vf k h →
      (∀ tail, ∃ t, exec (.doorbell vf vf k tail) s = .next t ∧ QueueOnly s t vf k
        (if (h.tail - h.head).toNat < (tail - h.head).toNat ∧ (tail - h.head).toNat ≤ 2 ^ h.lgn then { h with tail := tail }
        else { h with refusedBell := true })) ∧
      (∀ on, ∃ t, exec (.queueEnable ⟨vf, vf⟩ k on) s = .next t ∧ QueueOnly s t vf k { h with enabled := on }) ∧
      (∀ f v, if h.enabled = true then exec (.registerWrite ⟨vf, vf⟩ k f v) s = .next s
        else ∃ t, exec (.registerWrite ⟨vf, vf⟩ k f v) s = .next t ∧ QueueOnly s t vf k (fieldWritten h f v)) ∧
      (∀ off n, off + n ≤ 64 → ∃ t : State, exec (.queueStatusRead ⟨vf, vf⟩ ⟨k, off, n⟩) s = .next t ∧
        t.answers = s.answers ++ [answerOf 0 0 (registerBytes64 h off n) false] ∧
        if off ≤ 5 ∧ 5 < off + n then QueueOnly s { t with answers := s.answers } vf k { h with refusedBell := false }
        else { t with answers := s.answers } = s)) ∧
    (8 ≤ k ∨ (∀ v, s.vf? vf = some v → v.part = none ∨ v.frozen = true) →
      (∀ tail, exec (.doorbell vf vf k tail) s = .next s) ∧ (∀ on, exec (.queueEnable ⟨vf, vf⟩ k on) s = .next s) ∧
      (∀ f v, exec (.registerWrite ⟨vf, vf⟩ k f v) s = .next s) ∧
      ∀ off n, exec (.queueStatusRead ⟨vf, vf⟩ ⟨k, off, n⟩) s = .next { s with answers := s.answers ++ [answerOf 0 0 0 true] }) ∧
    (∀ via v p, via ≠ vf → s.vf? via = some v → v.part = some p →
      let u := if v.frozen = true then s
        else (s.modVf via fun v => { v with frozen := true }).report p (.violation s.tick (.vf via))
      (∀ tail, exec (.doorbell via vf k tail) s = .next u) ∧ (∀ on, exec (.queueEnable ⟨via, vf⟩ k on) s = .next u) ∧
      (∀ f x, exec (.registerWrite ⟨via, vf⟩ k f x) s = .next u) ∧
      ∀ off n, exec (.queueStatusRead ⟨via, vf⟩ ⟨k, off, n⟩) s = .next { u with answers := s.answers ++ [answerOf 0 0 0 true] })

/-! ## Commands of the host, images, and what every step keeps -/

namespace Sys2Proof.Spec

/-- Command c of queue k of vf starts next (R373, R389): vf is attached to partition p and not frozen, host memory can be
reached, every entry before c has started, and a fenced one finds no other unfinished. -/
def StartsNext (s : State) (vf k p : Nat) (h : HostQueue) (c : Command) : Prop :=
  s.homeUp (2 ^ 49) = true ∧ (∃ v, s.vf? vf = some v ∧ v.part = some p ∧ v.frozen = false) ∧ s.queue? vf k = some h ∧
  h.cmds.find? (fun d => !d.started) = some c ∧ h.cmds.find? (fun d => d.pos == c.pos) = some c ∧
  (c.fence = true → ∀ d ∈ h.cmds, d.pos ≠ c.pos → d.started = false)

/-- A command code of the table with no reserved field set (R389, R390). -/
def legalCommand (c : Command) : Prop := 1 ≤ c.cmd ∧ c.cmd ≤ 6 ∧ c.reserved = false

/-- A command has completed in t (R390): its 32 bytes stand at its ring position, where no page was being moved, the vector is
signalled, and the queue holds it no more. -/
def Completes (s t : State) (vf k : Nat) (h : HostQueue) (c : Command) (status value : Nat) : Prop :=
  let at_ := 2 ^ 49 + (h.cbase.toNat + 32 * (c.pos % 2 ^ h.lgn)) % 2 ^ 49
  let record := c.pos % 2 ^ 32 + 2 ^ 32 * (status % 2 ^ 32) + 2 ^ 64 * s.tick.toNat + 2 ^ 128 * (value % 2 ^ 64) +
    2 ^ 192 * c.tag.toNat
  t.msix = s.msix ++ [(vf, h.vector)] ∧
  (s.remaps = [] → ∀ n < 32, mread t.mem (at_ + n) = BitVec.ofNat 8 (record / 256 ^ n)) ∧
  ∃ g, t.queue? vf k = some g ∧ g.cmds = h.cmds.filter fun d => d.pos != c.pos

/-- Command c completes with a status and no value. -/
def EndsWith (i : Instr) (s : State) (vf k : Nat) (h : HostQueue) (c : Command) (status : Nat) : Prop :=
  ∃ t, exec i s = .next t ∧ Completes s t vf k h c status 0

/-- Command c has started and is unfinished: the queue holds it as started. -/
def Underway (t : State) (vf k : Nat) (h : HostQueue) (c : Command) : Prop :=
  ∃ g, t.queue? vf k = some g ∧
    g.cmds = h.cmds.map fun d => if d.pos = c.pos then { d with started := true } else d

/-- The loaded image that a command names (R389, R427): of its virtual function. -/
def loadedAs (s : State) (vf : Nat) (c : Command) : Option Image :=
  match s.image? (c.arg.toNat % 2 ^ 32) with
  | some m => if m.vf = vf then some m else none
  | none => none

/-- The image that a command is to use (R389): not one that waits to be unloaded. -/
def named (s : State) (vf : Nat) (c : Command) : Option Image :=
  match loadedAs s vf c with
  | some m => if m.unloading = false then some m else none
  | none => none

/-- The fields of a command entry (R389). -/
def entryOf (pos n : Nat) : Command :=
  { pos := pos
    cmd := n % 2 ^ 16
    fence := n / 2 ^ 16 % 2 = 1
    tag := BitVec.ofNat 64 (n / 2 ^ 64)
    arg := BitVec.ofNat 64 (n / 2 ^ 128)
    body := BitVec.ofNat 512 (n / 2 ^ 512)
    reserved := n / 2 ^ 17 % 2 ^ 15 ≠ 0 || n / 2 ^ 32 % 2 ^ 32 ≠ 0 || n / 2 ^ 192 % 2 ^ 320 ≠ 0 }

/-- The launch record in a command's body (R21). -/
def launchRecord (c : Command) : LaunchRecord := LaunchRecord.ofBytes (leBytes c.body.toNat 64)

/-- The entries of a describe command (R427). -/
def described (m : Image) : List Byte :=
  m.sections.flatMap fun q => leBytes q.1 4 ++ leBytes 0 4 ++ leBytes q.2.1 8 ++ leBytes q.2.2 8 ++ leBytes 0 8

/-- The status of a register command (R132, R390) by the descriptor's bytes. -/
def registerStatus (u : State) (vf : Nat) (c : Command) (v : Option Nat) : Nat :=
  let image : Bool := (u.image? (c.body.toNat % 2 ^ 32)).any fun m => m.vf == vf && !m.unloading
  let known := (u.graphQueue? vf c.arg).any (·.closed)
  match v with
  | none => 16
  | some n =>
    if c.arg.toNat % 64 ≠ 0 ∨ descOk n = false then 16
    else if n.testBit 176 = false ∧ image = false then 17
    else if n.testBit 177 = true ∨ known = true then 19
    else 0

end Sys2Proof.Spec

/-- The next entry of an enabled queue is fetched into it with the fields of its 128 bytes; with none to fetch, a command
with an unknown code or a reserved field completes in its turn with status 16 and has no effect (R389 to R391). -/
def Sys2Proof.Spec.CommandEntries : Prop :=
  ∀ (s : State) (vf k : Nat) (h : HostQueue), Answering s vf k h → s.queue? vf k = some h →
    (h.enabled = true → h.head ≠ h.tail → s.homeUp (2 ^ 49) = true →
      let at_ := hostAddr (h.base.toNat + 128 * (h.head.toNat % 2 ^ h.lgn))
      at_ % 128 = 0 → s.notices = [] → s.errors = [] → Uncached s (at_ / 256) →
      ∃ t, exec (.commandEntryArrival vf k) s = .next t ∧ (∀ a, mread t.mem a = mread s.mem a) ∧
        t.queue? vf k = some
          { h with head := h.head + 1, cmds := h.cmds ++ [entryOf h.head.toNat (mle s.mem at_ 128)] }) ∧
    (∀ p c, h.enabled = false ∨ h.head = h.tail → StartsNext s vf k p h c → ¬legalCommand c →
      EndsWith (.commandEntryArrival vf k) s vf k h c 16)

/-- Each command runs in its turn and completes: load with the loader's code and handle; unload, launch and describe of no
image with 17; an unload ends at once or when the image's launches have; a launch enters its groups; a descriptor is
registered or refused; a queue closes once; a describe writes its entries first; what needs a stack under reset waits
(R114, R373, R389, R390, R427). -/
def Sys2Proof.Spec.HostCommands : Prop :=
  (∀ (s : State) (vf k : Nat) (v : VirtualFunction) (h : HostQueue) (c : Command), s.vf? vf = some v → v.part ≠ none →
    s.queue? vf k = some h → h.cmds.find? (fun d => d.pos == c.pos) = some c →
    h.cmds.find? (fun d => d.started && d.cmd == 2 && s.launches.all fun l => l.image != d.arg.toNat % 2 ^ 32) = some c →
    s.homeUp (2 ^ 49) = true → ∃ t, exec (.unloadImage vf k) s = .next t ∧ Completes s t vf k h c 0 0 ∧
      ∀ x ∈ t.images, x.handle ≠ c.arg.toNat % 2 ^ 32) ∧
  ∀ (s : State) (vf k p : Nat) (h : HostQueue) (c : Command), StartsNext s vf k p h c → legalCommand c →
    (c.cmd = 1 →
      let q := s.quiesce p
      let at_ := hostAddr c.arg.toNat
      let l := mrb q.mem at_ (max 64 (mle q.mem (at_ + 24) 8))
      let r := q.loadImage p vf l
      (q.loadWaits p l = true → exec (.loadImage vf k) s = .next q) ∧
      (q.loadWaits p l = false →
        ∃ t, exec (.loadImage vf k) s = .next t ∧ Completes s t vf k h c r.1 r.2.1 ∧ t.images = r.2.2.images)) ∧
    (c.cmd = 2 → (∀ d ∈ h.cmds, d.started = true → d.cmd ≠ 2) →
      match named s vf c with
      | none => EndsWith (.unloadImage vf k) s vf k h c 17
      | some m =>
        if ∃ l ∈ s.launches, l.image = m.handle then
          ∃ t u, exec (.unloadImage vf k) s = .next t ∧ Underway t vf k h c ∧ t.image? m.handle = some u ∧
            u = { m with unloading := true }
        else ∃ t, exec (.unloadImage vf k) s = .next t ∧ Completes s t vf k h c 0 0 ∧ ∀ x ∈ t.images, x.handle ≠ m.handle) ∧
    (c.cmd = 3 →
      let r := launchRecord c
      match named s vf c with
      | none => EndsWith (.launch vf k) s vf k h c 17
      | some m =>
        match m.kernels[r.khdr]? with
        | none => EndsWith (.launch vf k) s vf k h c 16
        | some kern =>
          if r.ok m.kernels = false then EndsWith (.launch vf k) s vf k h c 16
          else if s.roomForLaunch p s.serial = true then
            ∃ t l, exec (.launch vf k) s = .next t ∧ Underway t vf k h c ∧ t.launches = s.launches ++ [l] ∧ l.vf = vf ∧
              l.part = p ∧ l.image = m.handle ∧ l.kern = kern ∧ l.gridx = r.gridx ∧ l.gridy = r.gridy ∧
              l.total = r.gridx * r.gridy ∧ l.ended = 0 ∧ l.origin = some (k, c.pos, c.tag) ∧
              ∀ n, sget 0 l.args n =
                if n < r.argbytes / 4 then BitVec.ofNat 32 (c.body.toNat / 2 ^ (256 + 32 * n)) else 0
          else exec (.launch vf k) s = .next s) ∧
    (c.cmd = 4 →
      let r := s.virtRead p vf c.arg.toNat 64
      let status := registerStatus r.2 vf c r.1
      (r.1 = none → r.2.away p vf c.arg.toNat .read = false) →
      ∃ t, exec (.registerGraphQueue vf k) s = .next t ∧ Completes s t vf k h c status 0 ∧
        (status = 0 → s.graphQueue? vf c.arg = none →
          t.graphQueue? vf c.arg = some { vf := vf, desc := c.arg, image := c.body.toNat % 2 ^ 32 })) ∧
    (c.cmd = 5 →
      match s.graphQueue? vf c.arg with
      | none => EndsWith (.closeGraphQueue vf k) s vf k h c 16
      | some q =>
        let r := s.virtRead p vf (c.arg.toNat + 22) 1
        let w := r.2.virtWrite p vf (c.arg.toNat + 22) 1 (r.1.getD 0 ||| 2)
        if q.closed = true then EndsWith (.closeGraphQueue vf k) s vf k h c 19
        else if w.1 = none ∧ w.2.away p vf c.arg.toNat .write = true then exec (.closeGraphQueue vf k) s = .next w.2
        else ∃ t, exec (.closeGraphQueue vf k) s = .next t ∧ Completes s t vf k h c 0 0 ∧
          t.graphQueue? vf c.arg = some { q with closed := true }) ∧
    (c.cmd = 6 →
      let at_ := c.body.toNat % 2 ^ 64
      match loadedAs s vf c with
      | none => EndsWith (.describeImage vf k) s vf k h c 17
      | some m =>
        if at_ % 64 ≠ 0 then EndsWith (.describeImage vf k) s vf k h c 16
        else ∃ t, exec (.describeImage vf k) s = .next t ∧ Completes s t vf k h c 0 m.sections.length ∧
          let out := hostAddr at_
          let done := hostAddr (h.cbase.toNat + 32 * (c.pos % 2 ^ h.lgn))
          (s.remaps = [] → ∀ n < 512, ¬(done ≤ out + n ∧ out + n < done + 32) → mread t.mem (out + n) = (described m).getD n 0))

/-- Command entries are fetched, run in their turn and complete as R390 says (R114, R389 to R391, R427).
Codes that R390 ties to no cause are the model's reading (log entry 101), and so is where commands' addresses lead
(log entry 102), that a launch waits for a free region block (log entry 119), and that an image whose unload waits takes
no new use (log entry 133). -/
def Obligations.HostQueueCommands : Prop := Sys2Proof.Spec.CommandEntries ∧ Sys2Proof.Spec.HostCommands

/-- The loader refuses an image with the lowest code that applies and leaves the machine as it was; an accepted one is the
newest image, with a new handle, the type and size of each section and its kernel headers (R8, R9, R30).
Section addresses are a constant without a body (log entry 8); errors the spec does not list one by one take the
codes of log entry 19. -/
def Obligations.LoaderChecks : Prop :=
  ∀ (s : State) (p vf : Nat) (l : List Byte),
    let r := s.loadImage p vf l
    (field l 0 4 ≠ 0x0058504F ∨ field l 12 4 ≠ 64 → r = (1, 0, s)) ∧
    (field l 0 4 = 0x0058504F → field l 12 4 = 64 → field l 4 2 ≠ 1 → r = (2, 0, s)) ∧
    (field l 0 4 = 0x0058504F → field l 12 4 = 64 → field l 4 2 = 1 → (r.1 = 3 ↔ sectionBad l = true)) ∧
    r.1 ≤ 10 ∧ (r.1 ≠ 0 → r.2.1 = 0 ∧ r.2.2 = s) ∧
    (r.1 = 0 → field l 24 8 ≤ l.length → r.2.1 = s.serial ∧ ∃ m, r.2.2.images = s.images ++ [m] ∧ m.handle = s.serial ∧ m.vf = vf ∧
      m.kernels.length = (contents l 2).length / 128 ∧ m.unloading = false ∧
      m.sections.map (fun q => (q.1, q.2.2)) = (sections l).map fun q => (q.type, (q.bytes l).length))

/-- At reset the tick is 0, every byte of memory is zero in the canonical form, no cache, partition, group, image or fault
record exists, every core is idle with its gate open, and no firmware runs (R84, R395).
That host memory reads as zero is the model's choice (log entry 4), and so is a flash without records, hence no
partition (log entry 5). -/
def Obligations.ResetState : Prop :=
  State.reset.tick = 0 ∧ Memory.wf State.reset.mem = true ∧ NoEmptyCopy State.reset ∧
  (∀ a, mread State.reset.mem a = 0) ∧ State.reset.parts = [] ∧ State.reset.vfs = [] ∧ State.reset.groups = [] ∧
  State.reset.images = [] ∧ State.reset.launches = [] ∧ State.reset.faults = [] ∧ State.reset.tlb = [] ∧
  State.reset.firmware = none ∧ ∀ k, (State.reset.core k).run = none ∧ (State.reset.core k).gate = .opened

/-- Whatever a step does, memory keeps its canonical form: addresses strictly rising, no entry equal to the resting byte.
The resting byte is 0; for host memory that is the model's choice (log entry 4). -/
def Obligations.StepKeepsMemoryCanonical : Prop :=
  ∀ s t : State, step s = .next t → Memory.wf s.mem = true → Memory.wf t.mem = true

/-- Whatever a step does, every copy in a cache goes on holding a sector or a dirty byte. -/
def Obligations.StepKeepsCopiesNonempty : Prop := ∀ s t : State, step s = .next t → NoEmptyCopy s → NoEmptyCopy t

/-! ## Waiting words that end on their issue tick -/

namespace Sys2Proof.Spec

/-- What a member brings to a cross-lane word (R136): its value, and the lane that its old D names. -/
structure Lane where
  value : Word
  target : Nat

/-- One f32 addition of the tree (R138): round to nearest, subnormals kept, flags gathered. -/
def addPair (x y : Option (Nat × BitVec 5)) : Option (Nat × BitVec 5) :=
  match x, y with
  | some a, some b =>
    let r := fsum .rne [f32.decode a.1, f32.decode b.1]
    let c := f32.encode .rne false r.1
    some (c.1, r.2 ||| c.2 ||| a.2 ||| b.2)
  | some a, none => some a
  | none, y => y

/-- The sum over the 2^n lanes from the i-th such block on, pairs first (R138). -/
def treeSum (leaf : Nat → Option (Nat × BitVec 5)) : Nat → Nat → Option (Nat × BitVec 5)
  | 0, i => leaf i
  | n + 1, i => addPair (treeSum leaf n (2 * i)) (treeSum leaf n (2 * i + 1))

/-- The sum and flags of XRDF over the lanes of a mask. -/
def laneSum (lanes : Nat → Lane) (inMask : Nat → Bool) : Nat × BitVec 5 :=
  (treeSum (fun k => if inMask k then some ((lanes k).value.toNat, 0) else none) 5 0).getD (0, 0)

/-- The result of a cross-lane word for lane m, and its detail (R138). -/
def laneResult (i : Instr) (lanes : Nat → Lane) (inMask : Nat → Bool) (m : Nat) : Nat × Nat :=
  let l := (List.range 32).filter inMask
  let senders := l.filter fun k => (lanes k).target = m
  match i with
  | .xshf _ => if inMask (lanes m).target then ((lanes (lanes m).target).value.toNat, 0) else ((lanes m).value.toNat, 2)
  | .xpsh _ =>
    match senders.getLast? with
    | none => (0, 2)
    | some k => ((lanes k).value.toNat, if senders.length = 1 then 0 else 1)
  | .xrdi _ => ((l.map fun k => (lanes k).value.toNat).sum % 2 ^ 32, 0)
  | .xrdf _ => ((laneSum lanes inMask).1 % 2 ^ 32, 0)
  | .xrmn _ => ((BitVec.ofInt 32 (((l.map fun k => (lanes k).value.toInt).min?).getD 0)).toNat, 0)
  | .xrmx _ => ((BitVec.ofInt 32 (((l.map fun k => (lanes k).value.toInt).max?).getD 0)).toNat, 0)
  | .xscn _ => (((l.filter (· ≤ m)).map fun k => (lanes k).value.toNat).sum % 2 ^ 32, 0)
  | .xvot _ => ((l.map fun k => if (lanes k).value = 0 then 0 else 2 ^ k).sum, 0)
  | _ => (((l.find? fun k => (lanes k).value ≠ 0)).getD 32, 0)

/-- The flags that a cross-lane word raises: those of XRDF's sum. -/
def laneFlags (i : Instr) (lanes : Nat → Lane) (inMask : Nat → Bool) : BitVec 5 :=
  match i with
  | .xrdf _ => (laneSum lanes inMask).2
  | _ => 0

/-- A member after a cross-lane word that has completed: D, WSTAT with the detail, and the flags. -/
def laneEnd (f : F3) (e : Env) (v : Nat × Nat) (fl : BitVec 5) (fb : Fibre) : Fibre :=
  let fb := okEnd 9 (fb.put e .X f.d 1 v.1)
  { fb with ctx := { fb.ctx with
      wstat := BitVec.ofNat 32 (16 * 9 + 256 * v.2)
      fpctl := fb.ctx.fpctl ||| BitVec.ofNat 32 (fl.toNat * 256) } }

/-- The members of run r are a bundle of one team, on their issue tick at home, each once; none of them gathers there. -/
def WholeBundle (s : State) (r : Run) (g : Group) : Prop :=
  r.fids ≠ [] ∧ r.fids.Nodup ∧ s.group? r.grp = some g ∧
  (∀ k ∈ r.fids, k / 32 = r.fids.headD 0 / 32 ∧
    ∃ fb, g.fibre? k = some fb ∧ fb.st = .issuing ∧ fb.place = .home ∧ fb.wait = none) ∧
  ∀ v ∈ g.rdvs, ¬(v.team = r.fids.headD 0 / 32 ∧ v.pkt = r.pkt)

/-- What lane k of a bundle brings to a cross-lane word. -/
def laneOf (f : F3) (e : Env) (g : Group) (r : Run) (k : Nat) : Lane :=
  let fb := g.fibre (r.fids.headD 0 / 32 * 32 + k)
  { value := e.op32 fb f.a
    target := if f.d.toNat < 64 then (e.regAt fb f.d 0).toNat % 32 else 0 }

/-- Where kept element j of a compressed K-step lies (R207): two of four, or four of eight. -/
def keptAt (pattern meta_ j : Nat) : Nat :=
  if pattern = 1 then j / 2 * 4 + meta_ / 2 ^ (2 * j) % 4 else j / 4 * 8 + meta_ / 2 ^ (3 * j) % 8

/-- The new contents of column n of a row after one K-step of 16 kept products (R207 to R210). -/
def sparseColumn (g : Group) (t : BTile) (r : Reservation) (ctl : Word) (meta_ m n : Nat) : Word :=
  let fmt := accFmt (ctl.toNat / 16 % 4)
  let step := ctl.toNat / 256 % 256
  let row := ctl.toNat / 65536 % 256 + m
  let old := if ctl.getLsbD 31 then FVal.fin false 0 0 else fmt.decode (g.accAt (ctl.toNat % 16) m n).toNat
  BitVec.ofNat 32 (accumulate fmt (old :: (List.range 16).map fun j =>
    let k := keptAt (ctl.toNat / 64 % 4) meta_ j
    (mmaTerm (g.rowElem r row (16 * step + j) (32 * step + k)) (t.elem n k)).1)).1

end Sys2Proof.Spec

/-- A cross-lane word of a bundle whose members all name exactly themselves completes on its issue tick: each member
receives the result of R138 with its detail, and XRDF raises the flags of its sum (R136 to R138). -/
def Sys2Proof.Spec.CrossLaneResults : Prop :=
  ∀ (f : F3) s r g, ∀ i ∈ crossLane f, Ready s i r g → WholeBundle s r g →
    (∀ k ∈ r.fids, (s.env r).op32 (g.fibre k) f.b = maskOf r.fids) →
    let lanes := laneOf f (s.env r) g r
    let inMask (k : Nat) : Bool := (maskOf r.fids).getLsbD k
    ∃ t, exec i s = .next t ∧ ∀ k ∈ r.fids,
      t.fibre? r.grp k = some
        (laneEnd f (s.env r) (laneResult i lanes inMask (k % 32)) (laneFlags i lanes inMask) (g.fibre k))

/-- FENCE with nothing dirty anywhere, LDWT of a word that differs from B, a BAW that completes its phase, and an MMAS with
its operands ready return OK on their issue tick with their results (R208, R224, R262, R265, R313). -/
def Sys2Proof.Spec.FencesWatchesAndArrivals : Prop :=
  ∀ (f : F3) s r g fb, Alone s r g fb → s.errors = [] →
    let e := s.env r
    (let a := (BitVec.ofInt 64 (inlineValue f.a)).toNat
     let kind := a / 8 % 4
     let scope := a % 8
     Ready s (.fence f) r g → (∀ c ∈ s.copies, c.dirty = 0) → (∀ n ∈ s.notices, n.dirty = 0) → s.peers = [] →
      ∃ t, exec (.fence f) s = .next t ∧
        let x := okEnd 5 (fb.put e .M f.d 1 0)
        t.fibre? r.grp fb.fid = some
          { x with
            wrote := if kind ≠ 1 ∧ 4 ≤ scope then [] else x.wrote
            synced := if kind ≠ 2 then true else if 4 ≤ scope then false else x.synced }) ∧
    (let q : Req := { fid := fb.fid, va := e.op64 fb f.a }
     let pa := (s.transReq g .read q).paOf
     Ready s (.ldwt f) r g → fb.onCore g = s.cur →
      (s.fillTlb s.cur g.vf (pageOf q.va.toNat)).transReq g .read q = s.transReq g .read q →
      s.check r { size := 4, acc := .read, watchRead := true, locate := true } [q] = .ok → s.lines = [] → Uncached s (pa / 256) →
      s.aperture? g.part pa = none → mle s.mem pa 4 ≠ (e.op32 fb f.b).toNat →
      ∃ t, exec (.ldwt f) s = .next t ∧ t.fibre? r.grp fb.fid = some (okEnd 4 (fb.put e .M f.d 1 (mle s.mem pa 4)))) ∧
    (let a := e.op32 fb f.a
     let b := (e.op32 fb f.b).toNat
     Ready s (.baw f) r g → barCheck f s r = .ok →
      ∀ new p, (readBar s.mem (poolOf g a)).arrive fb.fid (b / 2 ^ 16) (b % 2 ^ 16) = .ok (new, p) →
        p < 2 ^ 31 → new.phase = (p + 1) % 2 ^ 31 → readBar (mwle s.mem (poolOf g a) (new.bytes) 32) (poolOf g a) = new →
        ∃ t, exec (.baw f) s = .next t ∧
          (sget 0 s.fired (firedBar (poolOf g a)) ≤ 2 → t.mem = mwle s.mem (poolOf g a) new.bytes 32) ∧
          t.fibre? r.grp fb.fid = some (okEnd 2 (fb.put e .M f.d 1 p))) ∧
    (∀ i, Ready s (.mmas f) r g → mmasCheck f s r = .ok →
      let ctl := e.regAt fb f.d 0
      let b := e.op32 fb f.b
      let m := fb.fid % 32
      let tile := g.tileAt (b.toNat % 16) (g.slotSeq (b.toNat % 16))
      let meta_ := (e.regAt fb f.d 1).toNat + (e.regAt fb f.d 2).toNat % 65536 * 2 ^ 32
      mmaDetail g true ctl (e.op32 fb f.a) b m = 0 → g.handle? (e.op32 fb f.a) = some i → tile.ready → tile.fault = none →
      g.obBad = [] → g.accBad = [] → (∀ q ∈ g.seqs, q.tile ≠ ctl.toNat % 16) →
      ∃ t h fl, exec (.mmas f) s = .next t ∧ t.group? r.grp = some h ∧
        t.fibre? r.grp fb.fid = some (okEnd 11 (merged fb fl)) ∧
        ∀ tl row n, row < 32 → n < 32 →
          h.accAt tl row n =
            if tl = ctl.toNat % 16 ∧ row = m then sparseColumn g tile (g.entry i) ctl meta_ m n else g.accAt tl row n)

/-- VFPSH with room appends its members' values behind the key, VFPOP of the head's key takes it, PGATE with the open bit
opens a gate, and MIGR stays on its stack, asks for home or for the lowest core with a free landing slot: all with OK on
their issue tick (R135, R377, R380, R382). -/
def Sys2Proof.Spec.TierWordsEnd : Prop :=
  ∀ (f : F3) s r g fb, Alone s r g fb →
    let e := s.env r
    let m := fb.fid % 32
    let key := e.op32 fb f.b
    (Ready s (.vfpsh f) r g → fb.place = .home → key.toNat < 2 ^ 16 → (s.core (partnerOf g.core)).gate = .opened →
      (s.core g.core).fifo.length < 16 → ∃ t, exec (.vfpsh f) s = .next t ∧
        (t.core g.core).fifo = (s.core g.core).fifo ++
          [{ key := BitVec.ofNat 16 key.toNat, mask := 1#32 <<< m, lanes := sset 0 [] m (e.op32 fb f.a) }] ∧
        (t.group? r.grp).map (·.pinned) = some true ∧ t.fibre? r.grp fb.fid = some (okEnd 10 fb)) ∧
    (∀ x rest, Ready s (.vfpop f) r g → fb.place = .home → (s.core (partnerOf g.core)).fifo = x :: rest → key.toNat = x.key.toNat →
      ∃ t, exec (.vfpop f) s = .next t ∧ (t.core (partnerOf g.core)).fifo = rest ∧
        (t.group? r.grp).map (·.pinned) = some true ∧
        t.fibre? r.grp fb.fid = some (okEnd 10 (fb.put e .M f.d 2 ((sget 0 x.lanes m).toNat + 2 ^ 32 * x.mask.toNat)))) ∧
    (let c := (e.op32 fb f.a).toNat
     Ready s (.pgate f) r g → c ∈ s.coresOf g.part → c < 1024 → key.toNat < 4 → key.getLsbD 1 = true → partnerOf c ≠ c →
      ∃ t, exec (.pgate f) s = .next t ∧ (t.core c).gate = .opened ∧ (t.core c).spill = [] ∧
        (t.core (partnerOf c)).fifo = (s.core c).spill ++ (s.core (partnerOf c)).fifo ∧
        t.fibre? r.grp fb.fid = some (okEnd 12 (fb.put e .X f.d 1 0))) ∧
    (let flag := e.op32 fb f.b
     let st := homeStack (s.transReq g .any { fid := fb.fid, va := e.op64 fb f.a }).paOf
     let dest : BitVec 7 := if f.d.toNat < 64 then BitVec.ofNat 7 (mapReg e.mp f.d.toNat) else f.d
     let goes (c : Option Nat) : Prop := ∃ t, exec (.migr f) s = .next t ∧
       t.fibre? r.grp fb.fid = some (okEnd 8 { fb with after := { fb.after with migr := some (c, dest) } })
     Ready s (.migr f) r g → fb.after = {} →
      (flag = 1 → goes none) ∧
      (flag = 0 → s.check r { size := 1, acc := .any } [{ fid := fb.fid, va := e.op64 fb f.a }] = .ok →
        (st = stackOf (fb.onCore g) → ∃ t, exec (.migr f) s = .next t ∧
          let x := okEnd 8 (fb.put e .X f.d 1 (fb.onCore g))
          t.fibre? r.grp fb.fid = some { x with ctx := { x.ctx with wstat := BitVec.ofNat 32 (16 * 8 + 256) } }) ∧
        (∀ c, st ≠ stackOf (fb.onCore g) → c ∈ s.coresOf g.part → c < 1024 → stackOf c = st → s.stackUp st = true →
          s.landingFree c ≠ 0 →
          (∀ d ∈ s.coresOf g.part, stackOf d = st → d < c → s.landingFree d = 0) → goes (some c))))

/-- QEMIT to a queue with room writes its record and returns its number, QRECV takes the oldest record of a persistent
queue, and CSLD of a well-formed image replaces its slots and returns their count, each with OK on its issue tick; a CSLD whose
image its key, its signature or its slots forbid leaves the store as it is, with FAULTED and the detail (R82, R132, R133). -/
def Sys2Proof.Spec.QueueAndStoreWordsEnd : Prop :=
  ∀ (f : F3) s r g fb, Alone s r g fb →
    let e := s.env r
    let a := e.op64 fb f.a
    let desc := s.readDesc g.part g.vf a
    (∀ d q x y, Ready s (.qemit f) r g → desc.1 = some d → desc.2.graphQueue? g.vf a = some q → d.closed = false → q.closed = false →
      mapReg e.mp f.b.toNat + min (d.rbytes / 4) 16 ≤ g.kern.window → d.tail - d.head < d.cap →
      let words := (List.range 16).map (e.regAt fb f.b)
      ((desc.2.release (fb.onCore g) 4).virtWrite g.part g.vf (d.ring + 64 * (d.tail % d.cap)) (4 * min (d.rbytes / 4) 16)
        (wordsNat words)).1 = some x → (x.virtWrite g.part g.vf (a.toNat + 32) 8 (d.tail + 1)).1 = some y →
      ∃ t, exec (.qemit f) s = .next t ∧ t.mem = y.mem ∧ t.fibre? r.grp fb.fid = some (okEnd 7 (fb.put e .X f.d 1 d.tail))) ∧
    (∀ d q v x y, Ready s (.qrecv f) r g → desc.1 = some d → desc.2.graphQueue? g.vf a = some q → d.persistent = true →
      mapReg e.mp f.d.toNat + min (d.rbytes / 4) 16 ≤ g.kern.window → d.tail ≠ d.head → 4 ≤ d.rbytes →
      desc.2.virtRead g.part g.vf (d.ring + 64 * (d.head % d.cap)) (4 * min (d.rbytes / 4) 16) = (some v, x) →
      (x.virtWrite g.part g.vf (a.toNat + 40) 8 (d.head + 1)).1 = some y →
      ∃ t, exec (.qrecv f) s = .next t ∧
        t.fibre? r.grp fb.fid = some (okEnd 7 (fb.put e .X f.d (min (d.rbytes / 4) 16) v))) ∧
    (∀ m q, Ready s (.csld f) r g → csldCheck f s r = .ok → s.csldImage g a = .ok m → s.part? g.part = some q →
      s.insideSlots g.part m.present = false → (∀ o ∈ g.fibres, o.fid / 32 = fb.fid / 32 → o.fid < fb.fid →
        o.wait = none ∧ o.saved = none) →
      (if fb.ctx.escpc = r.pkt then fb.ctx.escnt.toNat + 1 else 1) < g.pol.escal →
      let detail := s.csldDetail g (e.op64 fb f.b) m
      ∃ t, exec (.csld f) s = .next t ∧
        t.fibre? r.grp fb.fid = some
          (if detail = 0 then okEnd 13 (fb.put e .X f.d 1 ((List.range 64).filter fun k => m.present.getLsbD k).length)
          else otherEnd 13 5 detail r.pkt (fb.put e .X f.d 1 0)) ∧
        ∀ k, (∀ ws, detail = 0 → m.slots.filter (·.1 == k) = [(k, ws)] → t.slotWords g.part k = some ws) ∧
          (detail ≠ 0 → t.slotWords g.part k = s.slotWords g.part k))

/-- Waiting words whose condition holds on their issue tick return OK there with their results (R82, R98, R105, R133, R135 to
R138, R208, R224, R254, R255, R265, R313, R377, R380).
MIGR's checks, LDWT's translation and the order of CSLD's reads are the model's reading (log entries 31, 37, 64 and
68), and so is what an OK at a column place acquires: memory is said to stay where no record of a scope wider than K has fired
there (R293, log entry 147). -/
def Obligations.WaitsEndingAtIssue : Prop := Sys2Proof.Spec.ScratchpadWaitsEnd ∧ Sys2Proof.Spec.CrossLaneResults ∧ Sys2Proof.Spec.FencesWatchesAndArrivals ∧ Sys2Proof.Spec.TierWordsEnd ∧ Sys2Proof.Spec.QueueAndStoreWordsEnd
end

