-- ==== Sys2Proof/Laws/Sparse.lean ====
section
/-!
SUPPORT. Laws of the sparse list and of memory: a read after a write, and the canonical form that every
operation keeps.
-/

namespace Sys2Proof.Machine

variable {α : Type}

/-! ## Reading what was written -/

theorem sget_sdel_same (d : α) (m : Sparse α) (k : Nat) : sget d (sdel k m) k = d := by
  induction m with
  | nil => rfl
  | cons e m ih =>
    obtain ⟨i, v⟩ := e
    by_cases h : i = k <;> simp [sdel, sget, h, ih]

theorem sget_sdel_ne (d : α) (m : Sparse α) {k j : Nat} (h : j ≠ k) : sget d (sdel k m) j = sget d m j := by
  induction m with
  | nil => rfl
  | cons e m ih =>
    obtain ⟨i, v⟩ := e
    by_cases hi : i = k
    · simp [sdel, sget, hi, ih, Ne.symm h]
    · simp [sdel, sget, hi, ih]

theorem sget_sins_same (d : α) (m : Sparse α) (k : Nat) (v : α)
    (hk : ∀ e ∈ m, e.1 ≠ k) : sget d (sins k v m) k = v := by
  induction m with
  | nil => simp [sins, sget]
  | cons e m ih =>
    obtain ⟨i, w⟩ := e
    have hi : i ≠ k := hk _ (List.mem_cons_self ..)
    by_cases hlt : k < i
    · simp [sins, sget, hlt]
    · simp only [sins, hlt, if_false, sget, hi]
      exact ih fun e he => hk e (List.mem_cons_of_mem _ he)

theorem sget_sins_ne (d : α) (m : Sparse α) {k j : Nat} (v : α) (h : j ≠ k) :
    sget d (sins k v m) j = sget d m j := by
  induction m with
  | nil => simp [sins, sget, Ne.symm h]
  | cons e m ih =>
    obtain ⟨i, w⟩ := e
    by_cases hlt : k < i
    · simp [sins, sget, hlt, Ne.symm h]
    · simp [sins, sget, hlt, ih]

theorem sdel_key (m : Sparse α) (k : Nat) : ∀ e ∈ sdel k m, e.1 ≠ k := by
  induction m with
  | nil => simp [sdel]
  | cons e m ih =>
    obtain ⟨i, v⟩ := e
    by_cases h : i = k
    · simpa [sdel, h] using ih
    · simpa [sdel, h] using ih

/-- A read of the index just written gives the value written. -/
@[simp] theorem sget_sset_same [DecidableEq α] (d : α) (m : Sparse α) (k : Nat) (v : α) : sget d (sset d m k v) k = v := by
  unfold sset
  split
  · next h => rw [sget_sdel_same, h]
  · exact sget_sins_same d _ k v (sdel_key m k)

/-- A write leaves every other index alone. -/
theorem sget_sset_ne [DecidableEq α] (d : α) (m : Sparse α) {k j : Nat} (v : α) (h : j ≠ k) :
    sget d (sset d m k v) j = sget d m j := by
  unfold sset
  split
  · exact sget_sdel_ne d m h
  · rw [sget_sins_ne d _ v h, sget_sdel_ne d m h]

/-! ## The canonical form -/

/-- The canonical form said with list predicates. -/
theorem swf_iff [DecidableEq α] (d : α) (m : Sparse α) :
    swf d m = true ↔ (m.map Prod.fst).Pairwise (· < ·) ∧ ∀ e ∈ m, e.2 ≠ d := by
  induction m with
  | nil => simp [swf]
  | cons e m ih =>
    obtain ⟨i, v⟩ := e
    cases m with
    | nil => simp [swf]
    | cons e' m =>
      obtain ⟨j, w⟩ := e'
      simp only [swf, Bool.and_eq_true, decide_eq_true_eq] at ih ⊢
      rw [ih]
      simp only [List.map_cons, List.pairwise_cons, List.mem_cons, List.mem_map, forall_eq_or_imp]
      constructor
      · rintro ⟨⟨hv, hij⟩, ⟨h1, h2⟩, hw, h3⟩
        refine ⟨⟨⟨hij, ?_⟩, h1, h2⟩, by simpa using hv, hw, h3⟩
        rintro a ⟨x, hx, rfl⟩
        exact hij.trans (h1 _ ⟨x, hx, rfl⟩)
      · rintro ⟨⟨⟨hij, _⟩, h1, h2⟩, hv, hw, h3⟩
        exact ⟨⟨by simpa using hv, hij⟩, ⟨h1, h2⟩, hw, h3⟩

/-- A part of a canonical list is canonical. -/
theorem swf_sublist [DecidableEq α] {d : α} {l m : Sparse α} (h : swf d m = true) (hs : l.Sublist m) : swf d l = true := by
  rw [swf_iff] at h ⊢
  exact ⟨h.1.sublist (hs.map _), fun e he => h.2 e (hs.subset he)⟩

theorem sdel_sublist (k : Nat) (m : Sparse α) : (sdel k m).Sublist m := by
  induction m with
  | nil => exact List.Sublist.slnil
  | cons e m ih =>
    obtain ⟨i, v⟩ := e
    by_cases h : i = k
    · simpa [sdel, h] using ih.trans (List.sublist_cons_self _ _)
    · simpa [sdel, h] using ih

theorem sins_mem {k : Nat} {v : α} {m : Sparse α} {e : Nat × α} (h : e ∈ sins k v m) : e = (k, v) ∨ e ∈ m := by
  induction m with
  | nil => simpa [sins] using h
  | cons a m ih =>
    obtain ⟨i, w⟩ := a
    by_cases hlt : k < i
    · simpa [sins, hlt] using h
    · simp only [sins, hlt, if_false, List.mem_cons] at h ⊢
      rcases h with h | h
      · exact .inr (.inl h)
      · rcases ih h with h | h
        · exact .inl h
        · exact .inr (.inr h)

theorem swf_sins [DecidableEq α] {d : α} {m : Sparse α} {k : Nat} {v : α} (h : swf d m = true) (hv : v ≠ d)
    (hk : ∀ e ∈ m, e.1 ≠ k) : swf d (sins k v m) = true := by
  induction m with
  | nil => simp [sins, swf, hv]
  | cons a m ih =>
    obtain ⟨i, w⟩ := a
    have hm := (swf_iff d _).1 h
    by_cases hlt : k < i
    · rw [swf_iff]
      simp only [List.map_cons, List.pairwise_cons, List.mem_cons, forall_eq_or_imp] at hm
      simp only [sins, hlt, if_true, List.map_cons, List.pairwise_cons, List.mem_cons, forall_eq_or_imp, true_and]
      exact ⟨⟨fun a ha => hlt.trans (hm.1.1 a ha), hm.1⟩, hv, hm.2⟩
    · have hi : i < k := by
        have := hk (i, w) (List.mem_cons_self ..)
        simp at this hlt
        omega
      have ht : swf d m = true := swf_sublist h (List.sublist_cons_self _ _)
      have := ih ht fun e he => hk e (List.mem_cons_of_mem _ he)
      rw [swf_iff] at this ⊢
      simp only [sins, hlt, if_false, List.map_cons, List.pairwise_cons, List.mem_cons, forall_eq_or_imp]
      simp only [List.map_cons, List.pairwise_cons, List.mem_cons, forall_eq_or_imp] at hm
      refine ⟨⟨?_, this.1⟩, hm.2.1, this.2⟩
      intro a ha
      obtain ⟨e, he, rfl⟩ := List.mem_map.1 ha
      rcases sins_mem he with rfl | he
      · exact hi
      · exact hm.1.1 _ (List.mem_map.2 ⟨e, he, rfl⟩)

/-- A write keeps the canonical form. -/
theorem swf_sset [DecidableEq α] {d : α} {m : Sparse α} (k : Nat) (v : α) (h : swf d m = true) : swf d (sset d m k v) = true := by
  unfold sset
  split
  · exact swf_sublist h (sdel_sublist k m)
  · next hv => exact swf_sins (swf_sublist h (sdel_sublist k m)) hv (sdel_key m k)

theorem swf_filter [DecidableEq α] {d : α} {m : Sparse α} (p : Nat × α → Bool) (h : swf d m = true) : swf d (m.filter p) = true :=
  swf_sublist h List.filter_sublist

/-! ## Memory -/

@[simp] theorem mread_mwrite_same (m : Memory) (a : Nat) (v : Byte) : mread (mwrite m a v) a = v :=
  sget_sset_same restingByte m a v

theorem mread_mwrite_ne (m : Memory) {a b : Nat} (v : Byte) (h : b ≠ a) : mread (mwrite m a v) b = mread m b :=
  sget_sset_ne restingByte m v h

theorem wf_mwrite {m : Memory} (h : Memory.wf m = true) (a : Nat) (v : Byte) : Memory.wf (mwrite m a v) = true :=
  swf_sset a v h

theorem wf_mwle {m : Memory} (h : Memory.wf m = true) (a v n : Nat) : Memory.wf (mwle m a v n) = true := by
  induction n generalizing m a v with
  | zero => exact h
  | succ n ih => exact ih (wf_mwrite h ..) _ _

theorem wf_mwb {m : Memory} (h : Memory.wf m = true) (a : Nat) (l : List Byte) : Memory.wf (mwb m a l) = true := by
  induction l generalizing m a with
  | nil => exact h
  | cons b l ih => exact ih (wf_mwrite h ..) _

theorem wf_filter {m : Memory} (h : Memory.wf m = true) (p : Host.Cell → Bool) : Memory.wf (m.filter p) = true :=
  swf_filter p h

theorem wf_mzero {m : Memory} (h : Memory.wf m = true) (a n : Nat) : Memory.wf (mzero m a n) = true :=
  wf_filter h _

theorem wf_foldl {β : Type} (u : Memory → β → Memory) (hu : ∀ m b, Memory.wf m = true → Memory.wf (u m b) = true)
    (l : List β) {m : Memory} (h : Memory.wf m = true) : Memory.wf (l.foldl u m) = true := by
  induction l generalizing m with
  | nil => exact h
  | cons b l ih => exact ih (hu _ _ h)

/-- Bytes outside a written range read as before. -/
theorem mread_mwle_out (m : Memory) (a v n b : Nat) (h : b < a ∨ a + n ≤ b) :
    mread (mwle m a v n) b = mread m b := by
  induction n generalizing m a v with
  | zero => rfl
  | succ n ih =>
    rw [mwle, ih _ _ _ (by omega), mread_mwrite_ne _ _ (by omega)]

/-- Byte k of a written range. -/
theorem mread_mwle_in (m : Memory) (a v n k : Nat) (h : k < n) :
    mread (mwle m a v n) (a + k) = BitVec.ofNat 8 (v / 256 ^ k) := by
  induction n generalizing m a v k with
  | zero => omega
  | succ n ih =>
    cases k with
    | zero => rw [mwle, mread_mwle_out _ _ _ _ _ (by omega)]; simp
    | succ k =>
      rw [mwle, show a + (k + 1) = a + 1 + k by omega, ih _ _ _ _ (by omega), Nat.div_div_eq_div_mul]
      congr 2
      ring

/-- A number written to memory reads back. -/
theorem mle_mwle (m : Memory) (a v n : Nat) : mle (mwle m a v n) a n = v % 256 ^ n := by
  induction n generalizing m a v with
  | zero => simp [mle, Nat.mod_one]
  | succ n ih =>
    rw [mle, mwle, ih, mread_mwle_out _ _ _ _ _ (by omega), mread_mwrite_same, BitVec.toNat_ofNat]
    show v % 256 + 256 * (v / 256 % 256 ^ n) = v % 256 ^ (n + 1)
    rw [pow_succ' 256 n, Nat.mod_mul]

end Sys2Proof.Machine
end

