-- ==== Sys2Proof/Laws/State.lean ====
section
/-!
SUPPORT. What the named updates of the state leave alone, field by field, and what a lookup finds after one.
-/

namespace Sys2Proof.Machine

/-! ## Fields that an update leaves alone -/

@[simp] theorem modGroup_tick (s : State) (g : Nat) (u : Group → Group) : (s.modGroup g u).tick = s.tick := rfl
@[simp] theorem modGroup_ahead (s : State) (g : Nat) (u : Group → Group) : (s.modGroup g u).ahead = s.ahead := rfl
@[simp] theorem modGroup_agenda (s : State) (g : Nat) (u : Group → Group) : (s.modGroup g u).agenda = s.agenda := rfl
@[simp] theorem modGroup_did (s : State) (g : Nat) (u : Group → Group) : (s.modGroup g u).did = s.did := rfl
@[simp] theorem modGroup_turn (s : State) (g : Nat) (u : Group → Group) : (s.modGroup g u).turn = s.turn := rfl
@[simp] theorem modGroup_cur (s : State) (g : Nat) (u : Group → Group) : (s.modGroup g u).cur = s.cur := rfl
@[simp] theorem modGroup_fresh (s : State) (g : Nat) (u : Group → Group) : (s.modGroup g u).fresh = s.fresh := rfl
@[simp] theorem modGroup_serial (s : State) (g : Nat) (u : Group → Group) : (s.modGroup g u).serial = s.serial := rfl
@[simp] theorem modGroup_mem (s : State) (g : Nat) (u : Group → Group) : (s.modGroup g u).mem = s.mem := rfl
@[simp] theorem modGroup_full (s : State) (g : Nat) (u : Group → Group) : (s.modGroup g u).full = s.full := rfl
@[simp] theorem modGroup_fired (s : State) (g : Nat) (u : Group → Group) : (s.modGroup g u).fired = s.fired := rfl
@[simp] theorem modGroup_errors (s : State) (g : Nat) (u : Group → Group) : (s.modGroup g u).errors = s.errors := rfl
@[simp] theorem modGroup_lines (s : State) (g : Nat) (u : Group → Group) : (s.modGroup g u).lines = s.lines := rfl
@[simp] theorem modGroup_copies (s : State) (g : Nat) (u : Group → Group) : (s.modGroup g u).copies = s.copies := rfl
@[simp] theorem modGroup_fetched (s : State) (g : Nat) (u : Group → Group) : (s.modGroup g u).fetched = s.fetched := rfl
@[simp] theorem modGroup_notices (s : State) (g : Nat) (u : Group → Group) : (s.modGroup g u).notices = s.notices := rfl
@[simp] theorem modGroup_sent (s : State) (g : Nat) (u : Group → Group) : (s.modGroup g u).sent = s.sent := rfl
@[simp] theorem modGroup_tlb (s : State) (g : Nat) (u : Group → Group) : (s.modGroup g u).tlb = s.tlb := rfl
@[simp] theorem modGroup_walks (s : State) (g : Nat) (u : Group → Group) : (s.modGroup g u).walks = s.walks := rfl
@[simp] theorem modGroup_walkTurn (s : State) (g : Nat) (u : Group → Group) : (s.modGroup g u).walkTurn = s.walkTurn := rfl
@[simp] theorem modGroup_faults (s : State) (g : Nat) (u : Group → Group) : (s.modGroup g u).faults = s.faults := rfl
@[simp] theorem modGroup_remaps (s : State) (g : Nat) (u : Group → Group) : (s.modGroup g u).remaps = s.remaps := rfl
@[simp] theorem modGroup_invalidations (s : State) (g : Nat) (u : Group → Group) : (s.modGroup g u).invalidations = s.invalidations := rfl
@[simp] theorem modGroup_publishes (s : State) (g : Nat) (u : Group → Group) : (s.modGroup g u).publishes = s.publishes := rfl
@[simp] theorem modGroup_attrs (s : State) (g : Nat) (u : Group → Group) : (s.modGroup g u).attrs = s.attrs := rfl
@[simp] theorem modGroup_padAttrs (s : State) (g : Nat) (u : Group → Group) : (s.modGroup g u).padAttrs = s.padAttrs := rfl
@[simp] theorem modGroup_scrubbing (s : State) (g : Nat) (u : Group → Group) : (s.modGroup g u).scrubbing = s.scrubbing := rfl
@[simp] theorem modGroup_heldWrites (s : State) (g : Nat) (u : Group → Group) : (s.modGroup g u).heldWrites = s.heldWrites := rfl
@[simp] theorem modGroup_stackStates (s : State) (g : Nat) (u : Group → Group) : (s.modGroup g u).stackStates = s.stackStates := rfl
@[simp] theorem modGroup_retries (s : State) (g : Nat) (u : Group → Group) : (s.modGroup g u).retries = s.retries := rfl
@[simp] theorem modGroup_owedTicks (s : State) (g : Nat) (u : Group → Group) : (s.modGroup g u).owedTicks = s.owedTicks := rfl
@[simp] theorem modGroup_packets (s : State) (g : Nat) (u : Group → Group) : (s.modGroup g u).packets = s.packets := rfl
@[simp] theorem modGroup_answered (s : State) (g : Nat) (u : Group → Group) : (s.modGroup g u).answered = s.answered := rfl
@[simp] theorem modGroup_answers (s : State) (g : Nat) (u : Group → Group) : (s.modGroup g u).answers = s.answers := rfl
@[simp] theorem modGroup_flash (s : State) (g : Nat) (u : Group → Group) : (s.modGroup g u).flash = s.flash := rfl
@[simp] theorem modGroup_standing (s : State) (g : Nat) (u : Group → Group) : (s.modGroup g u).standing = s.standing := rfl
@[simp] theorem modGroup_warning (s : State) (g : Nat) (u : Group → Group) : (s.modGroup g u).warning = s.warning := rfl
@[simp] theorem modGroup_emergency (s : State) (g : Nat) (u : Group → Group) : (s.modGroup g u).emergency = s.emergency := rfl
@[simp] theorem modGroup_firmware (s : State) (g : Nat) (u : Group → Group) : (s.modGroup g u).firmware = s.firmware := rfl
@[simp] theorem modGroup_recovery (s : State) (g : Nat) (u : Group → Group) : (s.modGroup g u).recovery = s.recovery := rfl
@[simp] theorem modGroup_log (s : State) (g : Nat) (u : Group → Group) : (s.modGroup g u).log = s.log := rfl
@[simp] theorem modGroup_parts (s : State) (g : Nat) (u : Group → Group) : (s.modGroup g u).parts = s.parts := rfl
@[simp] theorem modGroup_vfs (s : State) (g : Nat) (u : Group → Group) : (s.modGroup g u).vfs = s.vfs := rfl
@[simp] theorem modGroup_images (s : State) (g : Nat) (u : Group → Group) : (s.modGroup g u).images = s.images := rfl
@[simp] theorem modGroup_launches (s : State) (g : Nat) (u : Group → Group) : (s.modGroup g u).launches = s.launches := rfl
@[simp] theorem modGroup_cores (s : State) (g : Nat) (u : Group → Group) : (s.modGroup g u).cores = s.cores := rfl
@[simp] theorem modGroup_freeze (s : State) (g : Nat) (u : Group → Group) : (s.modGroup g u).freeze = s.freeze := rfl
@[simp] theorem modGroup_energy (s : State) (g : Nat) (u : Group → Group) : (s.modGroup g u).energy = s.energy := rfl
@[simp] theorem modGroup_window (s : State) (g : Nat) (u : Group → Group) : (s.modGroup g u).window = s.window := rfl
@[simp] theorem modGroup_hot (s : State) (g : Nat) (u : Group → Group) : (s.modGroup g u).hot = s.hot := rfl
@[simp] theorem modGroup_ports (s : State) (g : Nat) (u : Group → Group) : (s.modGroup g u).ports = s.ports := rfl
@[simp] theorem modGroup_modules (s : State) (g : Nat) (u : Group → Group) : (s.modGroup g u).modules = s.modules := rfl
@[simp] theorem modGroup_peers (s : State) (g : Nat) (u : Group → Group) : (s.modGroup g u).peers = s.peers := rfl
@[simp] theorem modGroup_msix (s : State) (g : Nat) (u : Group → Group) : (s.modGroup g u).msix = s.msix := rfl
@[simp] theorem modGroup_toPf0 (s : State) (g : Nat) (u : Group → Group) : (s.modGroup g u).toPf0 = s.toPf0 := rfl

@[simp] theorem modPart_tick (s : State) (p : Nat) (u : Partition → Partition) : (s.modPart p u).tick = s.tick := rfl
@[simp] theorem modPart_ahead (s : State) (p : Nat) (u : Partition → Partition) : (s.modPart p u).ahead = s.ahead := rfl
@[simp] theorem modPart_agenda (s : State) (p : Nat) (u : Partition → Partition) : (s.modPart p u).agenda = s.agenda := rfl
@[simp] theorem modPart_did (s : State) (p : Nat) (u : Partition → Partition) : (s.modPart p u).did = s.did := rfl
@[simp] theorem modPart_turn (s : State) (p : Nat) (u : Partition → Partition) : (s.modPart p u).turn = s.turn := rfl
@[simp] theorem modPart_cur (s : State) (p : Nat) (u : Partition → Partition) : (s.modPart p u).cur = s.cur := rfl
@[simp] theorem modPart_fresh (s : State) (p : Nat) (u : Partition → Partition) : (s.modPart p u).fresh = s.fresh := rfl
@[simp] theorem modPart_serial (s : State) (p : Nat) (u : Partition → Partition) : (s.modPart p u).serial = s.serial := rfl
@[simp] theorem modPart_mem (s : State) (p : Nat) (u : Partition → Partition) : (s.modPart p u).mem = s.mem := rfl
@[simp] theorem modPart_full (s : State) (p : Nat) (u : Partition → Partition) : (s.modPart p u).full = s.full := rfl
@[simp] theorem modPart_fired (s : State) (p : Nat) (u : Partition → Partition) : (s.modPart p u).fired = s.fired := rfl
@[simp] theorem modPart_errors (s : State) (p : Nat) (u : Partition → Partition) : (s.modPart p u).errors = s.errors := rfl
@[simp] theorem modPart_lines (s : State) (p : Nat) (u : Partition → Partition) : (s.modPart p u).lines = s.lines := rfl
@[simp] theorem modPart_copies (s : State) (p : Nat) (u : Partition → Partition) : (s.modPart p u).copies = s.copies := rfl
@[simp] theorem modPart_fetched (s : State) (p : Nat) (u : Partition → Partition) : (s.modPart p u).fetched = s.fetched := rfl
@[simp] theorem modPart_notices (s : State) (p : Nat) (u : Partition → Partition) : (s.modPart p u).notices = s.notices := rfl
@[simp] theorem modPart_sent (s : State) (p : Nat) (u : Partition → Partition) : (s.modPart p u).sent = s.sent := rfl
@[simp] theorem modPart_tlb (s : State) (p : Nat) (u : Partition → Partition) : (s.modPart p u).tlb = s.tlb := rfl
@[simp] theorem modPart_walks (s : State) (p : Nat) (u : Partition → Partition) : (s.modPart p u).walks = s.walks := rfl
@[simp] theorem modPart_walkTurn (s : State) (p : Nat) (u : Partition → Partition) : (s.modPart p u).walkTurn = s.walkTurn := rfl
@[simp] theorem modPart_faults (s : State) (p : Nat) (u : Partition → Partition) : (s.modPart p u).faults = s.faults := rfl
@[simp] theorem modPart_remaps (s : State) (p : Nat) (u : Partition → Partition) : (s.modPart p u).remaps = s.remaps := rfl
@[simp] theorem modPart_invalidations (s : State) (p : Nat) (u : Partition → Partition) : (s.modPart p u).invalidations = s.invalidations := rfl
@[simp] theorem modPart_publishes (s : State) (p : Nat) (u : Partition → Partition) : (s.modPart p u).publishes = s.publishes := rfl
@[simp] theorem modPart_attrs (s : State) (p : Nat) (u : Partition → Partition) : (s.modPart p u).attrs = s.attrs := rfl
@[simp] theorem modPart_padAttrs (s : State) (p : Nat) (u : Partition → Partition) : (s.modPart p u).padAttrs = s.padAttrs := rfl
@[simp] theorem modPart_scrubbing (s : State) (p : Nat) (u : Partition → Partition) : (s.modPart p u).scrubbing = s.scrubbing := rfl
@[simp] theorem modPart_heldWrites (s : State) (p : Nat) (u : Partition → Partition) : (s.modPart p u).heldWrites = s.heldWrites := rfl
@[simp] theorem modPart_stackStates (s : State) (p : Nat) (u : Partition → Partition) : (s.modPart p u).stackStates = s.stackStates := rfl
@[simp] theorem modPart_retries (s : State) (p : Nat) (u : Partition → Partition) : (s.modPart p u).retries = s.retries := rfl
@[simp] theorem modPart_owedTicks (s : State) (p : Nat) (u : Partition → Partition) : (s.modPart p u).owedTicks = s.owedTicks := rfl
@[simp] theorem modPart_packets (s : State) (p : Nat) (u : Partition → Partition) : (s.modPart p u).packets = s.packets := rfl
@[simp] theorem modPart_answered (s : State) (p : Nat) (u : Partition → Partition) : (s.modPart p u).answered = s.answered := rfl
@[simp] theorem modPart_answers (s : State) (p : Nat) (u : Partition → Partition) : (s.modPart p u).answers = s.answers := rfl
@[simp] theorem modPart_flash (s : State) (p : Nat) (u : Partition → Partition) : (s.modPart p u).flash = s.flash := rfl
@[simp] theorem modPart_standing (s : State) (p : Nat) (u : Partition → Partition) : (s.modPart p u).standing = s.standing := rfl
@[simp] theorem modPart_warning (s : State) (p : Nat) (u : Partition → Partition) : (s.modPart p u).warning = s.warning := rfl
@[simp] theorem modPart_emergency (s : State) (p : Nat) (u : Partition → Partition) : (s.modPart p u).emergency = s.emergency := rfl
@[simp] theorem modPart_firmware (s : State) (p : Nat) (u : Partition → Partition) : (s.modPart p u).firmware = s.firmware := rfl
@[simp] theorem modPart_recovery (s : State) (p : Nat) (u : Partition → Partition) : (s.modPart p u).recovery = s.recovery := rfl
@[simp] theorem modPart_log (s : State) (p : Nat) (u : Partition → Partition) : (s.modPart p u).log = s.log := rfl
@[simp] theorem modPart_vfs (s : State) (p : Nat) (u : Partition → Partition) : (s.modPart p u).vfs = s.vfs := rfl
@[simp] theorem modPart_images (s : State) (p : Nat) (u : Partition → Partition) : (s.modPart p u).images = s.images := rfl
@[simp] theorem modPart_launches (s : State) (p : Nat) (u : Partition → Partition) : (s.modPart p u).launches = s.launches := rfl
@[simp] theorem modPart_groups (s : State) (p : Nat) (u : Partition → Partition) : (s.modPart p u).groups = s.groups := rfl
@[simp] theorem modPart_cores (s : State) (p : Nat) (u : Partition → Partition) : (s.modPart p u).cores = s.cores := rfl
@[simp] theorem modPart_freeze (s : State) (p : Nat) (u : Partition → Partition) : (s.modPart p u).freeze = s.freeze := rfl
@[simp] theorem modPart_energy (s : State) (p : Nat) (u : Partition → Partition) : (s.modPart p u).energy = s.energy := rfl
@[simp] theorem modPart_window (s : State) (p : Nat) (u : Partition → Partition) : (s.modPart p u).window = s.window := rfl
@[simp] theorem modPart_hot (s : State) (p : Nat) (u : Partition → Partition) : (s.modPart p u).hot = s.hot := rfl
@[simp] theorem modPart_ports (s : State) (p : Nat) (u : Partition → Partition) : (s.modPart p u).ports = s.ports := rfl
@[simp] theorem modPart_modules (s : State) (p : Nat) (u : Partition → Partition) : (s.modPart p u).modules = s.modules := rfl
@[simp] theorem modPart_peers (s : State) (p : Nat) (u : Partition → Partition) : (s.modPart p u).peers = s.peers := rfl
@[simp] theorem modPart_msix (s : State) (p : Nat) (u : Partition → Partition) : (s.modPart p u).msix = s.msix := rfl
@[simp] theorem modPart_toPf0 (s : State) (p : Nat) (u : Partition → Partition) : (s.modPart p u).toPf0 = s.toPf0 := rfl

@[simp] theorem modVf_tick (s : State) (v : Nat) (u : VirtualFunction → VirtualFunction) : (s.modVf v u).tick = s.tick := rfl
@[simp] theorem modVf_ahead (s : State) (v : Nat) (u : VirtualFunction → VirtualFunction) : (s.modVf v u).ahead = s.ahead := rfl
@[simp] theorem modVf_agenda (s : State) (v : Nat) (u : VirtualFunction → VirtualFunction) : (s.modVf v u).agenda = s.agenda := rfl
@[simp] theorem modVf_did (s : State) (v : Nat) (u : VirtualFunction → VirtualFunction) : (s.modVf v u).did = s.did := rfl
@[simp] theorem modVf_turn (s : State) (v : Nat) (u : VirtualFunction → VirtualFunction) : (s.modVf v u).turn = s.turn := rfl
@[simp] theorem modVf_cur (s : State) (v : Nat) (u : VirtualFunction → VirtualFunction) : (s.modVf v u).cur = s.cur := rfl
@[simp] theorem modVf_fresh (s : State) (v : Nat) (u : VirtualFunction → VirtualFunction) : (s.modVf v u).fresh = s.fresh := rfl
@[simp] theorem modVf_serial (s : State) (v : Nat) (u : VirtualFunction → VirtualFunction) : (s.modVf v u).serial = s.serial := rfl
@[simp] theorem modVf_mem (s : State) (v : Nat) (u : VirtualFunction → VirtualFunction) : (s.modVf v u).mem = s.mem := rfl
@[simp] theorem modVf_full (s : State) (v : Nat) (u : VirtualFunction → VirtualFunction) : (s.modVf v u).full = s.full := rfl
@[simp] theorem modVf_fired (s : State) (v : Nat) (u : VirtualFunction → VirtualFunction) : (s.modVf v u).fired = s.fired := rfl
@[simp] theorem modVf_errors (s : State) (v : Nat) (u : VirtualFunction → VirtualFunction) : (s.modVf v u).errors = s.errors := rfl
@[simp] theorem modVf_lines (s : State) (v : Nat) (u : VirtualFunction → VirtualFunction) : (s.modVf v u).lines = s.lines := rfl
@[simp] theorem modVf_copies (s : State) (v : Nat) (u : VirtualFunction → VirtualFunction) : (s.modVf v u).copies = s.copies := rfl
@[simp] theorem modVf_fetched (s : State) (v : Nat) (u : VirtualFunction → VirtualFunction) : (s.modVf v u).fetched = s.fetched := rfl
@[simp] theorem modVf_notices (s : State) (v : Nat) (u : VirtualFunction → VirtualFunction) : (s.modVf v u).notices = s.notices := rfl
@[simp] theorem modVf_sent (s : State) (v : Nat) (u : VirtualFunction → VirtualFunction) : (s.modVf v u).sent = s.sent := rfl
@[simp] theorem modVf_tlb (s : State) (v : Nat) (u : VirtualFunction → VirtualFunction) : (s.modVf v u).tlb = s.tlb := rfl
@[simp] theorem modVf_walks (s : State) (v : Nat) (u : VirtualFunction → VirtualFunction) : (s.modVf v u).walks = s.walks := rfl
@[simp] theorem modVf_walkTurn (s : State) (v : Nat) (u : VirtualFunction → VirtualFunction) : (s.modVf v u).walkTurn = s.walkTurn := rfl
@[simp] theorem modVf_faults (s : State) (v : Nat) (u : VirtualFunction → VirtualFunction) : (s.modVf v u).faults = s.faults := rfl
@[simp] theorem modVf_remaps (s : State) (v : Nat) (u : VirtualFunction → VirtualFunction) : (s.modVf v u).remaps = s.remaps := rfl
@[simp] theorem modVf_invalidations (s : State) (v : Nat) (u : VirtualFunction → VirtualFunction) : (s.modVf v u).invalidations = s.invalidations := rfl
@[simp] theorem modVf_publishes (s : State) (v : Nat) (u : VirtualFunction → VirtualFunction) : (s.modVf v u).publishes = s.publishes := rfl
@[simp] theorem modVf_attrs (s : State) (v : Nat) (u : VirtualFunction → VirtualFunction) : (s.modVf v u).attrs = s.attrs := rfl
@[simp] theorem modVf_padAttrs (s : State) (v : Nat) (u : VirtualFunction → VirtualFunction) : (s.modVf v u).padAttrs = s.padAttrs := rfl
@[simp] theorem modVf_scrubbing (s : State) (v : Nat) (u : VirtualFunction → VirtualFunction) : (s.modVf v u).scrubbing = s.scrubbing := rfl
@[simp] theorem modVf_heldWrites (s : State) (v : Nat) (u : VirtualFunction → VirtualFunction) : (s.modVf v u).heldWrites = s.heldWrites := rfl
@[simp] theorem modVf_stackStates (s : State) (v : Nat) (u : VirtualFunction → VirtualFunction) : (s.modVf v u).stackStates = s.stackStates := rfl
@[simp] theorem modVf_retries (s : State) (v : Nat) (u : VirtualFunction → VirtualFunction) : (s.modVf v u).retries = s.retries := rfl
@[simp] theorem modVf_owedTicks (s : State) (v : Nat) (u : VirtualFunction → VirtualFunction) : (s.modVf v u).owedTicks = s.owedTicks := rfl
@[simp] theorem modVf_packets (s : State) (v : Nat) (u : VirtualFunction → VirtualFunction) : (s.modVf v u).packets = s.packets := rfl
@[simp] theorem modVf_answered (s : State) (v : Nat) (u : VirtualFunction → VirtualFunction) : (s.modVf v u).answered = s.answered := rfl
@[simp] theorem modVf_answers (s : State) (v : Nat) (u : VirtualFunction → VirtualFunction) : (s.modVf v u).answers = s.answers := rfl
@[simp] theorem modVf_flash (s : State) (v : Nat) (u : VirtualFunction → VirtualFunction) : (s.modVf v u).flash = s.flash := rfl
@[simp] theorem modVf_standing (s : State) (v : Nat) (u : VirtualFunction → VirtualFunction) : (s.modVf v u).standing = s.standing := rfl
@[simp] theorem modVf_warning (s : State) (v : Nat) (u : VirtualFunction → VirtualFunction) : (s.modVf v u).warning = s.warning := rfl
@[simp] theorem modVf_emergency (s : State) (v : Nat) (u : VirtualFunction → VirtualFunction) : (s.modVf v u).emergency = s.emergency := rfl
@[simp] theorem modVf_firmware (s : State) (v : Nat) (u : VirtualFunction → VirtualFunction) : (s.modVf v u).firmware = s.firmware := rfl
@[simp] theorem modVf_recovery (s : State) (v : Nat) (u : VirtualFunction → VirtualFunction) : (s.modVf v u).recovery = s.recovery := rfl
@[simp] theorem modVf_log (s : State) (v : Nat) (u : VirtualFunction → VirtualFunction) : (s.modVf v u).log = s.log := rfl
@[simp] theorem modVf_parts (s : State) (v : Nat) (u : VirtualFunction → VirtualFunction) : (s.modVf v u).parts = s.parts := rfl
@[simp] theorem modVf_images (s : State) (v : Nat) (u : VirtualFunction → VirtualFunction) : (s.modVf v u).images = s.images := rfl
@[simp] theorem modVf_launches (s : State) (v : Nat) (u : VirtualFunction → VirtualFunction) : (s.modVf v u).launches = s.launches := rfl
@[simp] theorem modVf_groups (s : State) (v : Nat) (u : VirtualFunction → VirtualFunction) : (s.modVf v u).groups = s.groups := rfl
@[simp] theorem modVf_cores (s : State) (v : Nat) (u : VirtualFunction → VirtualFunction) : (s.modVf v u).cores = s.cores := rfl
@[simp] theorem modVf_freeze (s : State) (v : Nat) (u : VirtualFunction → VirtualFunction) : (s.modVf v u).freeze = s.freeze := rfl
@[simp] theorem modVf_energy (s : State) (v : Nat) (u : VirtualFunction → VirtualFunction) : (s.modVf v u).energy = s.energy := rfl
@[simp] theorem modVf_window (s : State) (v : Nat) (u : VirtualFunction → VirtualFunction) : (s.modVf v u).window = s.window := rfl
@[simp] theorem modVf_hot (s : State) (v : Nat) (u : VirtualFunction → VirtualFunction) : (s.modVf v u).hot = s.hot := rfl
@[simp] theorem modVf_ports (s : State) (v : Nat) (u : VirtualFunction → VirtualFunction) : (s.modVf v u).ports = s.ports := rfl
@[simp] theorem modVf_modules (s : State) (v : Nat) (u : VirtualFunction → VirtualFunction) : (s.modVf v u).modules = s.modules := rfl
@[simp] theorem modVf_peers (s : State) (v : Nat) (u : VirtualFunction → VirtualFunction) : (s.modVf v u).peers = s.peers := rfl
@[simp] theorem modVf_msix (s : State) (v : Nat) (u : VirtualFunction → VirtualFunction) : (s.modVf v u).msix = s.msix := rfl
@[simp] theorem modVf_toPf0 (s : State) (v : Nat) (u : VirtualFunction → VirtualFunction) : (s.modVf v u).toPf0 = s.toPf0 := rfl

@[simp] theorem modLaunch_tick (s : State) (l : Nat) (u : Launch → Launch) : (s.modLaunch l u).tick = s.tick := rfl
@[simp] theorem modLaunch_ahead (s : State) (l : Nat) (u : Launch → Launch) : (s.modLaunch l u).ahead = s.ahead := rfl
@[simp] theorem modLaunch_agenda (s : State) (l : Nat) (u : Launch → Launch) : (s.modLaunch l u).agenda = s.agenda := rfl
@[simp] theorem modLaunch_did (s : State) (l : Nat) (u : Launch → Launch) : (s.modLaunch l u).did = s.did := rfl
@[simp] theorem modLaunch_turn (s : State) (l : Nat) (u : Launch → Launch) : (s.modLaunch l u).turn = s.turn := rfl
@[simp] theorem modLaunch_cur (s : State) (l : Nat) (u : Launch → Launch) : (s.modLaunch l u).cur = s.cur := rfl
@[simp] theorem modLaunch_fresh (s : State) (l : Nat) (u : Launch → Launch) : (s.modLaunch l u).fresh = s.fresh := rfl
@[simp] theorem modLaunch_serial (s : State) (l : Nat) (u : Launch → Launch) : (s.modLaunch l u).serial = s.serial := rfl
@[simp] theorem modLaunch_mem (s : State) (l : Nat) (u : Launch → Launch) : (s.modLaunch l u).mem = s.mem := rfl
@[simp] theorem modLaunch_full (s : State) (l : Nat) (u : Launch → Launch) : (s.modLaunch l u).full = s.full := rfl
@[simp] theorem modLaunch_fired (s : State) (l : Nat) (u : Launch → Launch) : (s.modLaunch l u).fired = s.fired := rfl
@[simp] theorem modLaunch_errors (s : State) (l : Nat) (u : Launch → Launch) : (s.modLaunch l u).errors = s.errors := rfl
@[simp] theorem modLaunch_lines (s : State) (l : Nat) (u : Launch → Launch) : (s.modLaunch l u).lines = s.lines := rfl
@[simp] theorem modLaunch_copies (s : State) (l : Nat) (u : Launch → Launch) : (s.modLaunch l u).copies = s.copies := rfl
@[simp] theorem modLaunch_fetched (s : State) (l : Nat) (u : Launch → Launch) : (s.modLaunch l u).fetched = s.fetched := rfl
@[simp] theorem modLaunch_notices (s : State) (l : Nat) (u : Launch → Launch) : (s.modLaunch l u).notices = s.notices := rfl
@[simp] theorem modLaunch_sent (s : State) (l : Nat) (u : Launch → Launch) : (s.modLaunch l u).sent = s.sent := rfl
@[simp] theorem modLaunch_tlb (s : State) (l : Nat) (u : Launch → Launch) : (s.modLaunch l u).tlb = s.tlb := rfl
@[simp] theorem modLaunch_walks (s : State) (l : Nat) (u : Launch → Launch) : (s.modLaunch l u).walks = s.walks := rfl
@[simp] theorem modLaunch_walkTurn (s : State) (l : Nat) (u : Launch → Launch) : (s.modLaunch l u).walkTurn = s.walkTurn := rfl
@[simp] theorem modLaunch_faults (s : State) (l : Nat) (u : Launch → Launch) : (s.modLaunch l u).faults = s.faults := rfl
@[simp] theorem modLaunch_remaps (s : State) (l : Nat) (u : Launch → Launch) : (s.modLaunch l u).remaps = s.remaps := rfl
@[simp] theorem modLaunch_invalidations (s : State) (l : Nat) (u : Launch → Launch) : (s.modLaunch l u).invalidations = s.invalidations := rfl
@[simp] theorem modLaunch_publishes (s : State) (l : Nat) (u : Launch → Launch) : (s.modLaunch l u).publishes = s.publishes := rfl
@[simp] theorem modLaunch_attrs (s : State) (l : Nat) (u : Launch → Launch) : (s.modLaunch l u).attrs = s.attrs := rfl
@[simp] theorem modLaunch_padAttrs (s : State) (l : Nat) (u : Launch → Launch) : (s.modLaunch l u).padAttrs = s.padAttrs := rfl
@[simp] theorem modLaunch_scrubbing (s : State) (l : Nat) (u : Launch → Launch) : (s.modLaunch l u).scrubbing = s.scrubbing := rfl
@[simp] theorem modLaunch_heldWrites (s : State) (l : Nat) (u : Launch → Launch) : (s.modLaunch l u).heldWrites = s.heldWrites := rfl
@[simp] theorem modLaunch_stackStates (s : State) (l : Nat) (u : Launch → Launch) : (s.modLaunch l u).stackStates = s.stackStates := rfl
@[simp] theorem modLaunch_retries (s : State) (l : Nat) (u : Launch → Launch) : (s.modLaunch l u).retries = s.retries := rfl
@[simp] theorem modLaunch_owedTicks (s : State) (l : Nat) (u : Launch → Launch) : (s.modLaunch l u).owedTicks = s.owedTicks := rfl
@[simp] theorem modLaunch_packets (s : State) (l : Nat) (u : Launch → Launch) : (s.modLaunch l u).packets = s.packets := rfl
@[simp] theorem modLaunch_answered (s : State) (l : Nat) (u : Launch → Launch) : (s.modLaunch l u).answered = s.answered := rfl
@[simp] theorem modLaunch_answers (s : State) (l : Nat) (u : Launch → Launch) : (s.modLaunch l u).answers = s.answers := rfl
@[simp] theorem modLaunch_flash (s : State) (l : Nat) (u : Launch → Launch) : (s.modLaunch l u).flash = s.flash := rfl
@[simp] theorem modLaunch_standing (s : State) (l : Nat) (u : Launch → Launch) : (s.modLaunch l u).standing = s.standing := rfl
@[simp] theorem modLaunch_warning (s : State) (l : Nat) (u : Launch → Launch) : (s.modLaunch l u).warning = s.warning := rfl
@[simp] theorem modLaunch_emergency (s : State) (l : Nat) (u : Launch → Launch) : (s.modLaunch l u).emergency = s.emergency := rfl
@[simp] theorem modLaunch_firmware (s : State) (l : Nat) (u : Launch → Launch) : (s.modLaunch l u).firmware = s.firmware := rfl
@[simp] theorem modLaunch_recovery (s : State) (l : Nat) (u : Launch → Launch) : (s.modLaunch l u).recovery = s.recovery := rfl
@[simp] theorem modLaunch_log (s : State) (l : Nat) (u : Launch → Launch) : (s.modLaunch l u).log = s.log := rfl
@[simp] theorem modLaunch_parts (s : State) (l : Nat) (u : Launch → Launch) : (s.modLaunch l u).parts = s.parts := rfl
@[simp] theorem modLaunch_vfs (s : State) (l : Nat) (u : Launch → Launch) : (s.modLaunch l u).vfs = s.vfs := rfl
@[simp] theorem modLaunch_images (s : State) (l : Nat) (u : Launch → Launch) : (s.modLaunch l u).images = s.images := rfl
@[simp] theorem modLaunch_groups (s : State) (l : Nat) (u : Launch → Launch) : (s.modLaunch l u).groups = s.groups := rfl
@[simp] theorem modLaunch_cores (s : State) (l : Nat) (u : Launch → Launch) : (s.modLaunch l u).cores = s.cores := rfl
@[simp] theorem modLaunch_freeze (s : State) (l : Nat) (u : Launch → Launch) : (s.modLaunch l u).freeze = s.freeze := rfl
@[simp] theorem modLaunch_energy (s : State) (l : Nat) (u : Launch → Launch) : (s.modLaunch l u).energy = s.energy := rfl
@[simp] theorem modLaunch_window (s : State) (l : Nat) (u : Launch → Launch) : (s.modLaunch l u).window = s.window := rfl
@[simp] theorem modLaunch_hot (s : State) (l : Nat) (u : Launch → Launch) : (s.modLaunch l u).hot = s.hot := rfl
@[simp] theorem modLaunch_ports (s : State) (l : Nat) (u : Launch → Launch) : (s.modLaunch l u).ports = s.ports := rfl
@[simp] theorem modLaunch_modules (s : State) (l : Nat) (u : Launch → Launch) : (s.modLaunch l u).modules = s.modules := rfl
@[simp] theorem modLaunch_peers (s : State) (l : Nat) (u : Launch → Launch) : (s.modLaunch l u).peers = s.peers := rfl
@[simp] theorem modLaunch_msix (s : State) (l : Nat) (u : Launch → Launch) : (s.modLaunch l u).msix = s.msix := rfl
@[simp] theorem modLaunch_toPf0 (s : State) (l : Nat) (u : Launch → Launch) : (s.modLaunch l u).toPf0 = s.toPf0 := rfl

@[simp] theorem modCore_tick (s : State) (c : Nat) (u : Core → Core) : (s.modCore c u).tick = s.tick := rfl
@[simp] theorem modCore_ahead (s : State) (c : Nat) (u : Core → Core) : (s.modCore c u).ahead = s.ahead := rfl
@[simp] theorem modCore_agenda (s : State) (c : Nat) (u : Core → Core) : (s.modCore c u).agenda = s.agenda := rfl
@[simp] theorem modCore_did (s : State) (c : Nat) (u : Core → Core) : (s.modCore c u).did = s.did := rfl
@[simp] theorem modCore_turn (s : State) (c : Nat) (u : Core → Core) : (s.modCore c u).turn = s.turn := rfl
@[simp] theorem modCore_cur (s : State) (c : Nat) (u : Core → Core) : (s.modCore c u).cur = s.cur := rfl
@[simp] theorem modCore_fresh (s : State) (c : Nat) (u : Core → Core) : (s.modCore c u).fresh = s.fresh := rfl
@[simp] theorem modCore_serial (s : State) (c : Nat) (u : Core → Core) : (s.modCore c u).serial = s.serial := rfl
@[simp] theorem modCore_mem (s : State) (c : Nat) (u : Core → Core) : (s.modCore c u).mem = s.mem := rfl
@[simp] theorem modCore_full (s : State) (c : Nat) (u : Core → Core) : (s.modCore c u).full = s.full := rfl
@[simp] theorem modCore_fired (s : State) (c : Nat) (u : Core → Core) : (s.modCore c u).fired = s.fired := rfl
@[simp] theorem modCore_errors (s : State) (c : Nat) (u : Core → Core) : (s.modCore c u).errors = s.errors := rfl
@[simp] theorem modCore_lines (s : State) (c : Nat) (u : Core → Core) : (s.modCore c u).lines = s.lines := rfl
@[simp] theorem modCore_copies (s : State) (c : Nat) (u : Core → Core) : (s.modCore c u).copies = s.copies := rfl
@[simp] theorem modCore_fetched (s : State) (c : Nat) (u : Core → Core) : (s.modCore c u).fetched = s.fetched := rfl
@[simp] theorem modCore_notices (s : State) (c : Nat) (u : Core → Core) : (s.modCore c u).notices = s.notices := rfl
@[simp] theorem modCore_sent (s : State) (c : Nat) (u : Core → Core) : (s.modCore c u).sent = s.sent := rfl
@[simp] theorem modCore_tlb (s : State) (c : Nat) (u : Core → Core) : (s.modCore c u).tlb = s.tlb := rfl
@[simp] theorem modCore_walks (s : State) (c : Nat) (u : Core → Core) : (s.modCore c u).walks = s.walks := rfl
@[simp] theorem modCore_walkTurn (s : State) (c : Nat) (u : Core → Core) : (s.modCore c u).walkTurn = s.walkTurn := rfl
@[simp] theorem modCore_faults (s : State) (c : Nat) (u : Core → Core) : (s.modCore c u).faults = s.faults := rfl
@[simp] theorem modCore_remaps (s : State) (c : Nat) (u : Core → Core) : (s.modCore c u).remaps = s.remaps := rfl
@[simp] theorem modCore_invalidations (s : State) (c : Nat) (u : Core → Core) : (s.modCore c u).invalidations = s.invalidations := rfl
@[simp] theorem modCore_publishes (s : State) (c : Nat) (u : Core → Core) : (s.modCore c u).publishes = s.publishes := rfl
@[simp] theorem modCore_attrs (s : State) (c : Nat) (u : Core → Core) : (s.modCore c u).attrs = s.attrs := rfl
@[simp] theorem modCore_padAttrs (s : State) (c : Nat) (u : Core → Core) : (s.modCore c u).padAttrs = s.padAttrs := rfl
@[simp] theorem modCore_scrubbing (s : State) (c : Nat) (u : Core → Core) : (s.modCore c u).scrubbing = s.scrubbing := rfl
@[simp] theorem modCore_heldWrites (s : State) (c : Nat) (u : Core → Core) : (s.modCore c u).heldWrites = s.heldWrites := rfl
@[simp] theorem modCore_stackStates (s : State) (c : Nat) (u : Core → Core) : (s.modCore c u).stackStates = s.stackStates := rfl
@[simp] theorem modCore_retries (s : State) (c : Nat) (u : Core → Core) : (s.modCore c u).retries = s.retries := rfl
@[simp] theorem modCore_owedTicks (s : State) (c : Nat) (u : Core → Core) : (s.modCore c u).owedTicks = s.owedTicks := rfl
@[simp] theorem modCore_packets (s : State) (c : Nat) (u : Core → Core) : (s.modCore c u).packets = s.packets := rfl
@[simp] theorem modCore_answered (s : State) (c : Nat) (u : Core → Core) : (s.modCore c u).answered = s.answered := rfl
@[simp] theorem modCore_answers (s : State) (c : Nat) (u : Core → Core) : (s.modCore c u).answers = s.answers := rfl
@[simp] theorem modCore_flash (s : State) (c : Nat) (u : Core → Core) : (s.modCore c u).flash = s.flash := rfl
@[simp] theorem modCore_standing (s : State) (c : Nat) (u : Core → Core) : (s.modCore c u).standing = s.standing := rfl
@[simp] theorem modCore_warning (s : State) (c : Nat) (u : Core → Core) : (s.modCore c u).warning = s.warning := rfl
@[simp] theorem modCore_emergency (s : State) (c : Nat) (u : Core → Core) : (s.modCore c u).emergency = s.emergency := rfl
@[simp] theorem modCore_firmware (s : State) (c : Nat) (u : Core → Core) : (s.modCore c u).firmware = s.firmware := rfl
@[simp] theorem modCore_recovery (s : State) (c : Nat) (u : Core → Core) : (s.modCore c u).recovery = s.recovery := rfl
@[simp] theorem modCore_log (s : State) (c : Nat) (u : Core → Core) : (s.modCore c u).log = s.log := rfl
@[simp] theorem modCore_parts (s : State) (c : Nat) (u : Core → Core) : (s.modCore c u).parts = s.parts := rfl
@[simp] theorem modCore_vfs (s : State) (c : Nat) (u : Core → Core) : (s.modCore c u).vfs = s.vfs := rfl
@[simp] theorem modCore_images (s : State) (c : Nat) (u : Core → Core) : (s.modCore c u).images = s.images := rfl
@[simp] theorem modCore_launches (s : State) (c : Nat) (u : Core → Core) : (s.modCore c u).launches = s.launches := rfl
@[simp] theorem modCore_groups (s : State) (c : Nat) (u : Core → Core) : (s.modCore c u).groups = s.groups := rfl
@[simp] theorem modCore_freeze (s : State) (c : Nat) (u : Core → Core) : (s.modCore c u).freeze = s.freeze := rfl
@[simp] theorem modCore_energy (s : State) (c : Nat) (u : Core → Core) : (s.modCore c u).energy = s.energy := rfl
@[simp] theorem modCore_window (s : State) (c : Nat) (u : Core → Core) : (s.modCore c u).window = s.window := rfl
@[simp] theorem modCore_hot (s : State) (c : Nat) (u : Core → Core) : (s.modCore c u).hot = s.hot := rfl
@[simp] theorem modCore_ports (s : State) (c : Nat) (u : Core → Core) : (s.modCore c u).ports = s.ports := rfl
@[simp] theorem modCore_modules (s : State) (c : Nat) (u : Core → Core) : (s.modCore c u).modules = s.modules := rfl
@[simp] theorem modCore_peers (s : State) (c : Nat) (u : Core → Core) : (s.modCore c u).peers = s.peers := rfl
@[simp] theorem modCore_msix (s : State) (c : Nat) (u : Core → Core) : (s.modCore c u).msix = s.msix := rfl
@[simp] theorem modCore_toPf0 (s : State) (c : Nat) (u : Core → Core) : (s.modCore c u).toPf0 = s.toPf0 := rfl

@[simp] theorem modFibre_tick (s : State) (g f : Nat) (u : Fibre → Fibre) : (s.modFibre g f u).tick = s.tick := rfl
@[simp] theorem modFibre_ahead (s : State) (g f : Nat) (u : Fibre → Fibre) : (s.modFibre g f u).ahead = s.ahead := rfl
@[simp] theorem modFibre_agenda (s : State) (g f : Nat) (u : Fibre → Fibre) : (s.modFibre g f u).agenda = s.agenda := rfl
@[simp] theorem modFibre_did (s : State) (g f : Nat) (u : Fibre → Fibre) : (s.modFibre g f u).did = s.did := rfl
@[simp] theorem modFibre_turn (s : State) (g f : Nat) (u : Fibre → Fibre) : (s.modFibre g f u).turn = s.turn := rfl
@[simp] theorem modFibre_cur (s : State) (g f : Nat) (u : Fibre → Fibre) : (s.modFibre g f u).cur = s.cur := rfl
@[simp] theorem modFibre_fresh (s : State) (g f : Nat) (u : Fibre → Fibre) : (s.modFibre g f u).fresh = s.fresh := rfl
@[simp] theorem modFibre_serial (s : State) (g f : Nat) (u : Fibre → Fibre) : (s.modFibre g f u).serial = s.serial := rfl
@[simp] theorem modFibre_mem (s : State) (g f : Nat) (u : Fibre → Fibre) : (s.modFibre g f u).mem = s.mem := rfl
@[simp] theorem modFibre_full (s : State) (g f : Nat) (u : Fibre → Fibre) : (s.modFibre g f u).full = s.full := rfl
@[simp] theorem modFibre_fired (s : State) (g f : Nat) (u : Fibre → Fibre) : (s.modFibre g f u).fired = s.fired := rfl
@[simp] theorem modFibre_errors (s : State) (g f : Nat) (u : Fibre → Fibre) : (s.modFibre g f u).errors = s.errors := rfl
@[simp] theorem modFibre_lines (s : State) (g f : Nat) (u : Fibre → Fibre) : (s.modFibre g f u).lines = s.lines := rfl
@[simp] theorem modFibre_copies (s : State) (g f : Nat) (u : Fibre → Fibre) : (s.modFibre g f u).copies = s.copies := rfl
@[simp] theorem modFibre_fetched (s : State) (g f : Nat) (u : Fibre → Fibre) : (s.modFibre g f u).fetched = s.fetched := rfl
@[simp] theorem modFibre_notices (s : State) (g f : Nat) (u : Fibre → Fibre) : (s.modFibre g f u).notices = s.notices := rfl
@[simp] theorem modFibre_sent (s : State) (g f : Nat) (u : Fibre → Fibre) : (s.modFibre g f u).sent = s.sent := rfl
@[simp] theorem modFibre_tlb (s : State) (g f : Nat) (u : Fibre → Fibre) : (s.modFibre g f u).tlb = s.tlb := rfl
@[simp] theorem modFibre_walks (s : State) (g f : Nat) (u : Fibre → Fibre) : (s.modFibre g f u).walks = s.walks := rfl
@[simp] theorem modFibre_walkTurn (s : State) (g f : Nat) (u : Fibre → Fibre) : (s.modFibre g f u).walkTurn = s.walkTurn := rfl
@[simp] theorem modFibre_faults (s : State) (g f : Nat) (u : Fibre → Fibre) : (s.modFibre g f u).faults = s.faults := rfl
@[simp] theorem modFibre_remaps (s : State) (g f : Nat) (u : Fibre → Fibre) : (s.modFibre g f u).remaps = s.remaps := rfl
@[simp] theorem modFibre_invalidations (s : State) (g f : Nat) (u : Fibre → Fibre) : (s.modFibre g f u).invalidations = s.invalidations := rfl
@[simp] theorem modFibre_publishes (s : State) (g f : Nat) (u : Fibre → Fibre) : (s.modFibre g f u).publishes = s.publishes := rfl
@[simp] theorem modFibre_attrs (s : State) (g f : Nat) (u : Fibre → Fibre) : (s.modFibre g f u).attrs = s.attrs := rfl
@[simp] theorem modFibre_padAttrs (s : State) (g f : Nat) (u : Fibre → Fibre) : (s.modFibre g f u).padAttrs = s.padAttrs := rfl
@[simp] theorem modFibre_scrubbing (s : State) (g f : Nat) (u : Fibre → Fibre) : (s.modFibre g f u).scrubbing = s.scrubbing := rfl
@[simp] theorem modFibre_heldWrites (s : State) (g f : Nat) (u : Fibre → Fibre) : (s.modFibre g f u).heldWrites = s.heldWrites := rfl
@[simp] theorem modFibre_stackStates (s : State) (g f : Nat) (u : Fibre → Fibre) : (s.modFibre g f u).stackStates = s.stackStates := rfl
@[simp] theorem modFibre_retries (s : State) (g f : Nat) (u : Fibre → Fibre) : (s.modFibre g f u).retries = s.retries := rfl
@[simp] theorem modFibre_owedTicks (s : State) (g f : Nat) (u : Fibre → Fibre) : (s.modFibre g f u).owedTicks = s.owedTicks := rfl
@[simp] theorem modFibre_packets (s : State) (g f : Nat) (u : Fibre → Fibre) : (s.modFibre g f u).packets = s.packets := rfl
@[simp] theorem modFibre_answered (s : State) (g f : Nat) (u : Fibre → Fibre) : (s.modFibre g f u).answered = s.answered := rfl
@[simp] theorem modFibre_answers (s : State) (g f : Nat) (u : Fibre → Fibre) : (s.modFibre g f u).answers = s.answers := rfl
@[simp] theorem modFibre_flash (s : State) (g f : Nat) (u : Fibre → Fibre) : (s.modFibre g f u).flash = s.flash := rfl
@[simp] theorem modFibre_standing (s : State) (g f : Nat) (u : Fibre → Fibre) : (s.modFibre g f u).standing = s.standing := rfl
@[simp] theorem modFibre_warning (s : State) (g f : Nat) (u : Fibre → Fibre) : (s.modFibre g f u).warning = s.warning := rfl
@[simp] theorem modFibre_emergency (s : State) (g f : Nat) (u : Fibre → Fibre) : (s.modFibre g f u).emergency = s.emergency := rfl
@[simp] theorem modFibre_firmware (s : State) (g f : Nat) (u : Fibre → Fibre) : (s.modFibre g f u).firmware = s.firmware := rfl
@[simp] theorem modFibre_recovery (s : State) (g f : Nat) (u : Fibre → Fibre) : (s.modFibre g f u).recovery = s.recovery := rfl
@[simp] theorem modFibre_log (s : State) (g f : Nat) (u : Fibre → Fibre) : (s.modFibre g f u).log = s.log := rfl
@[simp] theorem modFibre_parts (s : State) (g f : Nat) (u : Fibre → Fibre) : (s.modFibre g f u).parts = s.parts := rfl
@[simp] theorem modFibre_vfs (s : State) (g f : Nat) (u : Fibre → Fibre) : (s.modFibre g f u).vfs = s.vfs := rfl
@[simp] theorem modFibre_images (s : State) (g f : Nat) (u : Fibre → Fibre) : (s.modFibre g f u).images = s.images := rfl
@[simp] theorem modFibre_launches (s : State) (g f : Nat) (u : Fibre → Fibre) : (s.modFibre g f u).launches = s.launches := rfl
@[simp] theorem modFibre_cores (s : State) (g f : Nat) (u : Fibre → Fibre) : (s.modFibre g f u).cores = s.cores := rfl
@[simp] theorem modFibre_freeze (s : State) (g f : Nat) (u : Fibre → Fibre) : (s.modFibre g f u).freeze = s.freeze := rfl
@[simp] theorem modFibre_energy (s : State) (g f : Nat) (u : Fibre → Fibre) : (s.modFibre g f u).energy = s.energy := rfl
@[simp] theorem modFibre_window (s : State) (g f : Nat) (u : Fibre → Fibre) : (s.modFibre g f u).window = s.window := rfl
@[simp] theorem modFibre_hot (s : State) (g f : Nat) (u : Fibre → Fibre) : (s.modFibre g f u).hot = s.hot := rfl
@[simp] theorem modFibre_ports (s : State) (g f : Nat) (u : Fibre → Fibre) : (s.modFibre g f u).ports = s.ports := rfl
@[simp] theorem modFibre_modules (s : State) (g f : Nat) (u : Fibre → Fibre) : (s.modFibre g f u).modules = s.modules := rfl
@[simp] theorem modFibre_peers (s : State) (g f : Nat) (u : Fibre → Fibre) : (s.modFibre g f u).peers = s.peers := rfl
@[simp] theorem modFibre_msix (s : State) (g f : Nat) (u : Fibre → Fibre) : (s.modFibre g f u).msix = s.msix := rfl
@[simp] theorem modFibre_toPf0 (s : State) (g f : Nat) (u : Fibre → Fibre) : (s.modFibre g f u).toPf0 = s.toPf0 := rfl

@[simp] theorem modChan_tick (s : State) (g n : Nat) (u : Channel → Channel) : (s.modChan g n u).tick = s.tick := rfl
@[simp] theorem modChan_ahead (s : State) (g n : Nat) (u : Channel → Channel) : (s.modChan g n u).ahead = s.ahead := rfl
@[simp] theorem modChan_agenda (s : State) (g n : Nat) (u : Channel → Channel) : (s.modChan g n u).agenda = s.agenda := rfl
@[simp] theorem modChan_did (s : State) (g n : Nat) (u : Channel → Channel) : (s.modChan g n u).did = s.did := rfl
@[simp] theorem modChan_turn (s : State) (g n : Nat) (u : Channel → Channel) : (s.modChan g n u).turn = s.turn := rfl
@[simp] theorem modChan_cur (s : State) (g n : Nat) (u : Channel → Channel) : (s.modChan g n u).cur = s.cur := rfl
@[simp] theorem modChan_fresh (s : State) (g n : Nat) (u : Channel → Channel) : (s.modChan g n u).fresh = s.fresh := rfl
@[simp] theorem modChan_serial (s : State) (g n : Nat) (u : Channel → Channel) : (s.modChan g n u).serial = s.serial := rfl
@[simp] theorem modChan_mem (s : State) (g n : Nat) (u : Channel → Channel) : (s.modChan g n u).mem = s.mem := rfl
@[simp] theorem modChan_full (s : State) (g n : Nat) (u : Channel → Channel) : (s.modChan g n u).full = s.full := rfl
@[simp] theorem modChan_fired (s : State) (g n : Nat) (u : Channel → Channel) : (s.modChan g n u).fired = s.fired := rfl
@[simp] theorem modChan_errors (s : State) (g n : Nat) (u : Channel → Channel) : (s.modChan g n u).errors = s.errors := rfl
@[simp] theorem modChan_lines (s : State) (g n : Nat) (u : Channel → Channel) : (s.modChan g n u).lines = s.lines := rfl
@[simp] theorem modChan_copies (s : State) (g n : Nat) (u : Channel → Channel) : (s.modChan g n u).copies = s.copies := rfl
@[simp] theorem modChan_fetched (s : State) (g n : Nat) (u : Channel → Channel) : (s.modChan g n u).fetched = s.fetched := rfl
@[simp] theorem modChan_notices (s : State) (g n : Nat) (u : Channel → Channel) : (s.modChan g n u).notices = s.notices := rfl
@[simp] theorem modChan_sent (s : State) (g n : Nat) (u : Channel → Channel) : (s.modChan g n u).sent = s.sent := rfl
@[simp] theorem modChan_tlb (s : State) (g n : Nat) (u : Channel → Channel) : (s.modChan g n u).tlb = s.tlb := rfl
@[simp] theorem modChan_walks (s : State) (g n : Nat) (u : Channel → Channel) : (s.modChan g n u).walks = s.walks := rfl
@[simp] theorem modChan_walkTurn (s : State) (g n : Nat) (u : Channel → Channel) : (s.modChan g n u).walkTurn = s.walkTurn := rfl
@[simp] theorem modChan_faults (s : State) (g n : Nat) (u : Channel → Channel) : (s.modChan g n u).faults = s.faults := rfl
@[simp] theorem modChan_remaps (s : State) (g n : Nat) (u : Channel → Channel) : (s.modChan g n u).remaps = s.remaps := rfl
@[simp] theorem modChan_invalidations (s : State) (g n : Nat) (u : Channel → Channel) : (s.modChan g n u).invalidations = s.invalidations := rfl
@[simp] theorem modChan_publishes (s : State) (g n : Nat) (u : Channel → Channel) : (s.modChan g n u).publishes = s.publishes := rfl
@[simp] theorem modChan_attrs (s : State) (g n : Nat) (u : Channel → Channel) : (s.modChan g n u).attrs = s.attrs := rfl
@[simp] theorem modChan_padAttrs (s : State) (g n : Nat) (u : Channel → Channel) : (s.modChan g n u).padAttrs = s.padAttrs := rfl
@[simp] theorem modChan_scrubbing (s : State) (g n : Nat) (u : Channel → Channel) : (s.modChan g n u).scrubbing = s.scrubbing := rfl
@[simp] theorem modChan_heldWrites (s : State) (g n : Nat) (u : Channel → Channel) : (s.modChan g n u).heldWrites = s.heldWrites := rfl
@[simp] theorem modChan_stackStates (s : State) (g n : Nat) (u : Channel → Channel) : (s.modChan g n u).stackStates = s.stackStates := rfl
@[simp] theorem modChan_retries (s : State) (g n : Nat) (u : Channel → Channel) : (s.modChan g n u).retries = s.retries := rfl
@[simp] theorem modChan_owedTicks (s : State) (g n : Nat) (u : Channel → Channel) : (s.modChan g n u).owedTicks = s.owedTicks := rfl
@[simp] theorem modChan_packets (s : State) (g n : Nat) (u : Channel → Channel) : (s.modChan g n u).packets = s.packets := rfl
@[simp] theorem modChan_answered (s : State) (g n : Nat) (u : Channel → Channel) : (s.modChan g n u).answered = s.answered := rfl
@[simp] theorem modChan_answers (s : State) (g n : Nat) (u : Channel → Channel) : (s.modChan g n u).answers = s.answers := rfl
@[simp] theorem modChan_flash (s : State) (g n : Nat) (u : Channel → Channel) : (s.modChan g n u).flash = s.flash := rfl
@[simp] theorem modChan_standing (s : State) (g n : Nat) (u : Channel → Channel) : (s.modChan g n u).standing = s.standing := rfl
@[simp] theorem modChan_warning (s : State) (g n : Nat) (u : Channel → Channel) : (s.modChan g n u).warning = s.warning := rfl
@[simp] theorem modChan_emergency (s : State) (g n : Nat) (u : Channel → Channel) : (s.modChan g n u).emergency = s.emergency := rfl
@[simp] theorem modChan_firmware (s : State) (g n : Nat) (u : Channel → Channel) : (s.modChan g n u).firmware = s.firmware := rfl
@[simp] theorem modChan_recovery (s : State) (g n : Nat) (u : Channel → Channel) : (s.modChan g n u).recovery = s.recovery := rfl
@[simp] theorem modChan_log (s : State) (g n : Nat) (u : Channel → Channel) : (s.modChan g n u).log = s.log := rfl
@[simp] theorem modChan_parts (s : State) (g n : Nat) (u : Channel → Channel) : (s.modChan g n u).parts = s.parts := rfl
@[simp] theorem modChan_vfs (s : State) (g n : Nat) (u : Channel → Channel) : (s.modChan g n u).vfs = s.vfs := rfl
@[simp] theorem modChan_images (s : State) (g n : Nat) (u : Channel → Channel) : (s.modChan g n u).images = s.images := rfl
@[simp] theorem modChan_launches (s : State) (g n : Nat) (u : Channel → Channel) : (s.modChan g n u).launches = s.launches := rfl
@[simp] theorem modChan_cores (s : State) (g n : Nat) (u : Channel → Channel) : (s.modChan g n u).cores = s.cores := rfl
@[simp] theorem modChan_freeze (s : State) (g n : Nat) (u : Channel → Channel) : (s.modChan g n u).freeze = s.freeze := rfl
@[simp] theorem modChan_energy (s : State) (g n : Nat) (u : Channel → Channel) : (s.modChan g n u).energy = s.energy := rfl
@[simp] theorem modChan_window (s : State) (g n : Nat) (u : Channel → Channel) : (s.modChan g n u).window = s.window := rfl
@[simp] theorem modChan_hot (s : State) (g n : Nat) (u : Channel → Channel) : (s.modChan g n u).hot = s.hot := rfl
@[simp] theorem modChan_ports (s : State) (g n : Nat) (u : Channel → Channel) : (s.modChan g n u).ports = s.ports := rfl
@[simp] theorem modChan_modules (s : State) (g n : Nat) (u : Channel → Channel) : (s.modChan g n u).modules = s.modules := rfl
@[simp] theorem modChan_peers (s : State) (g n : Nat) (u : Channel → Channel) : (s.modChan g n u).peers = s.peers := rfl
@[simp] theorem modChan_msix (s : State) (g n : Nat) (u : Channel → Channel) : (s.modChan g n u).msix = s.msix := rfl
@[simp] theorem modChan_toPf0 (s : State) (g n : Nat) (u : Channel → Channel) : (s.modChan g n u).toPf0 = s.toPf0 := rfl

@[simp] theorem modFibres_tick (s : State) (g : Nat) (l : List Nat) (u : Fibre → Fibre) : (s.modFibres g l u).tick = s.tick := rfl
@[simp] theorem modFibres_ahead (s : State) (g : Nat) (l : List Nat) (u : Fibre → Fibre) : (s.modFibres g l u).ahead = s.ahead := rfl
@[simp] theorem modFibres_agenda (s : State) (g : Nat) (l : List Nat) (u : Fibre → Fibre) : (s.modFibres g l u).agenda = s.agenda := rfl
@[simp] theorem modFibres_did (s : State) (g : Nat) (l : List Nat) (u : Fibre → Fibre) : (s.modFibres g l u).did = s.did := rfl
@[simp] theorem modFibres_turn (s : State) (g : Nat) (l : List Nat) (u : Fibre → Fibre) : (s.modFibres g l u).turn = s.turn := rfl
@[simp] theorem modFibres_cur (s : State) (g : Nat) (l : List Nat) (u : Fibre → Fibre) : (s.modFibres g l u).cur = s.cur := rfl
@[simp] theorem modFibres_fresh (s : State) (g : Nat) (l : List Nat) (u : Fibre → Fibre) : (s.modFibres g l u).fresh = s.fresh := rfl
@[simp] theorem modFibres_serial (s : State) (g : Nat) (l : List Nat) (u : Fibre → Fibre) : (s.modFibres g l u).serial = s.serial := rfl
@[simp] theorem modFibres_mem (s : State) (g : Nat) (l : List Nat) (u : Fibre → Fibre) : (s.modFibres g l u).mem = s.mem := rfl
@[simp] theorem modFibres_full (s : State) (g : Nat) (l : List Nat) (u : Fibre → Fibre) : (s.modFibres g l u).full = s.full := rfl
@[simp] theorem modFibres_fired (s : State) (g : Nat) (l : List Nat) (u : Fibre → Fibre) : (s.modFibres g l u).fired = s.fired := rfl
@[simp] theorem modFibres_errors (s : State) (g : Nat) (l : List Nat) (u : Fibre → Fibre) : (s.modFibres g l u).errors = s.errors := rfl
@[simp] theorem modFibres_lines (s : State) (g : Nat) (l : List Nat) (u : Fibre → Fibre) : (s.modFibres g l u).lines = s.lines := rfl
@[simp] theorem modFibres_copies (s : State) (g : Nat) (l : List Nat) (u : Fibre → Fibre) : (s.modFibres g l u).copies = s.copies := rfl
@[simp] theorem modFibres_fetched (s : State) (g : Nat) (l : List Nat) (u : Fibre → Fibre) : (s.modFibres g l u).fetched = s.fetched := rfl
@[simp] theorem modFibres_notices (s : State) (g : Nat) (l : List Nat) (u : Fibre → Fibre) : (s.modFibres g l u).notices = s.notices := rfl
@[simp] theorem modFibres_sent (s : State) (g : Nat) (l : List Nat) (u : Fibre → Fibre) : (s.modFibres g l u).sent = s.sent := rfl
@[simp] theorem modFibres_tlb (s : State) (g : Nat) (l : List Nat) (u : Fibre → Fibre) : (s.modFibres g l u).tlb = s.tlb := rfl
@[simp] theorem modFibres_walks (s : State) (g : Nat) (l : List Nat) (u : Fibre → Fibre) : (s.modFibres g l u).walks = s.walks := rfl
@[simp] theorem modFibres_walkTurn (s : State) (g : Nat) (l : List Nat) (u : Fibre → Fibre) : (s.modFibres g l u).walkTurn = s.walkTurn := rfl
@[simp] theorem modFibres_faults (s : State) (g : Nat) (l : List Nat) (u : Fibre → Fibre) : (s.modFibres g l u).faults = s.faults := rfl
@[simp] theorem modFibres_remaps (s : State) (g : Nat) (l : List Nat) (u : Fibre → Fibre) : (s.modFibres g l u).remaps = s.remaps := rfl
@[simp] theorem modFibres_invalidations (s : State) (g : Nat) (l : List Nat) (u : Fibre → Fibre) : (s.modFibres g l u).invalidations = s.invalidations := rfl
@[simp] theorem modFibres_publishes (s : State) (g : Nat) (l : List Nat) (u : Fibre → Fibre) : (s.modFibres g l u).publishes = s.publishes := rfl
@[simp] theorem modFibres_attrs (s : State) (g : Nat) (l : List Nat) (u : Fibre → Fibre) : (s.modFibres g l u).attrs = s.attrs := rfl
@[simp] theorem modFibres_padAttrs (s : State) (g : Nat) (l : List Nat) (u : Fibre → Fibre) : (s.modFibres g l u).padAttrs = s.padAttrs := rfl
@[simp] theorem modFibres_scrubbing (s : State) (g : Nat) (l : List Nat) (u : Fibre → Fibre) : (s.modFibres g l u).scrubbing = s.scrubbing := rfl
@[simp] theorem modFibres_heldWrites (s : State) (g : Nat) (l : List Nat) (u : Fibre → Fibre) : (s.modFibres g l u).heldWrites = s.heldWrites := rfl
@[simp] theorem modFibres_stackStates (s : State) (g : Nat) (l : List Nat) (u : Fibre → Fibre) : (s.modFibres g l u).stackStates = s.stackStates := rfl
@[simp] theorem modFibres_retries (s : State) (g : Nat) (l : List Nat) (u : Fibre → Fibre) : (s.modFibres g l u).retries = s.retries := rfl
@[simp] theorem modFibres_owedTicks (s : State) (g : Nat) (l : List Nat) (u : Fibre → Fibre) : (s.modFibres g l u).owedTicks = s.owedTicks := rfl
@[simp] theorem modFibres_packets (s : State) (g : Nat) (l : List Nat) (u : Fibre → Fibre) : (s.modFibres g l u).packets = s.packets := rfl
@[simp] theorem modFibres_answered (s : State) (g : Nat) (l : List Nat) (u : Fibre → Fibre) : (s.modFibres g l u).answered = s.answered := rfl
@[simp] theorem modFibres_answers (s : State) (g : Nat) (l : List Nat) (u : Fibre → Fibre) : (s.modFibres g l u).answers = s.answers := rfl
@[simp] theorem modFibres_flash (s : State) (g : Nat) (l : List Nat) (u : Fibre → Fibre) : (s.modFibres g l u).flash = s.flash := rfl
@[simp] theorem modFibres_standing (s : State) (g : Nat) (l : List Nat) (u : Fibre → Fibre) : (s.modFibres g l u).standing = s.standing := rfl
@[simp] theorem modFibres_warning (s : State) (g : Nat) (l : List Nat) (u : Fibre → Fibre) : (s.modFibres g l u).warning = s.warning := rfl
@[simp] theorem modFibres_emergency (s : State) (g : Nat) (l : List Nat) (u : Fibre → Fibre) : (s.modFibres g l u).emergency = s.emergency := rfl
@[simp] theorem modFibres_firmware (s : State) (g : Nat) (l : List Nat) (u : Fibre → Fibre) : (s.modFibres g l u).firmware = s.firmware := rfl
@[simp] theorem modFibres_recovery (s : State) (g : Nat) (l : List Nat) (u : Fibre → Fibre) : (s.modFibres g l u).recovery = s.recovery := rfl
@[simp] theorem modFibres_log (s : State) (g : Nat) (l : List Nat) (u : Fibre → Fibre) : (s.modFibres g l u).log = s.log := rfl
@[simp] theorem modFibres_parts (s : State) (g : Nat) (l : List Nat) (u : Fibre → Fibre) : (s.modFibres g l u).parts = s.parts := rfl
@[simp] theorem modFibres_vfs (s : State) (g : Nat) (l : List Nat) (u : Fibre → Fibre) : (s.modFibres g l u).vfs = s.vfs := rfl
@[simp] theorem modFibres_images (s : State) (g : Nat) (l : List Nat) (u : Fibre → Fibre) : (s.modFibres g l u).images = s.images := rfl
@[simp] theorem modFibres_launches (s : State) (g : Nat) (l : List Nat) (u : Fibre → Fibre) : (s.modFibres g l u).launches = s.launches := rfl
@[simp] theorem modFibres_cores (s : State) (g : Nat) (l : List Nat) (u : Fibre → Fibre) : (s.modFibres g l u).cores = s.cores := rfl
@[simp] theorem modFibres_freeze (s : State) (g : Nat) (l : List Nat) (u : Fibre → Fibre) : (s.modFibres g l u).freeze = s.freeze := rfl
@[simp] theorem modFibres_energy (s : State) (g : Nat) (l : List Nat) (u : Fibre → Fibre) : (s.modFibres g l u).energy = s.energy := rfl
@[simp] theorem modFibres_window (s : State) (g : Nat) (l : List Nat) (u : Fibre → Fibre) : (s.modFibres g l u).window = s.window := rfl
@[simp] theorem modFibres_hot (s : State) (g : Nat) (l : List Nat) (u : Fibre → Fibre) : (s.modFibres g l u).hot = s.hot := rfl
@[simp] theorem modFibres_ports (s : State) (g : Nat) (l : List Nat) (u : Fibre → Fibre) : (s.modFibres g l u).ports = s.ports := rfl
@[simp] theorem modFibres_modules (s : State) (g : Nat) (l : List Nat) (u : Fibre → Fibre) : (s.modFibres g l u).modules = s.modules := rfl
@[simp] theorem modFibres_peers (s : State) (g : Nat) (l : List Nat) (u : Fibre → Fibre) : (s.modFibres g l u).peers = s.peers := rfl
@[simp] theorem modFibres_msix (s : State) (g : Nat) (l : List Nat) (u : Fibre → Fibre) : (s.modFibres g l u).msix = s.msix := rfl
@[simp] theorem modFibres_toPf0 (s : State) (g : Nat) (l : List Nat) (u : Fibre → Fibre) : (s.modFibres g l u).toPf0 = s.toPf0 := rfl

@[simp] theorem report_tick (s : State) (p : Nat) (r : Report) : (s.report p r).tick = s.tick := rfl
@[simp] theorem report_ahead (s : State) (p : Nat) (r : Report) : (s.report p r).ahead = s.ahead := rfl
@[simp] theorem report_agenda (s : State) (p : Nat) (r : Report) : (s.report p r).agenda = s.agenda := rfl
@[simp] theorem report_did (s : State) (p : Nat) (r : Report) : (s.report p r).did = s.did := rfl
@[simp] theorem report_turn (s : State) (p : Nat) (r : Report) : (s.report p r).turn = s.turn := rfl
@[simp] theorem report_cur (s : State) (p : Nat) (r : Report) : (s.report p r).cur = s.cur := rfl
@[simp] theorem report_fresh (s : State) (p : Nat) (r : Report) : (s.report p r).fresh = s.fresh := rfl
@[simp] theorem report_serial (s : State) (p : Nat) (r : Report) : (s.report p r).serial = s.serial := rfl
@[simp] theorem report_mem (s : State) (p : Nat) (r : Report) : (s.report p r).mem = s.mem := rfl
@[simp] theorem report_full (s : State) (p : Nat) (r : Report) : (s.report p r).full = s.full := rfl
@[simp] theorem report_fired (s : State) (p : Nat) (r : Report) : (s.report p r).fired = s.fired := rfl
@[simp] theorem report_errors (s : State) (p : Nat) (r : Report) : (s.report p r).errors = s.errors := rfl
@[simp] theorem report_lines (s : State) (p : Nat) (r : Report) : (s.report p r).lines = s.lines := rfl
@[simp] theorem report_copies (s : State) (p : Nat) (r : Report) : (s.report p r).copies = s.copies := rfl
@[simp] theorem report_fetched (s : State) (p : Nat) (r : Report) : (s.report p r).fetched = s.fetched := rfl
@[simp] theorem report_notices (s : State) (p : Nat) (r : Report) : (s.report p r).notices = s.notices := rfl
@[simp] theorem report_sent (s : State) (p : Nat) (r : Report) : (s.report p r).sent = s.sent := rfl
@[simp] theorem report_tlb (s : State) (p : Nat) (r : Report) : (s.report p r).tlb = s.tlb := rfl
@[simp] theorem report_walks (s : State) (p : Nat) (r : Report) : (s.report p r).walks = s.walks := rfl
@[simp] theorem report_walkTurn (s : State) (p : Nat) (r : Report) : (s.report p r).walkTurn = s.walkTurn := rfl
@[simp] theorem report_faults (s : State) (p : Nat) (r : Report) : (s.report p r).faults = s.faults := rfl
@[simp] theorem report_remaps (s : State) (p : Nat) (r : Report) : (s.report p r).remaps = s.remaps := rfl
@[simp] theorem report_invalidations (s : State) (p : Nat) (r : Report) : (s.report p r).invalidations = s.invalidations := rfl
@[simp] theorem report_publishes (s : State) (p : Nat) (r : Report) : (s.report p r).publishes = s.publishes := rfl
@[simp] theorem report_attrs (s : State) (p : Nat) (r : Report) : (s.report p r).attrs = s.attrs := rfl
@[simp] theorem report_padAttrs (s : State) (p : Nat) (r : Report) : (s.report p r).padAttrs = s.padAttrs := rfl
@[simp] theorem report_scrubbing (s : State) (p : Nat) (r : Report) : (s.report p r).scrubbing = s.scrubbing := rfl
@[simp] theorem report_heldWrites (s : State) (p : Nat) (r : Report) : (s.report p r).heldWrites = s.heldWrites := rfl
@[simp] theorem report_stackStates (s : State) (p : Nat) (r : Report) : (s.report p r).stackStates = s.stackStates := rfl
@[simp] theorem report_retries (s : State) (p : Nat) (r : Report) : (s.report p r).retries = s.retries := rfl
@[simp] theorem report_owedTicks (s : State) (p : Nat) (r : Report) : (s.report p r).owedTicks = s.owedTicks := rfl
@[simp] theorem report_packets (s : State) (p : Nat) (r : Report) : (s.report p r).packets = s.packets := rfl
@[simp] theorem report_answered (s : State) (p : Nat) (r : Report) : (s.report p r).answered = s.answered := rfl
@[simp] theorem report_answers (s : State) (p : Nat) (r : Report) : (s.report p r).answers = s.answers := rfl
@[simp] theorem report_flash (s : State) (p : Nat) (r : Report) : (s.report p r).flash = s.flash := rfl
@[simp] theorem report_standing (s : State) (p : Nat) (r : Report) : (s.report p r).standing = s.standing := rfl
@[simp] theorem report_warning (s : State) (p : Nat) (r : Report) : (s.report p r).warning = s.warning := rfl
@[simp] theorem report_emergency (s : State) (p : Nat) (r : Report) : (s.report p r).emergency = s.emergency := rfl
@[simp] theorem report_firmware (s : State) (p : Nat) (r : Report) : (s.report p r).firmware = s.firmware := rfl
@[simp] theorem report_recovery (s : State) (p : Nat) (r : Report) : (s.report p r).recovery = s.recovery := rfl
@[simp] theorem report_log (s : State) (p : Nat) (r : Report) : (s.report p r).log = s.log := rfl
@[simp] theorem report_vfs (s : State) (p : Nat) (r : Report) : (s.report p r).vfs = s.vfs := rfl
@[simp] theorem report_images (s : State) (p : Nat) (r : Report) : (s.report p r).images = s.images := rfl
@[simp] theorem report_launches (s : State) (p : Nat) (r : Report) : (s.report p r).launches = s.launches := rfl
@[simp] theorem report_groups (s : State) (p : Nat) (r : Report) : (s.report p r).groups = s.groups := rfl
@[simp] theorem report_cores (s : State) (p : Nat) (r : Report) : (s.report p r).cores = s.cores := rfl
@[simp] theorem report_freeze (s : State) (p : Nat) (r : Report) : (s.report p r).freeze = s.freeze := rfl
@[simp] theorem report_energy (s : State) (p : Nat) (r : Report) : (s.report p r).energy = s.energy := rfl
@[simp] theorem report_window (s : State) (p : Nat) (r : Report) : (s.report p r).window = s.window := rfl
@[simp] theorem report_hot (s : State) (p : Nat) (r : Report) : (s.report p r).hot = s.hot := rfl
@[simp] theorem report_ports (s : State) (p : Nat) (r : Report) : (s.report p r).ports = s.ports := rfl
@[simp] theorem report_modules (s : State) (p : Nat) (r : Report) : (s.report p r).modules = s.modules := rfl
@[simp] theorem report_peers (s : State) (p : Nat) (r : Report) : (s.report p r).peers = s.peers := rfl
@[simp] theorem report_msix (s : State) (p : Nat) (r : Report) : (s.report p r).msix = s.msix := rfl
@[simp] theorem report_toPf0 (s : State) (p : Nat) (r : Report) : (s.report p r).toPf0 = s.toPf0 := rfl

@[simp] theorem count_tick (s : State) (p : Nat) (c : Counter) (n : Nat) : (s.count p c n).tick = s.tick := rfl
@[simp] theorem count_ahead (s : State) (p : Nat) (c : Counter) (n : Nat) : (s.count p c n).ahead = s.ahead := rfl
@[simp] theorem count_agenda (s : State) (p : Nat) (c : Counter) (n : Nat) : (s.count p c n).agenda = s.agenda := rfl
@[simp] theorem count_did (s : State) (p : Nat) (c : Counter) (n : Nat) : (s.count p c n).did = s.did := rfl
@[simp] theorem count_turn (s : State) (p : Nat) (c : Counter) (n : Nat) : (s.count p c n).turn = s.turn := rfl
@[simp] theorem count_cur (s : State) (p : Nat) (c : Counter) (n : Nat) : (s.count p c n).cur = s.cur := rfl
@[simp] theorem count_fresh (s : State) (p : Nat) (c : Counter) (n : Nat) : (s.count p c n).fresh = s.fresh := rfl
@[simp] theorem count_serial (s : State) (p : Nat) (c : Counter) (n : Nat) : (s.count p c n).serial = s.serial := rfl
@[simp] theorem count_mem (s : State) (p : Nat) (c : Counter) (n : Nat) : (s.count p c n).mem = s.mem := rfl
@[simp] theorem count_full (s : State) (p : Nat) (c : Counter) (n : Nat) : (s.count p c n).full = s.full := rfl
@[simp] theorem count_fired (s : State) (p : Nat) (c : Counter) (n : Nat) : (s.count p c n).fired = s.fired := rfl
@[simp] theorem count_errors (s : State) (p : Nat) (c : Counter) (n : Nat) : (s.count p c n).errors = s.errors := rfl
@[simp] theorem count_lines (s : State) (p : Nat) (c : Counter) (n : Nat) : (s.count p c n).lines = s.lines := rfl
@[simp] theorem count_copies (s : State) (p : Nat) (c : Counter) (n : Nat) : (s.count p c n).copies = s.copies := rfl
@[simp] theorem count_fetched (s : State) (p : Nat) (c : Counter) (n : Nat) : (s.count p c n).fetched = s.fetched := rfl
@[simp] theorem count_notices (s : State) (p : Nat) (c : Counter) (n : Nat) : (s.count p c n).notices = s.notices := rfl
@[simp] theorem count_sent (s : State) (p : Nat) (c : Counter) (n : Nat) : (s.count p c n).sent = s.sent := rfl
@[simp] theorem count_tlb (s : State) (p : Nat) (c : Counter) (n : Nat) : (s.count p c n).tlb = s.tlb := rfl
@[simp] theorem count_walks (s : State) (p : Nat) (c : Counter) (n : Nat) : (s.count p c n).walks = s.walks := rfl
@[simp] theorem count_walkTurn (s : State) (p : Nat) (c : Counter) (n : Nat) : (s.count p c n).walkTurn = s.walkTurn := rfl
@[simp] theorem count_faults (s : State) (p : Nat) (c : Counter) (n : Nat) : (s.count p c n).faults = s.faults := rfl
@[simp] theorem count_remaps (s : State) (p : Nat) (c : Counter) (n : Nat) : (s.count p c n).remaps = s.remaps := rfl
@[simp] theorem count_invalidations (s : State) (p : Nat) (c : Counter) (n : Nat) : (s.count p c n).invalidations = s.invalidations := rfl
@[simp] theorem count_publishes (s : State) (p : Nat) (c : Counter) (n : Nat) : (s.count p c n).publishes = s.publishes := rfl
@[simp] theorem count_attrs (s : State) (p : Nat) (c : Counter) (n : Nat) : (s.count p c n).attrs = s.attrs := rfl
@[simp] theorem count_padAttrs (s : State) (p : Nat) (c : Counter) (n : Nat) : (s.count p c n).padAttrs = s.padAttrs := rfl
@[simp] theorem count_scrubbing (s : State) (p : Nat) (c : Counter) (n : Nat) : (s.count p c n).scrubbing = s.scrubbing := rfl
@[simp] theorem count_heldWrites (s : State) (p : Nat) (c : Counter) (n : Nat) : (s.count p c n).heldWrites = s.heldWrites := rfl
@[simp] theorem count_stackStates (s : State) (p : Nat) (c : Counter) (n : Nat) : (s.count p c n).stackStates = s.stackStates := rfl
@[simp] theorem count_retries (s : State) (p : Nat) (c : Counter) (n : Nat) : (s.count p c n).retries = s.retries := rfl
@[simp] theorem count_owedTicks (s : State) (p : Nat) (c : Counter) (n : Nat) : (s.count p c n).owedTicks = s.owedTicks := rfl
@[simp] theorem count_packets (s : State) (p : Nat) (c : Counter) (n : Nat) : (s.count p c n).packets = s.packets := rfl
@[simp] theorem count_answered (s : State) (p : Nat) (c : Counter) (n : Nat) : (s.count p c n).answered = s.answered := rfl
@[simp] theorem count_answers (s : State) (p : Nat) (c : Counter) (n : Nat) : (s.count p c n).answers = s.answers := rfl
@[simp] theorem count_flash (s : State) (p : Nat) (c : Counter) (n : Nat) : (s.count p c n).flash = s.flash := rfl
@[simp] theorem count_standing (s : State) (p : Nat) (c : Counter) (n : Nat) : (s.count p c n).standing = s.standing := rfl
@[simp] theorem count_warning (s : State) (p : Nat) (c : Counter) (n : Nat) : (s.count p c n).warning = s.warning := rfl
@[simp] theorem count_emergency (s : State) (p : Nat) (c : Counter) (n : Nat) : (s.count p c n).emergency = s.emergency := rfl
@[simp] theorem count_firmware (s : State) (p : Nat) (c : Counter) (n : Nat) : (s.count p c n).firmware = s.firmware := rfl
@[simp] theorem count_recovery (s : State) (p : Nat) (c : Counter) (n : Nat) : (s.count p c n).recovery = s.recovery := rfl
@[simp] theorem count_log (s : State) (p : Nat) (c : Counter) (n : Nat) : (s.count p c n).log = s.log := rfl
@[simp] theorem count_vfs (s : State) (p : Nat) (c : Counter) (n : Nat) : (s.count p c n).vfs = s.vfs := rfl
@[simp] theorem count_images (s : State) (p : Nat) (c : Counter) (n : Nat) : (s.count p c n).images = s.images := rfl
@[simp] theorem count_launches (s : State) (p : Nat) (c : Counter) (n : Nat) : (s.count p c n).launches = s.launches := rfl
@[simp] theorem count_groups (s : State) (p : Nat) (c : Counter) (n : Nat) : (s.count p c n).groups = s.groups := rfl
@[simp] theorem count_cores (s : State) (p : Nat) (c : Counter) (n : Nat) : (s.count p c n).cores = s.cores := rfl
@[simp] theorem count_freeze (s : State) (p : Nat) (c : Counter) (n : Nat) : (s.count p c n).freeze = s.freeze := rfl
@[simp] theorem count_energy (s : State) (p : Nat) (c : Counter) (n : Nat) : (s.count p c n).energy = s.energy := rfl
@[simp] theorem count_window (s : State) (p : Nat) (c : Counter) (n : Nat) : (s.count p c n).window = s.window := rfl
@[simp] theorem count_hot (s : State) (p : Nat) (c : Counter) (n : Nat) : (s.count p c n).hot = s.hot := rfl
@[simp] theorem count_ports (s : State) (p : Nat) (c : Counter) (n : Nat) : (s.count p c n).ports = s.ports := rfl
@[simp] theorem count_modules (s : State) (p : Nat) (c : Counter) (n : Nat) : (s.count p c n).modules = s.modules := rfl
@[simp] theorem count_peers (s : State) (p : Nat) (c : Counter) (n : Nat) : (s.count p c n).peers = s.peers := rfl
@[simp] theorem count_msix (s : State) (p : Nat) (c : Counter) (n : Nat) : (s.count p c n).msix = s.msix := rfl
@[simp] theorem count_toPf0 (s : State) (p : Nat) (c : Counter) (n : Nat) : (s.count p c n).toPf0 = s.toPf0 := rfl

@[simp] theorem retire_tick (s : State) (b : Bool) : (s.retire b).tick = s.tick := rfl
@[simp] theorem retire_ahead (s : State) (b : Bool) : (s.retire b).ahead = s.ahead := rfl
@[simp] theorem retire_agenda (s : State) (b : Bool) : (s.retire b).agenda = s.agenda := rfl
@[simp] theorem retire_did (s : State) (b : Bool) : (s.retire b).did = s.did := rfl
@[simp] theorem retire_turn (s : State) (b : Bool) : (s.retire b).turn = s.turn := rfl
@[simp] theorem retire_cur (s : State) (b : Bool) : (s.retire b).cur = s.cur := rfl
@[simp] theorem retire_fresh (s : State) (b : Bool) : (s.retire b).fresh = s.fresh := rfl
@[simp] theorem retire_serial (s : State) (b : Bool) : (s.retire b).serial = s.serial := rfl
@[simp] theorem retire_mem (s : State) (b : Bool) : (s.retire b).mem = s.mem := rfl
@[simp] theorem retire_full (s : State) (b : Bool) : (s.retire b).full = s.full := rfl
@[simp] theorem retire_fired (s : State) (b : Bool) : (s.retire b).fired = s.fired := rfl
@[simp] theorem retire_errors (s : State) (b : Bool) : (s.retire b).errors = s.errors := rfl
@[simp] theorem retire_lines (s : State) (b : Bool) : (s.retire b).lines = s.lines := rfl
@[simp] theorem retire_copies (s : State) (b : Bool) : (s.retire b).copies = s.copies := rfl
@[simp] theorem retire_fetched (s : State) (b : Bool) : (s.retire b).fetched = s.fetched := rfl
@[simp] theorem retire_notices (s : State) (b : Bool) : (s.retire b).notices = s.notices := rfl
@[simp] theorem retire_sent (s : State) (b : Bool) : (s.retire b).sent = s.sent := rfl
@[simp] theorem retire_tlb (s : State) (b : Bool) : (s.retire b).tlb = s.tlb := rfl
@[simp] theorem retire_walks (s : State) (b : Bool) : (s.retire b).walks = s.walks := rfl
@[simp] theorem retire_walkTurn (s : State) (b : Bool) : (s.retire b).walkTurn = s.walkTurn := rfl
@[simp] theorem retire_faults (s : State) (b : Bool) : (s.retire b).faults = s.faults := rfl
@[simp] theorem retire_remaps (s : State) (b : Bool) : (s.retire b).remaps = s.remaps := rfl
@[simp] theorem retire_invalidations (s : State) (b : Bool) : (s.retire b).invalidations = s.invalidations := rfl
@[simp] theorem retire_publishes (s : State) (b : Bool) : (s.retire b).publishes = s.publishes := rfl
@[simp] theorem retire_attrs (s : State) (b : Bool) : (s.retire b).attrs = s.attrs := rfl
@[simp] theorem retire_padAttrs (s : State) (b : Bool) : (s.retire b).padAttrs = s.padAttrs := rfl
@[simp] theorem retire_scrubbing (s : State) (b : Bool) : (s.retire b).scrubbing = s.scrubbing := rfl
@[simp] theorem retire_heldWrites (s : State) (b : Bool) : (s.retire b).heldWrites = s.heldWrites := rfl
@[simp] theorem retire_stackStates (s : State) (b : Bool) : (s.retire b).stackStates = s.stackStates := rfl
@[simp] theorem retire_retries (s : State) (b : Bool) : (s.retire b).retries = s.retries := rfl
@[simp] theorem retire_owedTicks (s : State) (b : Bool) : (s.retire b).owedTicks = s.owedTicks := rfl
@[simp] theorem retire_packets (s : State) (b : Bool) : (s.retire b).packets = s.packets := rfl
@[simp] theorem retire_answered (s : State) (b : Bool) : (s.retire b).answered = s.answered := rfl
@[simp] theorem retire_answers (s : State) (b : Bool) : (s.retire b).answers = s.answers := rfl
@[simp] theorem retire_flash (s : State) (b : Bool) : (s.retire b).flash = s.flash := rfl
@[simp] theorem retire_standing (s : State) (b : Bool) : (s.retire b).standing = s.standing := rfl
@[simp] theorem retire_warning (s : State) (b : Bool) : (s.retire b).warning = s.warning := rfl
@[simp] theorem retire_emergency (s : State) (b : Bool) : (s.retire b).emergency = s.emergency := rfl
@[simp] theorem retire_firmware (s : State) (b : Bool) : (s.retire b).firmware = s.firmware := rfl
@[simp] theorem retire_recovery (s : State) (b : Bool) : (s.retire b).recovery = s.recovery := rfl
@[simp] theorem retire_log (s : State) (b : Bool) : (s.retire b).log = s.log := rfl
@[simp] theorem retire_parts (s : State) (b : Bool) : (s.retire b).parts = s.parts := rfl
@[simp] theorem retire_vfs (s : State) (b : Bool) : (s.retire b).vfs = s.vfs := rfl
@[simp] theorem retire_images (s : State) (b : Bool) : (s.retire b).images = s.images := rfl
@[simp] theorem retire_launches (s : State) (b : Bool) : (s.retire b).launches = s.launches := rfl
@[simp] theorem retire_groups (s : State) (b : Bool) : (s.retire b).groups = s.groups := rfl
@[simp] theorem retire_freeze (s : State) (b : Bool) : (s.retire b).freeze = s.freeze := rfl
@[simp] theorem retire_energy (s : State) (b : Bool) : (s.retire b).energy = s.energy := rfl
@[simp] theorem retire_window (s : State) (b : Bool) : (s.retire b).window = s.window := rfl
@[simp] theorem retire_hot (s : State) (b : Bool) : (s.retire b).hot = s.hot := rfl
@[simp] theorem retire_ports (s : State) (b : Bool) : (s.retire b).ports = s.ports := rfl
@[simp] theorem retire_modules (s : State) (b : Bool) : (s.retire b).modules = s.modules := rfl
@[simp] theorem retire_peers (s : State) (b : Bool) : (s.retire b).peers = s.peers := rfl
@[simp] theorem retire_msix (s : State) (b : Bool) : (s.retire b).msix = s.msix := rfl
@[simp] theorem retire_toPf0 (s : State) (b : Bool) : (s.retire b).toPf0 = s.toPf0 := rfl

@[simp] theorem eachMember_tick (s : State) (r : Run) (u : Env → Fibre → Fibre) : (s.eachMember r u).tick = s.tick := rfl
@[simp] theorem eachMember_ahead (s : State) (r : Run) (u : Env → Fibre → Fibre) : (s.eachMember r u).ahead = s.ahead := rfl
@[simp] theorem eachMember_agenda (s : State) (r : Run) (u : Env → Fibre → Fibre) : (s.eachMember r u).agenda = s.agenda := rfl
@[simp] theorem eachMember_did (s : State) (r : Run) (u : Env → Fibre → Fibre) : (s.eachMember r u).did = s.did := rfl
@[simp] theorem eachMember_turn (s : State) (r : Run) (u : Env → Fibre → Fibre) : (s.eachMember r u).turn = s.turn := rfl
@[simp] theorem eachMember_cur (s : State) (r : Run) (u : Env → Fibre → Fibre) : (s.eachMember r u).cur = s.cur := rfl
@[simp] theorem eachMember_fresh (s : State) (r : Run) (u : Env → Fibre → Fibre) : (s.eachMember r u).fresh = s.fresh := rfl
@[simp] theorem eachMember_serial (s : State) (r : Run) (u : Env → Fibre → Fibre) : (s.eachMember r u).serial = s.serial := rfl
@[simp] theorem eachMember_mem (s : State) (r : Run) (u : Env → Fibre → Fibre) : (s.eachMember r u).mem = s.mem := rfl
@[simp] theorem eachMember_full (s : State) (r : Run) (u : Env → Fibre → Fibre) : (s.eachMember r u).full = s.full := rfl
@[simp] theorem eachMember_fired (s : State) (r : Run) (u : Env → Fibre → Fibre) : (s.eachMember r u).fired = s.fired := rfl
@[simp] theorem eachMember_errors (s : State) (r : Run) (u : Env → Fibre → Fibre) : (s.eachMember r u).errors = s.errors := rfl
@[simp] theorem eachMember_lines (s : State) (r : Run) (u : Env → Fibre → Fibre) : (s.eachMember r u).lines = s.lines := rfl
@[simp] theorem eachMember_copies (s : State) (r : Run) (u : Env → Fibre → Fibre) : (s.eachMember r u).copies = s.copies := rfl
@[simp] theorem eachMember_fetched (s : State) (r : Run) (u : Env → Fibre → Fibre) : (s.eachMember r u).fetched = s.fetched := rfl
@[simp] theorem eachMember_notices (s : State) (r : Run) (u : Env → Fibre → Fibre) : (s.eachMember r u).notices = s.notices := rfl
@[simp] theorem eachMember_sent (s : State) (r : Run) (u : Env → Fibre → Fibre) : (s.eachMember r u).sent = s.sent := rfl
@[simp] theorem eachMember_tlb (s : State) (r : Run) (u : Env → Fibre → Fibre) : (s.eachMember r u).tlb = s.tlb := rfl
@[simp] theorem eachMember_walks (s : State) (r : Run) (u : Env → Fibre → Fibre) : (s.eachMember r u).walks = s.walks := rfl
@[simp] theorem eachMember_walkTurn (s : State) (r : Run) (u : Env → Fibre → Fibre) : (s.eachMember r u).walkTurn = s.walkTurn := rfl
@[simp] theorem eachMember_faults (s : State) (r : Run) (u : Env → Fibre → Fibre) : (s.eachMember r u).faults = s.faults := rfl
@[simp] theorem eachMember_remaps (s : State) (r : Run) (u : Env → Fibre → Fibre) : (s.eachMember r u).remaps = s.remaps := rfl
@[simp] theorem eachMember_invalidations (s : State) (r : Run) (u : Env → Fibre → Fibre) : (s.eachMember r u).invalidations = s.invalidations := rfl
@[simp] theorem eachMember_publishes (s : State) (r : Run) (u : Env → Fibre → Fibre) : (s.eachMember r u).publishes = s.publishes := rfl
@[simp] theorem eachMember_attrs (s : State) (r : Run) (u : Env → Fibre → Fibre) : (s.eachMember r u).attrs = s.attrs := rfl
@[simp] theorem eachMember_padAttrs (s : State) (r : Run) (u : Env → Fibre → Fibre) : (s.eachMember r u).padAttrs = s.padAttrs := rfl
@[simp] theorem eachMember_scrubbing (s : State) (r : Run) (u : Env → Fibre → Fibre) : (s.eachMember r u).scrubbing = s.scrubbing := rfl
@[simp] theorem eachMember_heldWrites (s : State) (r : Run) (u : Env → Fibre → Fibre) : (s.eachMember r u).heldWrites = s.heldWrites := rfl
@[simp] theorem eachMember_stackStates (s : State) (r : Run) (u : Env → Fibre → Fibre) : (s.eachMember r u).stackStates = s.stackStates := rfl
@[simp] theorem eachMember_retries (s : State) (r : Run) (u : Env → Fibre → Fibre) : (s.eachMember r u).retries = s.retries := rfl
@[simp] theorem eachMember_owedTicks (s : State) (r : Run) (u : Env → Fibre → Fibre) : (s.eachMember r u).owedTicks = s.owedTicks := rfl
@[simp] theorem eachMember_packets (s : State) (r : Run) (u : Env → Fibre → Fibre) : (s.eachMember r u).packets = s.packets := rfl
@[simp] theorem eachMember_answered (s : State) (r : Run) (u : Env → Fibre → Fibre) : (s.eachMember r u).answered = s.answered := rfl
@[simp] theorem eachMember_answers (s : State) (r : Run) (u : Env → Fibre → Fibre) : (s.eachMember r u).answers = s.answers := rfl
@[simp] theorem eachMember_flash (s : State) (r : Run) (u : Env → Fibre → Fibre) : (s.eachMember r u).flash = s.flash := rfl
@[simp] theorem eachMember_standing (s : State) (r : Run) (u : Env → Fibre → Fibre) : (s.eachMember r u).standing = s.standing := rfl
@[simp] theorem eachMember_warning (s : State) (r : Run) (u : Env → Fibre → Fibre) : (s.eachMember r u).warning = s.warning := rfl
@[simp] theorem eachMember_emergency (s : State) (r : Run) (u : Env → Fibre → Fibre) : (s.eachMember r u).emergency = s.emergency := rfl
@[simp] theorem eachMember_firmware (s : State) (r : Run) (u : Env → Fibre → Fibre) : (s.eachMember r u).firmware = s.firmware := rfl
@[simp] theorem eachMember_recovery (s : State) (r : Run) (u : Env → Fibre → Fibre) : (s.eachMember r u).recovery = s.recovery := rfl
@[simp] theorem eachMember_log (s : State) (r : Run) (u : Env → Fibre → Fibre) : (s.eachMember r u).log = s.log := rfl
@[simp] theorem eachMember_parts (s : State) (r : Run) (u : Env → Fibre → Fibre) : (s.eachMember r u).parts = s.parts := rfl
@[simp] theorem eachMember_vfs (s : State) (r : Run) (u : Env → Fibre → Fibre) : (s.eachMember r u).vfs = s.vfs := rfl
@[simp] theorem eachMember_images (s : State) (r : Run) (u : Env → Fibre → Fibre) : (s.eachMember r u).images = s.images := rfl
@[simp] theorem eachMember_launches (s : State) (r : Run) (u : Env → Fibre → Fibre) : (s.eachMember r u).launches = s.launches := rfl
@[simp] theorem eachMember_cores (s : State) (r : Run) (u : Env → Fibre → Fibre) : (s.eachMember r u).cores = s.cores := rfl
@[simp] theorem eachMember_freeze (s : State) (r : Run) (u : Env → Fibre → Fibre) : (s.eachMember r u).freeze = s.freeze := rfl
@[simp] theorem eachMember_energy (s : State) (r : Run) (u : Env → Fibre → Fibre) : (s.eachMember r u).energy = s.energy := rfl
@[simp] theorem eachMember_window (s : State) (r : Run) (u : Env → Fibre → Fibre) : (s.eachMember r u).window = s.window := rfl
@[simp] theorem eachMember_hot (s : State) (r : Run) (u : Env → Fibre → Fibre) : (s.eachMember r u).hot = s.hot := rfl
@[simp] theorem eachMember_ports (s : State) (r : Run) (u : Env → Fibre → Fibre) : (s.eachMember r u).ports = s.ports := rfl
@[simp] theorem eachMember_modules (s : State) (r : Run) (u : Env → Fibre → Fibre) : (s.eachMember r u).modules = s.modules := rfl
@[simp] theorem eachMember_peers (s : State) (r : Run) (u : Env → Fibre → Fibre) : (s.eachMember r u).peers = s.peers := rfl
@[simp] theorem eachMember_msix (s : State) (r : Run) (u : Env → Fibre → Fibre) : (s.eachMember r u).msix = s.msix := rfl
@[simp] theorem eachMember_toPf0 (s : State) (r : Run) (u : Env → Fibre → Fibre) : (s.eachMember r u).toPf0 = s.toPf0 := rfl
/-! ## Lists changed item by item -/

theorem find?_change {α : Type} (p q : α → Bool) (u : α → α) (l : List α) (h : ∀ x, q (u x) = q x) :
    (change p u l).find? q = (l.find? q).map fun x => if p x then u x else x := by
  induction l with
  | nil => rfl
  | cons x l ih =>
    have hx : q (if p x then u x else x) = q x := by split <;> simp [h]
    by_cases hq : q x = true
    · simp [change, List.find?, hx, hq]
    · simp only [Bool.not_eq_true] at hq
      simpa [change, List.find?, hx, hq] using ih

theorem find?_upsert {α : Type} (p q : α → Bool) (d : α) (u : α → α) (l : List α) (hu : ∀ x, q (u x) = q x)
    (hp : ∀ x, q x = true → p x = true → q d = true) (hd : q d = true → ∀ x, p x = q x) :
    (upsert p d u l).find? q = if q d then some (u ((l.find? q).getD d)) else l.find? q := by
  induction l with
  | nil => by_cases h : q d = true <;> simp [upsert, List.find?, hu, h]
  | cons x l ih =>
    by_cases hd' : q d = true
    · have hpx := hd hd' x
      by_cases hx : q x = true
      · simp [upsert, hpx, hx, List.find?, hu, hd']
      · simp only [Bool.not_eq_true] at hx
        simp only [upsert, hpx, hx, Bool.false_eq_true, if_false, List.find?]
        exact ih
    · by_cases hpx : p x = true
      · have hx : q x = false := by
          by_contra hx
          exact hd' (hp x (by simpa using hx) hpx)
        simp [upsert, hpx, List.find?, hu, hx, hd']
      · simp only [Bool.not_eq_true] at hpx hd'
        simp only [upsert, hpx, Bool.false_eq_true, if_false, List.find?, hd'] at ih ⊢
        by_cases hx : q x = true
        · simp [hx]
        · simp only [Bool.not_eq_true] at hx
          simpa [hx] using ih

/-! ## Lookups after an update -/

/-- A group found after a change of a group: the changed one, or the one there was. -/
theorem group?_modGroup (s : State) (g h : Nat) (u : Group → Group) (hu : ∀ x, (u x).gid = x.gid) :
    (s.modGroup g u).group? h = if h = g then (s.group? h).map u else s.group? h := by
  unfold State.group? State.modGroup
  rw [find?_change _ _ _ _ fun x => by simp [hu]]
  cases hf : s.groups.find? (·.gid == h) with
  | none => simp
  | some x =>
    have : x.gid = h := by simpa using List.find?_some hf
    by_cases hg : h = g <;> simp [this, hg]

theorem group?_modFibres (s : State) (g h : Nat) (l : List Nat) (u : Fibre → Fibre) :
    (s.modFibres g l u).group? h =
      if h = g then (s.group? h).map fun gr => { gr with fibres := change (fun fb => l.contains fb.fid) u gr.fibres }
      else s.group? h :=
  group?_modGroup s g h _ fun _ => rfl

/-- The fibres of a group after some of them have been changed. -/
theorem fibre?_modFibres (s : State) (g h f : Nat) (l : List Nat) (u : Fibre → Fibre) (hu : ∀ x, (u x).fid = x.fid) :
    (s.modFibres g l u).fibre? h f = if h = g ∧ f ∈ l then (s.fibre? h f).map u else s.fibre? h f := by
  unfold State.fibre?
  rw [group?_modFibres]
  by_cases hg : h = g
  · cases hs : s.group? h with
    | none => subst hg; simp
    | some gr =>
      subst hg
      simp only [if_true, Option.map_some, Option.bind_some, true_and]
      unfold Group.fibre?
      rw [find?_change _ _ _ _ fun x => by simp [hu]]
      cases hf : gr.fibres.find? (·.fid == f) with
      | none => simp
      | some x =>
        have : x.fid = f := by simpa using List.find?_some hf
        by_cases hl : f ∈ l <;> simp [this, hl]
  · simp [hg]

theorem core_modCore (s : State) (c k : Nat) (u : Core → Core) (hu : ∀ x, (u x).id = x.id) :
    (s.modCore c u).core k = if k = c then u (s.core k) else s.core k := by
  unfold State.core State.modCore
  rw [find?_upsert _ _ _ _ _ (fun x => by simp [hu]) (fun x => by simp; omega) (fun h x => by simp at h; simp [h])]
  by_cases hk : k = c
  · subst hk; simp
  · simp [hk, Ne.symm hk]

theorem part?_modPart (s : State) (p q : Nat) (u : Partition → Partition) (hu : ∀ x, (u x).id = x.id) :
    (s.modPart p u).part? q = if q = p then (s.part? q).map u else s.part? q := by
  unfold State.part? State.modPart
  rw [find?_change _ _ _ _ fun x => by simp [hu]]
  cases hf : s.parts.find? (·.id == q) with
  | none => simp
  | some x =>
    have : x.id = q := by simpa using List.find?_some hf
    by_cases hg : q = p <;> simp [this, hg]

theorem vf?_modVf (s : State) (v w : Nat) (u : VirtualFunction → VirtualFunction) (hu : ∀ x, (u x).id = x.id) :
    (s.modVf v u).vf? w = if w = v then (s.vf? w).map u else s.vf? w := by
  unfold State.vf? State.modVf
  rw [find?_change _ _ _ _ fun x => by simp [hu]]
  cases hf : s.vfs.find? (·.id == w) with
  | none => simp
  | some x =>
    have : x.id = w := by simpa using List.find?_some hf
    by_cases hg : w = v <;> simp [this, hg]

/-! ## Memory in the state after reset -/

theorem reset_mem_wf : Memory.wf State.reset.mem = true := rfl

end Sys2Proof.Machine
end

