-- ==== Sys2Proof/Laws/Issue.lean ====
section
/-!
SUPPORT. The frame every instruction word runs in, said once: when it faults, when it takes effect, what moving past
it leaves alone.
-/

namespace Sys2Proof.Machine

/-! ## Legality -/

/-- A word with an illegal field raises the illegal-instruction fault of its lowest cause. -/
theorem illegal_fault {s : State} {r : Run} {i : Instr} {c : Nat}
    (h : i.cause (s.env r).mp (s.env r).window = some c) :
    s.illegal r i = .fault { kind := 7, cause := c, failing := maskOf r.fids } := by simp [State.illegal, h]

/-- A word without one passes. -/
theorem illegal_ok {s : State} {r : Run} {i : Instr} (h : i.cause (s.env r).mp (s.env r).window = none) :
    s.illegal r i = .ok := by simp [State.illegal, h]

/-! ## issue -/

theorem issue_illegal {s : State} {r : Run} {i : Instr} {c : Nat} (hr : s.run? = some r)
    (h : i.cause (s.env r).mp (s.env r).window = some c) (b : Bool) (more : State → Run → Check)
    (eff : State → Run → State) :
    s.issue i b more eff = .next (s.raise s.cur r { kind := 7, cause := c, failing := maskOf r.fids }) := by
  simp [State.issue, hr, illegal_fault h]

theorem issue_more {s : State} {r : Run} {i : Instr} {t : Trap} (hr : s.run? = some r)
    (h : i.cause (s.env r).mp (s.env r).window = none) (b : Bool) {more : State → Run → Check}
    (hm : more s r = .fault t) (eff : State → Run → State) :
    s.issue i b more eff = .next (s.raise s.cur r t) := by
  simp [State.issue, hr, illegal_ok h, hm]

theorem issue_again {s s' : State} {r : Run} {i : Instr} (hr : s.run? = some r)
    (h : i.cause (s.env r).mp (s.env r).window = none) (b : Bool) {more : State → Run → Check}
    (hm : more s r = .again s') (eff : State → Run → State) :
    s.issue i b more eff = .next s' := by
  simp [State.issue, hr, illegal_ok h, hm]

/-- A legal word that passes its own checks takes effect and is moved past. -/
theorem issue_ok {s : State} {r : Run} {i : Instr} (hr : s.run? = some r)
    (h : i.cause (s.env r).mp (s.env r).window = none) (b : Bool) {more : State → Run → Check}
    (hm : more s r = .ok) (eff : State → Run → State) :
    s.issue i b more eff = .next ((eff s r).retire b) := by
  simp [State.issue, hr, illegal_ok h, hm]

theorem issueEach_ok {s : State} {r : Run} {i : Instr} (hr : s.run? = some r)
    (h : i.cause (s.env r).mp (s.env r).window = none) (b : Bool) (u : Env → Fibre → Fibre) :
    s.issueEach i b u = .next ((s.eachMember r u).retire b) :=
  issue_ok hr h b rfl _

/-! ## issueMem -/

theorem issueMem_illegal {s : State} {r : Run} {i : Instr} {c : Nat} (hr : s.run? = some r)
    (h : i.cause (s.env r).mp (s.env r).window = some c) (b : Bool) (spec : Env → AccSpec)
    (req : Env → Fibre → List Req) (eff : State → Run → Group → List Req → State) :
    s.issueMem i b spec req eff = .next (s.raise s.cur r { kind := 7, cause := c, failing := maskOf r.fids }) := by
  simp [State.issueMem, hr, illegal_fault h]

/-- A word of global memory that passes the checks of R231 takes effect and is moved past. -/
theorem issueMem_ok {s : State} {r : Run} {g : Group} {i : Instr} (hr : s.run? = some r)
    (hg : s.group? r.grp = some g) (h : i.cause (s.env r).mp (s.env r).window = none) (b : Bool)
    {spec : Env → AccSpec} {req : Env → Fibre → List Req}
    (hc : s.check r (spec (s.env r)) ((s.members r).flatMap (req (s.env r))) = .ok)
    (eff : State → Run → Group → List Req → State) :
    s.issueMem i b spec req eff =
      .next ((eff s r g ((s.members r).flatMap (req (s.env r)))).retire b) := by
  simp [State.issueMem, hr, hg, illegal_ok h, hc]

/-- A failed check raises its fault before any member performs. -/
theorem issueMem_fault {s : State} {r : Run} {i : Instr} {t : Trap} (hr : s.run? = some r)
    (h : i.cause (s.env r).mp (s.env r).window = none) (b : Bool) {spec : Env → AccSpec}
    {req : Env → Fibre → List Req}
    (hc : s.check r (spec (s.env r)) ((s.members r).flatMap (req (s.env r))) = .fault t)
    (eff : State → Run → Group → List Req → State) :
    s.issueMem i b spec req eff =
      .next ((s.noteFault r t).raise s.cur r t) := by
  simp [State.issueMem, hr, illegal_ok h, hc]

/-! ## Moving past a word -/

/-- The issuing core after a word has been moved past. -/
theorem core_retire (s : State) (b : Bool) (k : Nat) :
    (s.retire b).core k =
      if k = s.cur then
        match (s.core k).run with
        | none => s.core k
        | some r =>
          { s.core k with
            run := some { r with
              pkt := if r.mc.isNone && r.idx = 2 then r.pkt + BitVec.ofNat 64 packetBytes else r.pkt
              idx := if r.mc.isNone && r.idx = 2 then 0 else r.idx + 1
              count := r.count + 1
              chained := b }
            issueAt := if b then (s.core k).issueAt else some s.tick }
      else s.core k := by
  unfold State.retire
  refine (core_modCore _ _ _ _ fun x => by dsimp only; split <;> rfl).trans ?_
  by_cases h : k = s.cur
  · simp only [if_pos h] <;> rfl
  · simp only [if_neg h]

@[simp] theorem group?_retire (s : State) (b : Bool) (g : Nat) : (s.retire b).group? g = s.group? g := rfl
@[simp] theorem fibre?_retire (s : State) (b : Bool) (g f : Nat) : (s.retire b).fibre? g f = s.fibre? g f := rfl
@[simp] theorem core_eachMember (s : State) (r : Run) (u : Env → Fibre → Fibre) (k : Nat) :
    (s.eachMember r u).core k = s.core k := rfl

/-- The fibres of a bundle after a word that acts on each. -/
theorem fibre?_eachMember (s : State) (r : Run) (u : Env → Fibre → Fibre) (hu : ∀ e x, (u e x).fid = x.fid) (g f : Nat) :
    (s.eachMember r u).fibre? g f =
      if g = r.grp ∧ f ∈ r.fids then (s.fibre? g f).map (u (s.env r)) else s.fibre? g f :=
  fibre?_modFibres s r.grp g f r.fids _ fun x => hu _ x

/-! ## Results -/

@[simp] theorem put_fid (fb : Fibre) (e : Env) (p : Pipe) (c : BitVec 7) (n v : Nat) :
    (fb.put e p c n v).fid = fb.fid := by
  unfold Fibre.put Fibre.putRegs
  dsimp only
  split <;> rfl

@[simp] theorem putLater_fid (fb : Fibre) (e : Env) (p : Pipe) (c : BitVec 7) (n v : Nat) (fl : BitVec 5) (b : Option DWord) :
    (fb.putLater e p c n v fl b).fid = fb.fid := by
  unfold Fibre.putLater
  dsimp only
  split <;> rfl

/-- A result beyond its registers' width is cut down to it, so a value may be given by its residue. -/
theorem put_mod (fb : Fibre) (e : Env) (p : Pipe) (c : BitVec 7) (n v : Nat) :
    fb.put e p c n (v % 2 ^ (32 * n)) = fb.put e p c n v := by
  simp [Fibre.put]

/-- The registers after n registers have been written from register r on: register r + k takes word k of the value. -/
theorem sget_writeRegs (m : Sparse Word) (r v n k : Nat) :
    sget 0 (writeRegs m r v n) k = if r ≤ k ∧ k < r + n then BitVec.ofNat 32 (v / 2 ^ (32 * (k - r))) else sget 0 m k := by
  induction n generalizing m r v with
  | zero => rw [writeRegs, if_neg (by omega)]
  | succ n ih =>
    rw [writeRegs, ih]
    by_cases h : k = r
    · subst h
      rw [if_neg (by omega), sget_sset_same, if_pos (by omega)]
      simp
    · rw [sget_sset_ne _ _ _ h]
      by_cases h1 : r + 1 ≤ k ∧ k < r + 1 + n
      · have h2 : r ≤ k ∧ k < r + (n + 1) := by omega
        rw [if_pos h1, if_pos h2, Nat.div_div_eq_div_mul, ← pow_add]
        congr 3
        omega
      · rw [if_neg h1, if_neg (by omega)]

end Sys2Proof.Machine
end

