-- ==== Sys2Proof/Laws/Lines.lean ====
section
/-!
SUPPORT. What the movements of cached writes do where nothing is dirty and no notice is on its way: nothing.
-/

namespace Sys2Proof.Machine

/-- Nothing stands between the caches and the homes. -/
def State.Clean (s : State) : Prop := (∀ c ∈ s.copies, c.dirty = 0) ∧ s.notices = []

theorem drain_clean {s : State} (h : s.Clean) (p : Notice → Bool) : s.drain p = s := by simp [State.drain, h.2]

theorem settle_clean {s : State} (h : s.Clean) (line : Nat) : s.settle line = s := by
  simp [State.settle, upToLine, h.2]

theorem dirtyClusters_clean {s : State} (h : s.Clean) (p : Nat → Bool) : s.dirtyClusters p = [] := by
  simp only [State.dirtyClusters, List.filter_eq_nil_iff, h.2, List.any_nil, Bool.or_false, List.any_eq_true, not_exists,
    not_and]
  intro k _ c hc
  simp [h.1 c hc]

theorem publishL2_clean {s : State} (h : s.Clean) (st part : Nat) (p : Nat → Bool) : s.publishL2 st part p = s := by
  have hd : s.drainL2 st part = s := by simp [State.drainL2, h.2]
  have ho : (s.copies.filter fun c => c.unit == .l2 st && c.part == part && c.dirty ≠ 0 && p c.line) = [] := by
    simp only [List.filter_eq_nil_iff]
    intro c hc
    simp [h.1 c hc]
  unfold State.publishL2
  simp only [hd, ho, List.isEmpty_nil, if_true]

theorem publishLines_clean {s : State} (h : s.Clean) (p : Nat → Bool) : s.publishLines p = s := by
  have hc : s.copies.any (fun c => c.dirty ≠ 0 && p c.line) = false := by
    simp only [List.any_eq_false]
    intro c hc
    simp [h.1 c hc]
  unfold State.publishLines
  simp only [hc, h.2, List.any_nil, Bool.or_false, Bool.false_eq_true, if_false]

/-- An engine's view of clean caches is the machine itself (R312, R322). -/
theorem quiesce_clean {s : State} (h : s.Clean) (part : Nat) : s.quiesce part = s := by
  unfold State.quiesce
  simp only [drain_clean h, dirtyClusters_clean h, List.filter_nil, List.foldl_nil]
  exact List.foldl_fixed' (fun st => publishL2_clean h st part _) _

/-- A read at scope D of clean caches moves nothing where no soft error stands in memory. -/
theorem readCoherent_clean {s : State} (h : s.Clean) (he : s.errors = []) (pa n : Nat) :
    s.readCoherent pa n = (s.homeBytes pa n, s) := by
  have hs (l : List Nat) : l.foldl (fun s k => s.settle (pa / 256 + k)) s = s :=
    List.foldl_fixed' (f := fun (s : State) k => s.settle (pa / 256 + k)) (fun _ => settle_clean h _) l
  unfold State.readCoherent
  simp only [hs, publishLines_clean h, he, List.isEmpty_nil, if_true]

end Sys2Proof.Machine
end

