-- ==== Sys2Proof/Laws/PerInstr.lean ====
section
/-!
SUPPORT. One statement about every instruction as syntax: from the word of an instruction the decoder reads that
instruction's fields, whether or not they are legal.
-/

namespace Sys2Proof

/-! ## The parts of a word -/

theorem extract_low {n m : Nat} (a : BitVec n) (b : BitVec m) : (a ++ b).extractLsb' 0 m = b := by
  apply BitVec.eq_of_getLsbD_eq
  intro i hi
  simp [BitVec.getLsbD_append, hi]

theorem extract_high {n m s l : Nat} (a : BitVec n) (b : BitVec m) (h : m ≤ s) :
    (a ++ b).extractLsb' s l = a.extractLsb' (s - m) l := by
  apply BitVec.eq_of_getLsbD_eq
  intro i hi
  simp [BitVec.getLsbD_append, hi, show ¬s + i < m by omega, show s + i - m = s - m + i by omega]

theorem extract_all {n : Nat} (a : BitVec n) : a.extractLsb' 0 n = a := by
  apply BitVec.eq_of_getLsbD_eq
  intro i hi
  simp [hi]

theorem F3.ofBody_body (f : F3) : F3.ofBody f.c f.body = f := by
  simp only [F3.ofBody, F3.body, extract_low, extract_high, extract_all, Nat.le_refl, Nat.reduceLeDiff, Nat.reduceSub]

theorem FK.ofBody_body (f : FK) : FK.ofBody f.c f.body = f := by
  simp only [FK.ofBody, FK.body, extract_low, extract_high, extract_all, Nat.le_refl, Nat.reduceSub]

/-- What the decoder reads from a word made of a chain bit, an opcode and bits 23:0 (R44). -/
theorem decodeFields_word (c : Bool) (op : BitVec 7) (b : BitVec 24) :
    decodeFields (BitVec.ofBool c ++ op ++ b : BitVec 32) = decodeParts op.toNat c b := by
  have hc : (BitVec.ofBool c ++ op ++ b : BitVec 32).getLsbD 31 = c := by
    rw [BitVec.getLsbD_append, if_neg (by omega), BitVec.getLsbD_append, if_neg (by omega)]
    simp
  have ho : (BitVec.ofBool c ++ op ++ b : BitVec 32).extractLsb' 24 7 = op := by
    rw [extract_high _ _ (by omega)]
    exact extract_low _ _
  rw [decodeFields, hc, ho, extract_low]

namespace Laws.Fields

/-- The decoder reads an instruction's own fields from its word. -/
def Statement (i : Instr) : Prop := ∀ w, encode i = some w → decodeFields w = some i

theorem nop (f : F3) : Statement (.nop f) := fun _ h =>
  Option.some.inj h ▸ (decodeFields_word f.c 0x00#7 f.body).trans
    (congrArg (fun x => some (Instr.nop x)) (F3.ofBody_body f))

theorem trail (f : F3) : Statement (.trail f) := fun _ h =>
  Option.some.inj h ▸ (decodeFields_word f.c 0x01#7 f.body).trans
    (congrArg (fun x => some (Instr.trail x)) (F3.ofBody_body f))

theorem mcall (f : FK) : Statement (.mcall f) := fun _ h =>
  Option.some.inj h ▸ (decodeFields_word f.c 0x02#7 f.body).trans
    (congrArg (fun x => some (Instr.mcall x)) (FK.ofBody_body f))

theorem csld (f : F3) : Statement (.csld f) := fun _ h =>
  Option.some.inj h ▸ (decodeFields_word f.c 0x03#7 f.body).trans
    (congrArg (fun x => some (Instr.csld x)) (F3.ofBody_body f))

theorem trap (f : FK) : Statement (.trap f) := fun _ h =>
  Option.some.inj h ▸ (decodeFields_word f.c 0x04#7 f.body).trans
    (congrArg (fun x => some (Instr.trap x)) (FK.ofBody_body f))

theorem sysc (f : FK) : Statement (.sysc f) := fun _ h =>
  Option.some.inj h ▸ (decodeFields_word f.c 0x05#7 f.body).trans
    (congrArg (fun x => some (Instr.sysc x)) (FK.ofBody_body f))

theorem eret (f : F3) : Statement (.eret f) := fun _ h =>
  Option.some.inj h ▸ (decodeFields_word f.c 0x06#7 f.body).trans
    (congrArg (fun x => some (Instr.eret x)) (F3.ofBody_body f))

theorem iadd (f : F3) : Statement (.iadd f) := fun _ h =>
  Option.some.inj h ▸ (decodeFields_word f.c 0x08#7 f.body).trans
    (congrArg (fun x => some (Instr.iadd x)) (F3.ofBody_body f))

theorem isub (f : F3) : Statement (.isub f) := fun _ h =>
  Option.some.inj h ▸ (decodeFields_word f.c 0x09#7 f.body).trans
    (congrArg (fun x => some (Instr.isub x)) (F3.ofBody_body f))

theorem ineg (f : F3) : Statement (.ineg f) := fun _ h =>
  Option.some.inj h ▸ (decodeFields_word f.c 0x0A#7 f.body).trans
    (congrArg (fun x => some (Instr.ineg x)) (F3.ofBody_body f))

theorem iabs (f : F3) : Statement (.iabs f) := fun _ h =>
  Option.some.inj h ▸ (decodeFields_word f.c 0x0B#7 f.body).trans
    (congrArg (fun x => some (Instr.iabs x)) (F3.ofBody_body f))

theorem imul (f : F3) : Statement (.imul f) := fun _ h =>
  Option.some.inj h ▸ (decodeFields_word f.c 0x0C#7 f.body).trans
    (congrArg (fun x => some (Instr.imul x)) (F3.ofBody_body f))

theorem imulh (f : F3) : Statement (.imulh f) := fun _ h =>
  Option.some.inj h ▸ (decodeFields_word f.c 0x0D#7 f.body).trans
    (congrArg (fun x => some (Instr.imulh x)) (F3.ofBody_body f))

theorem imad (f : F3) : Statement (.imad f) := fun _ h =>
  Option.some.inj h ▸ (decodeFields_word f.c 0x0E#7 f.body).trans
    (congrArg (fun x => some (Instr.imad x)) (F3.ofBody_body f))

theorem idiv (f : F3) : Statement (.idiv f) := fun _ h =>
  Option.some.inj h ▸ (decodeFields_word f.c 0x0F#7 f.body).trans
    (congrArg (fun x => some (Instr.idiv x)) (F3.ofBody_body f))

theorem imm (f : F3) : Statement (.imm f) := fun _ h =>
  Option.some.inj h ▸ (decodeFields_word f.c 0x10#7 f.body).trans
    (congrArg (fun x => some (Instr.imm x)) (F3.ofBody_body f))

theorem icmp (f : F3) : Statement (.icmp f) := fun _ h =>
  Option.some.inj h ▸ (decodeFields_word f.c 0x11#7 f.body).trans
    (congrArg (fun x => some (Instr.icmp x)) (F3.ofBody_body f))

theorem log (f : F3) : Statement (.log f) := fun _ h =>
  Option.some.inj h ▸ (decodeFields_word f.c 0x12#7 f.body).trans
    (congrArg (fun x => some (Instr.log x)) (F3.ofBody_body f))

theorem shf (f : F3) : Statement (.shf f) := fun _ h =>
  Option.some.inj h ▸ (decodeFields_word f.c 0x13#7 f.body).trans
    (congrArg (fun x => some (Instr.shf x)) (F3.ofBody_body f))

theorem bfx (f : F3) : Statement (.bfx f) := fun _ h =>
  Option.some.inj h ▸ (decodeFields_word f.c 0x14#7 f.body).trans
    (congrArg (fun x => some (Instr.bfx x)) (F3.ofBody_body f))

theorem bfi (f : F3) : Statement (.bfi f) := fun _ h =>
  Option.some.inj h ▸ (decodeFields_word f.c 0x15#7 f.body).trans
    (congrArg (fun x => some (Instr.bfi x)) (F3.ofBody_body f))

theorem bit (f : F3) : Statement (.bit f) := fun _ h =>
  Option.some.inj h ▸ (decodeFields_word f.c 0x16#7 f.body).trans
    (congrArg (fun x => some (Instr.bit x)) (F3.ofBody_body f))

theorem lea (f : F3) : Statement (.lea f) := fun _ h =>
  Option.some.inj h ▸ (decodeFields_word f.c 0x17#7 f.body).trans
    (congrArg (fun x => some (Instr.lea x)) (F3.ofBody_body f))

theorem sel (f : F3) : Statement (.sel f) := fun _ h =>
  Option.some.inj h ▸ (decodeFields_word f.c 0x18#7 f.body).trans
    (congrArg (fun x => some (Instr.sel x)) (F3.ofBody_body f))

theorem mov (f : F3) : Statement (.mov f) := fun _ h =>
  Option.some.inj h ▸ (decodeFields_word f.c 0x19#7 f.body).trans
    (congrArg (fun x => some (Instr.mov x)) (F3.ofBody_body f))

theorem movs (f : F3) : Statement (.movs f) := fun _ h =>
  Option.some.inj h ▸ (decodeFields_word f.c 0x1A#7 f.body).trans
    (congrArg (fun x => some (Instr.movs x)) (F3.ofBody_body f))

theorem movt (f : F3) : Statement (.movt f) := fun _ h =>
  Option.some.inj h ▸ (decodeFields_word f.c 0x1B#7 f.body).trans
    (congrArg (fun x => some (Instr.movt x)) (F3.ofBody_body f))

theorem idot4 (f : F3) : Statement (.idot4 f) := fun _ h =>
  Option.some.inj h ▸ (decodeFields_word f.c 0x1C#7 f.body).trans
    (congrArg (fun x => some (Instr.idot4 x)) (F3.ofBody_body f))

theorem plog (f : F3) : Statement (.plog f) := fun _ h =>
  Option.some.inj h ▸ (decodeFields_word f.c 0x1D#7 f.body).trans
    (congrArg (fun x => some (Instr.plog x)) (F3.ofBody_body f))

theorem prd (f : F3) : Statement (.prd f) := fun _ h =>
  Option.some.inj h ▸ (decodeFields_word f.c 0x1E#7 f.body).trans
    (congrArg (fun x => some (Instr.prd x)) (F3.ofBody_body f))

theorem pwr (f : F3) : Statement (.pwr f) := fun _ h =>
  Option.some.inj h ▸ (decodeFields_word f.c 0x1F#7 f.body).trans
    (congrArg (fun x => some (Instr.pwr x)) (F3.ofBody_body f))

theorem lim (f : FK) : Statement (.lim f) := fun _ h =>
  Option.some.inj h ▸ (decodeFields_word f.c 0x20#7 f.body).trans
    (congrArg (fun x => some (Instr.lim x)) (FK.ofBody_body f))

theorem limh (f : FK) : Statement (.limh f) := fun _ h =>
  Option.some.inj h ▸ (decodeFields_word f.c 0x21#7 f.body).trans
    (congrArg (fun x => some (Instr.limh x)) (FK.ofBody_body f))

theorem fmts (f : F3) : Statement (.fmts f) := fun _ h =>
  Option.some.inj h ▸ (decodeFields_word f.c 0x22#7 f.body).trans
    (congrArg (fun x => some (Instr.fmts x)) (F3.ofBody_body f))

theorem obres (f : F3) : Statement (.obres f) := fun _ h =>
  Option.some.inj h ▸ (decodeFields_word f.c 0x23#7 f.body).trans
    (congrArg (fun x => some (Instr.obres x)) (F3.ofBody_body f))

theorem obrel (f : F3) : Statement (.obrel f) := fun _ h =>
  Option.some.inj h ▸ (decodeFields_word f.c 0x24#7 f.body).trans
    (congrArg (fun x => some (Instr.obrel x)) (F3.ofBody_body f))

theorem bbld (f : F3) : Statement (.bbld f) := fun _ h =>
  Option.some.inj h ▸ (decodeFields_word f.c 0x25#7 f.body).trans
    (congrArg (fun x => some (Instr.bbld x)) (F3.ofBody_body f))

theorem mma (f : F3) : Statement (.mma f) := fun _ h =>
  Option.some.inj h ▸ (decodeFields_word f.c 0x26#7 f.body).trans
    (congrArg (fun x => some (Instr.mma x)) (F3.ofBody_body f))

theorem mmas (f : F3) : Statement (.mmas f) := fun _ h =>
  Option.some.inj h ▸ (decodeFields_word f.c 0x27#7 f.body).trans
    (congrArg (fun x => some (Instr.mmas x)) (F3.ofBody_body f))

theorem accz (f : F3) : Statement (.accz f) := fun _ h =>
  Option.some.inj h ▸ (decodeFields_word f.c 0x28#7 f.body).trans
    (congrArg (fun x => some (Instr.accz x)) (F3.ofBody_body f))

theorem accrd (f : F3) : Statement (.accrd f) := fun _ h =>
  Option.some.inj h ▸ (decodeFields_word f.c 0x29#7 f.body).trans
    (congrArg (fun x => some (Instr.accrd x)) (F3.ofBody_body f))

theorem accwr (f : F3) : Statement (.accwr f) := fun _ h =>
  Option.some.inj h ▸ (decodeFields_word f.c 0x2A#7 f.body).trans
    (congrArg (fun x => some (Instr.accwr x)) (F3.ofBody_body f))

theorem compr (f : F3) : Statement (.compr f) := fun _ h =>
  Option.some.inj h ▸ (decodeFields_word f.c 0x2B#7 f.body).trans
    (congrArg (fun x => some (Instr.compr x)) (F3.ofBody_body f))

theorem gathr (f : F3) : Statement (.gathr f) := fun _ h =>
  Option.some.inj h ▸ (decodeFields_word f.c 0x2C#7 f.body).trans
    (congrArg (fun x => some (Instr.gathr x)) (F3.ofBody_body f))

theorem mtile (f : F3) : Statement (.mtile f) := fun _ h =>
  Option.some.inj h ▸ (decodeFields_word f.c 0x2D#7 f.body).trans
    (congrArg (fun x => some (Instr.mtile x)) (F3.ofBody_body f))

theorem mtq (f : F3) : Statement (.mtq f) := fun _ h =>
  Option.some.inj h ▸ (decodeFields_word f.c 0x2E#7 f.body).trans
    (congrArg (fun x => some (Instr.mtq x)) (F3.ofBody_body f))

theorem fadd (f : F3) : Statement (.fadd f) := fun _ h =>
  Option.some.inj h ▸ (decodeFields_word f.c 0x30#7 f.body).trans
    (congrArg (fun x => some (Instr.fadd x)) (F3.ofBody_body f))

theorem fsub (f : F3) : Statement (.fsub f) := fun _ h =>
  Option.some.inj h ▸ (decodeFields_word f.c 0x31#7 f.body).trans
    (congrArg (fun x => some (Instr.fsub x)) (F3.ofBody_body f))

theorem fmul (f : F3) : Statement (.fmul f) := fun _ h =>
  Option.some.inj h ▸ (decodeFields_word f.c 0x32#7 f.body).trans
    (congrArg (fun x => some (Instr.fmul x)) (F3.ofBody_body f))

theorem fma (f : F3) : Statement (.fma f) := fun _ h =>
  Option.some.inj h ▸ (decodeFields_word f.c 0x33#7 f.body).trans
    (congrArg (fun x => some (Instr.fma x)) (F3.ofBody_body f))

theorem fmin (f : F3) : Statement (.fmin f) := fun _ h =>
  Option.some.inj h ▸ (decodeFields_word f.c 0x34#7 f.body).trans
    (congrArg (fun x => some (Instr.fmin x)) (F3.ofBody_body f))

theorem fmax (f : F3) : Statement (.fmax f) := fun _ h =>
  Option.some.inj h ▸ (decodeFields_word f.c 0x35#7 f.body).trans
    (congrArg (fun x => some (Instr.fmax x)) (F3.ofBody_body f))

theorem fcmp (f : F3) : Statement (.fcmp f) := fun _ h =>
  Option.some.inj h ▸ (decodeFields_word f.c 0x36#7 f.body).trans
    (congrArg (fun x => some (Instr.fcmp x)) (F3.ofBody_body f))

theorem dcmp (f : F3) : Statement (.dcmp f) := fun _ h =>
  Option.some.inj h ▸ (decodeFields_word f.c 0x37#7 f.body).trans
    (congrArg (fun x => some (Instr.dcmp x)) (F3.ofBody_body f))

theorem fsgn (f : F3) : Statement (.fsgn f) := fun _ h =>
  Option.some.inj h ▸ (decodeFields_word f.c 0x38#7 f.body).trans
    (congrArg (fun x => some (Instr.fsgn x)) (F3.ofBody_body f))

theorem frnd (f : F3) : Statement (.frnd f) := fun _ h =>
  Option.some.inj h ▸ (decodeFields_word f.c 0x39#7 f.body).trans
    (congrArg (fun x => some (Instr.frnd x)) (F3.ofBody_body f))

theorem cvt (f : F3) : Statement (.cvt f) := fun _ h =>
  Option.some.inj h ▸ (decodeFields_word f.c 0x3A#7 f.body).trans
    (congrArg (fun x => some (Instr.cvt x)) (F3.ofBody_body f))

theorem qcvt (f : F3) : Statement (.qcvt f) := fun _ h =>
  Option.some.inj h ▸ (decodeFields_word f.c 0x3B#7 f.body).trans
    (congrArg (fun x => some (Instr.qcvt x)) (F3.ofBody_body f))

theorem fdiv (f : F3) : Statement (.fdiv f) := fun _ h =>
  Option.some.inj h ▸ (decodeFields_word f.c 0x3C#7 f.body).trans
    (congrArg (fun x => some (Instr.fdiv x)) (F3.ofBody_body f))

theorem fsqrt (f : F3) : Statement (.fsqrt f) := fun _ h =>
  Option.some.inj h ▸ (decodeFields_word f.c 0x3D#7 f.body).trans
    (congrArg (fun x => some (Instr.fsqrt x)) (F3.ofBody_body f))

theorem sfu (f : F3) : Statement (.sfu f) := fun _ h =>
  Option.some.inj h ▸ (decodeFields_word f.c 0x3E#7 f.body).trans
    (congrArg (fun x => some (Instr.sfu x)) (F3.ofBody_body f))

theorem pk2 (f : F3) : Statement (.pk2 f) := fun _ h =>
  Option.some.inj h ▸ (decodeFields_word f.c 0x3F#7 f.body).trans
    (congrArg (fun x => some (Instr.pk2 x)) (F3.ofBody_body f))

theorem upk2 (f : F3) : Statement (.upk2 f) := fun _ h =>
  Option.some.inj h ▸ (decodeFields_word f.c 0x40#7 f.body).trans
    (congrArg (fun x => some (Instr.upk2 x)) (F3.ofBody_body f))

theorem fdot2 (f : F3) : Statement (.fdot2 f) := fun _ h =>
  Option.some.inj h ▸ (decodeFields_word f.c 0x41#7 f.body).trans
    (congrArg (fun x => some (Instr.fdot2 x)) (F3.ofBody_body f))

theorem chgo (f : F3) : Statement (.chgo f) := fun _ h =>
  Option.some.inj h ▸ (decodeFields_word f.c 0x42#7 f.body).trans
    (congrArg (fun x => some (Instr.chgo x)) (F3.ofBody_body f))

theorem chst (f : F3) : Statement (.chst f) := fun _ h =>
  Option.some.inj h ▸ (decodeFields_word f.c 0x43#7 f.body).trans
    (congrArg (fun x => some (Instr.chst x)) (F3.ofBody_body f))

theorem chstp (f : F3) : Statement (.chstp f) := fun _ h =>
  Option.some.inj h ▸ (decodeFields_word f.c 0x44#7 f.body).trans
    (congrArg (fun x => some (Instr.chstp x)) (F3.ofBody_body f))

theorem cpy (f : F3) : Statement (.cpy f) := fun _ h =>
  Option.some.inj h ▸ (decodeFields_word f.c 0x45#7 f.body).trans
    (congrArg (fun x => some (Instr.cpy x)) (F3.ofBody_body f))

theorem cprom (f : F3) : Statement (.cprom f) := fun _ h =>
  Option.some.inj h ▸ (decodeFields_word f.c 0x46#7 f.body).trans
    (congrArg (fun x => some (Instr.cprom x)) (F3.ofBody_body f))

theorem tick (f : F3) : Statement (.tick f) := fun _ h =>
  Option.some.inj h ▸ (decodeFields_word f.c 0x48#7 f.body).trans
    (congrArg (fun x => some (Instr.tick x)) (F3.ofBody_body f))

theorem dlset (f : F3) : Statement (.dlset f) := fun _ h =>
  Option.some.inj h ▸ (decodeFields_word f.c 0x49#7 f.body).trans
    (congrArg (fun x => some (Instr.dlset x)) (F3.ofBody_body f))

theorem dlrel (f : F3) : Statement (.dlrel f) := fun _ h =>
  Option.some.inj h ▸ (decodeFields_word f.c 0x4A#7 f.body).trans
    (congrArg (fun x => some (Instr.dlrel x)) (F3.ofBody_body f))

theorem dlbud (f : F3) : Statement (.dlbud f) := fun _ h =>
  Option.some.inj h ▸ (decodeFields_word f.c 0x4B#7 f.body).trans
    (congrArg (fun x => some (Instr.dlbud x)) (F3.ofBody_body f))

theorem dlget (f : F3) : Statement (.dlget f) := fun _ h =>
  Option.some.inj h ▸ (decodeFields_word f.c 0x4C#7 f.body).trans
    (congrArg (fun x => some (Instr.dlget x)) (F3.ofBody_body f))

theorem sleep (f : F3) : Statement (.sleep f) := fun _ h =>
  Option.some.inj h ▸ (decodeFields_word f.c 0x4D#7 f.body).trans
    (congrArg (fun x => some (Instr.sleep x)) (F3.ofBody_body f))

theorem escal (f : FK) : Statement (.escal f) := fun _ h =>
  Option.some.inj h ▸ (decodeFields_word f.c 0x4E#7 f.body).trans
    (congrArg (fun x => some (Instr.escal x)) (FK.ofBody_body f))

theorem br (f : FK) : Statement (.br f) := fun _ h =>
  Option.some.inj h ▸ (decodeFields_word f.c 0x50#7 f.body).trans
    (congrArg (fun x => some (Instr.br x)) (FK.ofBody_body f))

theorem brn (f : FK) : Statement (.brn f) := fun _ h =>
  Option.some.inj h ▸ (decodeFields_word f.c 0x51#7 f.body).trans
    (congrArg (fun x => some (Instr.brn x)) (FK.ofBody_body f))

theorem jmp (f : F3) : Statement (.jmp f) := fun _ h =>
  Option.some.inj h ▸ (decodeFields_word f.c 0x52#7 f.body).trans
    (congrArg (fun x => some (Instr.jmp x)) (F3.ofBody_body f))

theorem call (f : FK) : Statement (.call f) := fun _ h =>
  Option.some.inj h ▸ (decodeFields_word f.c 0x53#7 f.body).trans
    (congrArg (fun x => some (Instr.call x)) (FK.ofBody_body f))

theorem ret (f : F3) : Statement (.ret f) := fun _ h =>
  Option.some.inj h ▸ (decodeFields_word f.c 0x54#7 f.body).trans
    (congrArg (fun x => some (Instr.ret x)) (F3.ofBody_body f))

theorem fork (f : F3) : Statement (.fork f) := fun _ h =>
  Option.some.inj h ▸ (decodeFields_word f.c 0x55#7 f.body).trans
    (congrArg (fun x => some (Instr.fork x)) (F3.ofBody_body f))

theorem fend (f : F3) : Statement (.fend f) := fun _ h =>
  Option.some.inj h ▸ (decodeFields_word f.c 0x56#7 f.body).trans
    (congrArg (fun x => some (Instr.fend x)) (F3.ofBody_body f))

theorem fjoin (f : F3) : Statement (.fjoin f) := fun _ h =>
  Option.some.inj h ▸ (decodeFields_word f.c 0x57#7 f.body).trans
    (congrArg (fun x => some (Instr.fjoin x)) (F3.ofBody_body f))

theorem yield (f : F3) : Statement (.yield f) := fun _ h =>
  Option.some.inj h ▸ (decodeFields_word f.c 0x58#7 f.body).trans
    (congrArg (fun x => some (Instr.yield x)) (F3.ofBody_body f))

theorem gend (f : F3) : Statement (.gend f) := fun _ h =>
  Option.some.inj h ▸ (decodeFields_word f.c 0x59#7 f.body).trans
    (congrArg (fun x => some (Instr.gend x)) (F3.ofBody_body f))

theorem qemit (f : F3) : Statement (.qemit f) := fun _ h =>
  Option.some.inj h ▸ (decodeFields_word f.c 0x5A#7 f.body).trans
    (congrArg (fun x => some (Instr.qemit x)) (F3.ofBody_body f))

theorem qrecv (f : F3) : Statement (.qrecv f) := fun _ h =>
  Option.some.inj h ▸ (decodeFields_word f.c 0x5B#7 f.body).trans
    (congrArg (fun x => some (Instr.qrecv x)) (F3.ofBody_body f))

theorem migr (f : F3) : Statement (.migr f) := fun _ h =>
  Option.some.inj h ▸ (decodeFields_word f.c 0x5C#7 f.body).trans
    (congrArg (fun x => some (Instr.migr x)) (F3.ofBody_body f))

theorem xshf (f : F3) : Statement (.xshf f) := fun _ h =>
  Option.some.inj h ▸ (decodeFields_word f.c 0x5D#7 f.body).trans
    (congrArg (fun x => some (Instr.xshf x)) (F3.ofBody_body f))

theorem xpsh (f : F3) : Statement (.xpsh f) := fun _ h =>
  Option.some.inj h ▸ (decodeFields_word f.c 0x5E#7 f.body).trans
    (congrArg (fun x => some (Instr.xpsh x)) (F3.ofBody_body f))

theorem xrdi (f : F3) : Statement (.xrdi f) := fun _ h =>
  Option.some.inj h ▸ (decodeFields_word f.c 0x5F#7 f.body).trans
    (congrArg (fun x => some (Instr.xrdi x)) (F3.ofBody_body f))

theorem xrdf (f : F3) : Statement (.xrdf f) := fun _ h =>
  Option.some.inj h ▸ (decodeFields_word f.c 0x60#7 f.body).trans
    (congrArg (fun x => some (Instr.xrdf x)) (F3.ofBody_body f))

theorem xrmn (f : F3) : Statement (.xrmn f) := fun _ h =>
  Option.some.inj h ▸ (decodeFields_word f.c 0x61#7 f.body).trans
    (congrArg (fun x => some (Instr.xrmn x)) (F3.ofBody_body f))

theorem xrmx (f : F3) : Statement (.xrmx f) := fun _ h =>
  Option.some.inj h ▸ (decodeFields_word f.c 0x62#7 f.body).trans
    (congrArg (fun x => some (Instr.xrmx x)) (F3.ofBody_body f))

theorem xscn (f : F3) : Statement (.xscn f) := fun _ h =>
  Option.some.inj h ▸ (decodeFields_word f.c 0x63#7 f.body).trans
    (congrArg (fun x => some (Instr.xscn x)) (F3.ofBody_body f))

theorem xvot (f : F3) : Statement (.xvot f) := fun _ h =>
  Option.some.inj h ▸ (decodeFields_word f.c 0x64#7 f.body).trans
    (congrArg (fun x => some (Instr.xvot x)) (F3.ofBody_body f))

theorem xffs (f : F3) : Statement (.xffs f) := fun _ h =>
  Option.some.inj h ▸ (decodeFields_word f.c 0x65#7 f.body).trans
    (congrArg (fun x => some (Instr.xffs x)) (F3.ofBody_body f))

theorem vfpsh (f : F3) : Statement (.vfpsh f) := fun _ h =>
  Option.some.inj h ▸ (decodeFields_word f.c 0x66#7 f.body).trans
    (congrArg (fun x => some (Instr.vfpsh x)) (F3.ofBody_body f))

theorem vfpop (f : F3) : Statement (.vfpop f) := fun _ h =>
  Option.some.inj h ▸ (decodeFields_word f.c 0x67#7 f.body).trans
    (congrArg (fun x => some (Instr.vfpop x)) (F3.ofBody_body f))

theorem ld (f : F3) : Statement (.ld f) := fun _ h =>
  Option.some.inj h ▸ (decodeFields_word f.c 0x68#7 f.body).trans
    (congrArg (fun x => some (Instr.ld x)) (F3.ofBody_body f))

theorem st (f : F3) : Statement (.st f) := fun _ h =>
  Option.some.inj h ▸ (decodeFields_word f.c 0x69#7 f.body).trans
    (congrArg (fun x => some (Instr.st x)) (F3.ofBody_body f))

theorem lda (f : F3) : Statement (.lda f) := fun _ h =>
  Option.some.inj h ▸ (decodeFields_word f.c 0x6A#7 f.body).trans
    (congrArg (fun x => some (Instr.lda x)) (F3.ofBody_body f))

theorem stl (f : F3) : Statement (.stl f) := fun _ h =>
  Option.some.inj h ▸ (decodeFields_word f.c 0x6B#7 f.body).trans
    (congrArg (fun x => some (Instr.stl x)) (F3.ofBody_body f))

theorem ldwt (f : F3) : Statement (.ldwt f) := fun _ h =>
  Option.some.inj h ▸ (decodeFields_word f.c 0x6C#7 f.body).trans
    (congrArg (fun x => some (Instr.ldwt x)) (F3.ofBody_body f))

theorem rsrev (f : F3) : Statement (.rsrev f) := fun _ h =>
  Option.some.inj h ▸ (decodeFields_word f.c 0x6D#7 f.body).trans
    (congrArg (fun x => some (Instr.rsrev x)) (F3.ofBody_body f))

theorem locate (f : F3) : Statement (.locate f) := fun _ h =>
  Option.some.inj h ▸ (decodeFields_word f.c 0x6E#7 f.body).trans
    (congrArg (fun x => some (Instr.locate x)) (F3.ofBody_body f))

theorem cache (f : F3) : Statement (.cache f) := fun _ h =>
  Option.some.inj h ▸ (decodeFields_word f.c 0x6F#7 f.body).trans
    (congrArg (fun x => some (Instr.cache x)) (F3.ofBody_body f))

theorem lds (f : F3) : Statement (.lds f) := fun _ h =>
  Option.some.inj h ▸ (decodeFields_word f.c 0x70#7 f.body).trans
    (congrArg (fun x => some (Instr.lds x)) (F3.ofBody_body f))

theorem sts (f : F3) : Statement (.sts f) := fun _ h =>
  Option.some.inj h ▸ (decodeFields_word f.c 0x71#7 f.body).trans
    (congrArg (fun x => some (Instr.sts x)) (F3.ofBody_body f))

theorem ldsc (f : F3) : Statement (.ldsc f) := fun _ h =>
  Option.some.inj h ▸ (decodeFields_word f.c 0x72#7 f.body).trans
    (congrArg (fun x => some (Instr.ldsc x)) (F3.ofBody_body f))

theorem femk (f : F3) : Statement (.femk f) := fun _ h =>
  Option.some.inj h ▸ (decodeFields_word f.c 0x73#7 f.body).trans
    (congrArg (fun x => some (Instr.femk x)) (F3.ofBody_body f))

theorem binit (f : F3) : Statement (.binit f) := fun _ h =>
  Option.some.inj h ▸ (decodeFields_word f.c 0x74#7 f.body).trans
    (congrArg (fun x => some (Instr.binit x)) (F3.ofBody_body f))

theorem barv (f : F3) : Statement (.barv f) := fun _ h =>
  Option.some.inj h ▸ (decodeFields_word f.c 0x75#7 f.body).trans
    (congrArg (fun x => some (Instr.barv x)) (F3.ofBody_body f))

theorem bwait (f : F3) : Statement (.bwait f) := fun _ h =>
  Option.some.inj h ▸ (decodeFields_word f.c 0x76#7 f.body).trans
    (congrArg (fun x => some (Instr.bwait x)) (F3.ofBody_body f))

theorem baw (f : F3) : Statement (.baw f) := fun _ h =>
  Option.some.inj h ▸ (decodeFields_word f.c 0x77#7 f.body).trans
    (congrArg (fun x => some (Instr.baw x)) (F3.ofBody_body f))

theorem atom (f : F3) : Statement (.atom f) := fun _ h =>
  Option.some.inj h ▸ (decodeFields_word f.c 0x78#7 f.body).trans
    (congrArg (fun x => some (Instr.atom x)) (F3.ofBody_body f))

theorem atox (f : F3) : Statement (.atox f) := fun _ h =>
  Option.some.inj h ▸ (decodeFields_word f.c 0x79#7 f.body).trans
    (congrArg (fun x => some (Instr.atox x)) (F3.ofBody_body f))

theorem cas (f : F3) : Statement (.cas f) := fun _ h =>
  Option.some.inj h ▸ (decodeFields_word f.c 0x7A#7 f.body).trans
    (congrArg (fun x => some (Instr.cas x)) (F3.ofBody_body f))

theorem redm (f : F3) : Statement (.redm f) := fun _ h =>
  Option.some.inj h ▸ (decodeFields_word f.c 0x7B#7 f.body).trans
    (congrArg (fun x => some (Instr.redm x)) (F3.ofBody_body f))

theorem fence (f : F3) : Statement (.fence f) := fun _ h =>
  Option.some.inj h ▸ (decodeFields_word f.c 0x7C#7 f.body).trans
    (congrArg (fun x => some (Instr.fence x)) (F3.ofBody_body f))

theorem pgate (f : F3) : Statement (.pgate f) := fun _ h =>
  Option.some.inj h ▸ (decodeFields_word f.c 0x7D#7 f.body).trans
    (congrArg (fun x => some (Instr.pgate x)) (F3.ofBody_body f))

theorem dbg (f : F3) : Statement (.dbg f) := fun _ h =>
  Option.some.inj h ▸ (decodeFields_word f.c 0x7E#7 f.body).trans
    (congrArg (fun x => some (Instr.dbg x)) (F3.ofBody_body f))

theorem bundlePick (core : Nat) : Statement (.bundlePick core) := fun _ h => nomatch h

theorem deferredResultLanding (grp fid : Nat) : Statement (.deferredResultLanding grp fid) := fun _ h => nomatch h

theorem waitConditionMet (grp fid : Nat) : Statement (.waitConditionMet grp fid) := fun _ h => nomatch h

theorem waitDeadlinePassed (grp fid : Nat) : Statement (.waitDeadlinePassed grp fid) := fun _ h => nomatch h

theorem waitImmediateOutcome (grp fid : Nat) : Statement (.waitImmediateOutcome grp fid) := fun _ h => nomatch h

theorem fibreTrapEntry (grp : Nat) : Statement (.fibreTrapEntry grp) := fun _ h => nomatch h

theorem supervisorTrap (grp : Nat) : Statement (.supervisorTrap grp) := fun _ h => nomatch h

theorem promiseMiss (grp chan : Nat) : Statement (.promiseMiss grp chan) := fun _ h => nomatch h

theorem tickBudgetExhausted (region : Nat) : Statement (.tickBudgetExhausted region) := fun _ h => nomatch h

theorem groupPlacement (launch stack : Nat) : Statement (.groupPlacement launch stack) := fun _ h => nomatch h

theorem groupAllotmentReturn (grp : Nat) : Statement (.groupAllotmentReturn grp) := fun _ h => nomatch h

theorem successorGroupLaunch (vf : Nat) (queue : BitVec 64) : Statement (.successorGroupLaunch vf queue) := fun _ h => nomatch h

theorem migrArrival (grp fid : Nat) : Statement (.migrArrival grp fid) := fun _ h => nomatch h

theorem groupKill (grp : Nat) : Statement (.groupKill grp) := fun _ h => nomatch h

theorem bbldLoadLand (grp slot : Nat) : Statement (.bbldLoadLand grp slot) := fun _ h => nomatch h

theorem gathrRowLand (grp gather : Nat) : Statement (.gathrRowLand grp gather) := fun _ h => nomatch h

theorem mtileKstep (grp tile : Nat) : Statement (.mtileKstep grp tile) := fun _ h => nomatch h

theorem obrelRangeReturn (grp entry : Nat) : Statement (.obrelRangeReturn grp entry) := fun _ h => nomatch h

theorem channelRecordRead (grp chan : Nat) : Statement (.channelRecordRead grp chan) := fun _ h => nomatch h

theorem churnTake (grp chan : Nat) : Statement (.churnTake grp chan) := fun _ h => nomatch h

theorem targetFire (grp chan : Nat) : Statement (.targetFire grp chan) := fun _ h => nomatch h

theorem recordComplete (grp chan : Nat) : Statement (.recordComplete grp chan) := fun _ h => nomatch h

theorem pageWalk (vf page : Nat) : Statement (.pageWalk vf page) := fun _ h => nomatch h

theorem capacityEviction (unit : CacheId) (line : Nat) : Statement (.capacityEviction unit line) := fun _ h => nomatch h

theorem evictionNotice (child : CacheId) : Statement (.evictionNotice child) := fun _ h => nomatch h

theorem goneReply (child : CacheId) (line : Nat) : Statement (.goneReply child line) := fun _ h => nomatch h

theorem ownershipRequest (core line : Nat) : Statement (.ownershipRequest core line) := fun _ h => nomatch h

theorem forcedPublish (holder : CacheId) (line : Nat) : Statement (.forcedPublish holder line) := fun _ h => nomatch h

theorem storeAcknowledge (grp fid : Nat) : Statement (.storeAcknowledge grp fid) := fun _ h => nomatch h

theorem drainStall (grp : Nat) : Statement (.drainStall grp) := fun _ h => nomatch h

theorem contextSave (grp frame : Nat) : Statement (.contextSave grp frame) := fun _ h => nomatch h

theorem scrubPatrol (word : Nat) : Statement (.scrubPatrol word) := fun _ h => nomatch h

theorem scrubHoldEnd (frame : Nat) : Statement (.scrubHoldEnd frame) := fun _ h => nomatch h

theorem gateClose (core : Nat) : Statement (.gateClose core) := fun _ h => nomatch h

theorem powerWindow : Statement .powerWindow := fun _ h => nomatch h

theorem thermalEmergency (stack temp : Nat) : Statement (.thermalEmergency stack temp) := fun _ h => nomatch h

theorem freezeStart (scope : Option Nat) : Statement (.freezeStart scope) := fun _ h => nomatch h

theorem traceDrain (core : Nat) : Statement (.traceDrain core) := fun _ h => nomatch h

theorem stackReset (stack : Nat) : Statement (.stackReset stack) := fun _ h => nomatch h

theorem routeDrainDeadline (stack : Nat) : Statement (.routeDrainDeadline stack) := fun _ h => nomatch h

theorem routeLost (packet : Nat) : Statement (.routeLost packet) := fun _ h => nomatch h

theorem movedRefusal (core vf page : Nat) : Statement (.movedRefusal core vf page) := fun _ h => nomatch h

theorem loadImage (vf queue : Nat) : Statement (.loadImage vf queue) := fun _ h => nomatch h

theorem unloadImage (vf queue : Nat) : Statement (.unloadImage vf queue) := fun _ h => nomatch h

theorem launch (vf queue : Nat) : Statement (.launch vf queue) := fun _ h => nomatch h

theorem registerGraphQueue (vf queue : Nat) : Statement (.registerGraphQueue vf queue) := fun _ h => nomatch h

theorem closeGraphQueue (vf queue : Nat) : Statement (.closeGraphQueue vf queue) := fun _ h => nomatch h

theorem describeImage (vf queue : Nat) : Statement (.describeImage vf queue) := fun _ h => nomatch h

theorem commandEntryArrival (vf queue : Nat) : Statement (.commandEntryArrival vf queue) := fun _ h => nomatch h

theorem doorbell (via vf queue : Nat) (tail : BitVec 32) : Statement (.doorbell via vf queue tail) := fun _ h => nomatch h

theorem queueEnable (path : HostPath) (queue : Nat) (on : Bool) : Statement (.queueEnable path queue on) := fun _ h => nomatch h

theorem queueStatusRead (path : HostPath) (what : QueueBytes) : Statement (.queueStatusRead path what) := fun _ h => nomatch h

theorem registerWrite (path : HostPath) (queue : Nat) (field : QueueField) (value : BitVec 64) : Statement (.registerWrite path queue field value) := fun _ h => nomatch h

theorem resume (part grp fid : Nat) (pc : Option (BitVec 64)) : Statement (.resume part grp fid pc) := fun _ h => nomatch h

theorem deliver (part grp fid : Nat) : Statement (.deliver part grp fid) := fun _ h => nomatch h

theorem readContext (part grp fid : Nat) : Statement (.readContext part grp fid) := fun _ h => nomatch h

theorem writeRegisters (part grp fid : Nat) (w : FibreWrite) : Statement (.writeRegisters part grp fid w) := fun _ h => nomatch h

theorem kill (part grp : Nat) : Statement (.kill part grp) := fun _ h => nomatch h

theorem preempt (part grp : Nat) : Statement (.preempt part grp) := fun _ h => nomatch h

theorem resumeGroup (part grp : Nat) : Statement (.resumeGroup part grp) := fun _ h => nomatch h

theorem regionCreate (part addr : Nat) (block : BitVec 512) : Statement (.regionCreate part addr block) := fun _ h => nomatch h

theorem regionEdit (part addr : Nat) (block : BitVec 512) : Statement (.regionEdit part addr block) := fun _ h => nomatch h

theorem regionDelete (part addr : Nat) : Statement (.regionDelete part addr) := fun _ h => nomatch h

theorem remap (part vf page : Nat) (entry : BitVec 64) : Statement (.remap part vf page entry) := fun _ h => nomatch h

theorem invalidate (part vf lo hi : Nat) : Statement (.invalidate part vf lo hi) := fun _ h => nomatch h

theorem resolved (part vf page : Nat) : Statement (.resolved part vf page) := fun _ h => nomatch h

theorem unresolvable (part vf page : Nat) : Statement (.unresolvable part vf page) := fun _ h => nomatch h

theorem attach (part vf root : Nat) (tableRoot : BitVec 64) : Statement (.attach part vf root tableRoot) := fun _ h => nomatch h

theorem detach (part vf : Nat) : Statement (.detach part vf) := fun _ h => nomatch h

theorem unfreeze (part : Nat) (master : Master) (kill : Bool) : Statement (.unfreeze part master kill) := fun _ h => nomatch h

theorem scrub (part : Nat) (what : Resource) : Statement (.scrub part what) := fun _ h => nomatch h

theorem setHandlerService (grp fid : Nat) : Statement (.setHandlerService grp fid) := fun _ h => nomatch h

theorem watch (part core index : Nat) (cmp : Comparator) : Statement (.watch part core index cmp) := fun _ h => nomatch h

theorem traceCommand (part core : Nat) (cfg : TraceConfig) : Statement (.traceCommand part core cfg) := fun _ h => nomatch h

theorem traceAcknowledge (part core count : Nat) : Statement (.traceAcknowledge part core count) := fun _ h => nomatch h

theorem counters (part : Nat) : Statement (.counters part) := fun _ h => nomatch h

theorem supervisorFreeze (part : Nat) (at_ : BitVec 64) : Statement (.supervisorFreeze part at_) := fun _ h => nomatch h

theorem deviceFreeze (at_ : BitVec 64) : Statement (.deviceFreeze at_) := fun _ h => nomatch h

theorem freezeRelease (scope : Option Nat) (kill : Bool) : Statement (.freezeRelease scope kill) := fun _ h => nomatch h

theorem measurementRequest (nonce : BitVec 384) : Statement (.measurementRequest nonce) := fun _ h => nomatch h

theorem hostMemAccess (part : Nat) (addr : BitVec 64) (op : MemOp) : Statement (.hostMemAccess part addr op) := fun _ h => nomatch h

theorem peerRequest (part window : Nat) (addr : BitVec 64) (op : MemOp) : Statement (.peerRequest part window addr op) := fun _ h => nomatch h

theorem peerRequestTimeout (request : Nat) : Statement (.peerRequestTimeout request) := fun _ h => nomatch h

theorem portLaneFailure (port : Nat) : Statement (.portLaneFailure port) := fun _ h => nomatch h

theorem packageReset : Statement .packageReset := fun _ h => nomatch h

theorem globalTick : Statement .globalTick := fun _ h => nomatch h

theorem moduleRetraining (unit : Nat) : Statement (.moduleRetraining unit) := fun _ h => nomatch h

theorem declareStoresLost (part grp : Nat) : Statement (.declareStoresLost part grp) := fun _ h => nomatch h

theorem forcedPublishDeadline (holder : CacheId) (line : Nat) : Statement (.forcedPublishDeadline holder line) := fun _ h => nomatch h

theorem remapSwitch (part vf page : Nat) : Statement (.remapSwitch part vf page) := fun _ h => nomatch h

theorem stackRelease (stack : Nat) : Statement (.stackRelease stack) := fun _ h => nomatch h

theorem softError (place : ErrorPlace) (flips : BitVec 256) : Statement (.softError place flips) := fun _ h => nomatch h

theorem nameExitRing (part vf : Nat) (base : BitVec 64) (records : Nat) : Statement (.nameExitRing part vf base records) := fun _ h => nomatch h

end Laws.Fields

end Sys2Proof
end

