-- ==== Sys2Proof/Laws/Walks.lean ====
section
/-!
SUPPORT. What the walker pool and the marks of fired targets leave alone: asking for a walk, starting walks and dropping
translations change the walks, the turn, and what each names, and nothing else.
-/

namespace Sys2Proof.Machine

/-- Changing the first item that meets a test changes no other item. -/
theorem mem_changeFirst {α : Type} {p : α → Bool} {u : α → α} {w : α} :
    ∀ {l : List α}, w ∈ changeFirst p u l → w ∈ l ∨ ∃ v ∈ l, p v = true ∧ w = u v
  | x :: xs, h => by
    unfold changeFirst at h
    split at h
    · rcases List.mem_cons.mp h with rfl | h
      · exact .inr ⟨x, by simp, ‹_›, rfl⟩
      · exact .inl (by simp [h])
    · rcases List.mem_cons.mp h with rfl | h
      · exact .inl (by simp)
      · rcases mem_changeFirst h with h | ⟨v, hv, hp⟩
        · exact .inl (by simp [h])
        · exact .inr ⟨v, by simp [hv], hp⟩

/-- Starting walks changes the walks and the turn of the pool alone. -/
theorem startWalks_frame : ∀ (n : Nat) (s : State), { s.startWalks n with walks := s.walks, walkTurn := s.walkTurn } = s
  | 0, _ => rfl
  | n + 1, s => by
    unfold State.startWalks
    split
    · rfl
    · split
      · rfl
      · rename_i p hp
        have h := startWalks_frame n
          { s with
            walkTurn := p
            walks := changeFirst (fun w => !w.started && w.part == p) (fun w => { w with started := true }) s.walks }
        exact congrArg (fun t : State => { t with walks := s.walks, walkTurn := s.walkTurn }) h

/-- A walk of the pool is one that was asked for, started or not. -/
theorem mem_startWalks {w : Walk} : ∀ {n : Nat} {s : State}, w ∈ (s.startWalks n).walks →
    w ∈ s.walks ∨ ∃ v ∈ s.walks, w = { v with started := true }
  | 0, _, h => .inl h
  | n + 1, s, h => by
    unfold State.startWalks at h
    split at h
    · exact .inl h
    · split at h
      · exact .inl h
      · rcases mem_startWalks h with h | ⟨v, hv, rfl⟩
        · rcases mem_changeFirst h with h | ⟨v, hv, -, rfl⟩
          · exact .inl h
          · exact .inr ⟨v, hv, rfl⟩
        · rcases mem_changeFirst hv with hv | ⟨u, hu, -, rfl⟩
          · exact .inr ⟨v, hv, rfl⟩
          · exact .inr ⟨u, hu, rfl⟩

/-- Asking for a walk changes the walks and the turn of the pool alone. -/
theorem askWalk_frame (s : State) (stack part vf va : Nat) (write : Bool) (by_ : Requester) :
    { s.askWalk stack part vf va write by_ with walks := s.walks, walkTurn := s.walkTurn } = s := by
  obtain ⟨ws, e⟩ : ∃ ws, s.askWalk stack part vf va write by_ = State.startWalks { s with walks := ws } 1 := by
    unfold State.askWalk
    dsimp only
    split <;> exact ⟨_, rfl⟩
  rw [e]
  exact congrArg (fun t : State => { t with walks := s.walks, walkTurn := s.walkTurn })
    (startWalks_frame 1 { s with walks := ws })

/-- Dropping the translations of pages changes the translations, the walks with the turn of the pool, and the results of
failed walks. -/
theorem dropPages_frame (s : State) (vf lo hi : Nat) :
    { s.dropPages vf lo hi with tlb := s.tlb, walks := s.walks, walkTurn := s.walkTurn, faults := s.faults } = s := by
  unfold State.dropPages
  exact congrArg (fun t : State => { t with tlb := s.tlb, walks := s.walks, walkTurn := s.walkTurn, faults := s.faults })
    (startWalks_frame walkSlots { s with tlb := _, walks := _, faults := _ })

/-- No translation of a dropped page is left (R341). -/
theorem dropPages_tlb (s : State) (vf lo hi : Nat) :
    (s.dropPages vf lo hi).tlb = s.tlb.filter fun t => !(t.vf == vf && t.page < hi && lo < t.page + t.pages) := by
  unfold State.dropPages
  exact congrArg (fun t : State => t.tlb) (startWalks_frame walkSlots { s with tlb := _, walks := _, faults := _ })

/-! ## Fired targets -/

@[simp] theorem noteFired_mem (s : State) (key scope : Nat) : (s.noteFired key scope).mem = s.mem := rfl
@[simp] theorem noteFired_full (s : State) (key scope : Nat) : (s.noteFired key scope).full = s.full := rfl
@[simp] theorem noteFired_groups (s : State) (key scope : Nat) : (s.noteFired key scope).groups = s.groups := rfl
@[simp] theorem unfire_mem (s : State) (key : Nat) : (s.unfire key).mem = s.mem := rfl
@[simp] theorem unfire_full (s : State) (key : Nat) : (s.unfire key).full = s.full := rfl
@[simp] theorem unfire_groups (s : State) (key : Nat) : (s.unfire key).groups = s.groups := rfl

/-- An OK at a place where no record of a scope wider than K has fired discards and performs nothing. -/
theorem acquireFired_near {s : State} {core key : Nat} (h : sget 0 s.fired key ≤ 2) : s.acquireFired core key = s := by
  simp only [State.acquireFired, State.acquire, h, if_true]

end Sys2Proof.Machine
end

