-- ==== Sys2Proof/Safety.lean ====
section
/-!
DEFINITION. What a safe run is.
-/

namespace Sys2Proof.Machine

/-- The machine can take a step: it neither faults nor refuses. -/
def State.canStep (s : State) : Prop := ∃ t, step s = .next t

end Sys2Proof.Machine
end

