-- ==== Sys2Proof/Tests/Slice0.lean ====
section
/-!
SUPPORT. Tests: words of the spec's encodings decode to what they stand for; a term that each check of well-formedness
refuses; small results that the spec states; and, for the statements of the obligations, states and operands that meet
their hypotheses.
-/

namespace Sys2Proof.Tests

open Sys2Proof Sys2Proof.Machine Sys2Proof.Spec

set_option Elab.async false

/-! ## Encoding -/

/-- Words that the spec writes out for integer and predicate words (R32, R40, R157, R158 and the programs). -/
theorem test_decode_integer_words :
    decode 0x0F20C0E7 = .ok (.idiv { c := false, x := 1, d := 3, a := 1, b := 103 }) ∧
    decode 0x17628206 = .ok (.lea { c := false, x := 3, d := 10, a := 4, b := 6 }) ∧
    decode 0x18410181 = .ok (.sel { c := false, x := 2, d := 4, a := 3, b := 1 }) ∧
    decode 0x14100309 = .ok (.bfx { c := false, x := 0, d := 64, a := 6, b := 9 }) ∧
    decode 0x110226C8 = .ok (.icmp { c := false, x := 0, d := 8, a := 77, b := 72 }) ∧
    decode 0x1D608488 = .ok (.plog { c := false, x := 3, d := 2, a := 9, b := 8 }) ∧
    decode 0x10448864 = .ok (.imm { c := false, x := 2, d := 18, a := 16, b := 100 }) ∧
    decode 0x21087F80 = .ok (.limh { c := false, d := 4, k := 0x7F80 }) ∧
    decode 0x1A003580 = .ok (.movs { c := false, x := 0, d := 0, a := 107, b := 0 }) := by decide +kernel

/-- Words that the spec writes out for control, time and traps (R64, R65, R91, R92, R108, R126, R347). -/
theorem test_decode_control_words :
    decode 0x0122C000 = .ok (.trail { c := false, x := 1, d := 11, a := 0, b := 0 }) ∧
    decode 0x59000000 = .ok (.gend { c := false, x := 0, d := 0, a := 0, b := 0 }) ∧
    decode 0x56003000 = .ok (.fend { c := false, x := 0, d := 0, a := 96, b := 0 }) ∧
    decode 0x58200000 = .ok (.yield { c := false, x := 1, d := 0, a := 0, b := 0 }) ∧
    decode 0x5013FFFD = .ok (.br { c := false, d := 9, k := -3 }) ∧
    decode 0x511FFFFE = .ok (.brn { c := false, d := 15, k := -2 }) ∧
    decode 0x53280005 = .ok (.call { c := false, d := 20, k := 5 }) ∧
    decode 0x49400400 = .ok (.dlset { c := false, x := 2, d := 0, a := 8, b := 0 }) ∧
    decode 0x48218000 = .ok (.tick { c := false, x := 1, d := 6, a := 0, b := 0 }) ∧
    decode 0x4E001234 = .ok (.escal { c := false, d := 0, k := 0x1234 }) := by decide +kernel

/-- Words that the spec writes out for memory, channels and tiers (R223, R235, R276 to R280, R303, R310, R376, R380). -/
theorem test_decode_memory_words :
    decode 0x68820164 = .ok (.ld { c := false, x := 4, d := 8, a := 2, b := 100 }) ∧
    decode 0x69410005 = .ok (.st { c := false, x := 2, d := 4, a := 0, b := 5 }) ∧
    decode 0x6E024100 = .ok (.locate { c := false, x := 0, d := 9, a := 2, b := 0 }) ∧
    decode 0x78020160 = .ok (.atom { c := false, x := 0, d := 8, a := 2, b := 96 }) ∧
    decode 0x7C227A00 = .ok (.fence { c := false, x := 1, d := 9, a := 116, b := 0 }) ∧
    decode 0x4200C261 = .ok (.chgo { c := false, x := 0, d := 3, a := 4, b := 97 }) ∧
    decode 0x44017000 = .ok (.chstp { c := false, x := 0, d := 5, a := 96, b := 0 }) ∧
    decode 0x46023000 = .ok (.cprom { c := false, x := 0, d := 8, a := 96, b := 0 }) ∧
    decode 0x45034860 = .ok (.cpy { c := false, x := 0, d := 13, a := 16, b := 96 }) ∧
    decode 0x662001E7 = .ok (.vfpsh { c := false, x := 1, d := 0, a := 3, b := 103 }) ∧
    decode 0x67210067 = .ok (.vfpop { c := false, x := 1, d := 4, a := 0, b := 103 }) ∧
    decode 0x7D21E6E0 = .ok (.pgate { c := false, x := 1, d := 7, a := 77, b := 96 }) := by decide +kernel

/-- Words that the spec writes out for floats and cross-lane words (R138, R189 and the programs). -/
theorem test_decode_float_words :
    decode 0x3A210104 = .ok (.cvt { c := false, x := 1, d := 4, a := 2, b := 4 }) ∧
    decode 0x33628261 = .ok (.fma { c := false, x := 3, d := 10, a := 4, b := 97 }) ∧
    decode 0x65240791 = .ok (.xffs { c := false, x := 1, d := 16, a := 15, b := 17 }) ∧
    decode 0x63284D11 = .ok (.xscn { c := false, x := 1, d := 33, a := 26, b := 17 }) := by decide +kernel

/-- Words of the matrix array and the scratchpad by the opcode map (R72) and format R, W or M (R44). -/
theorem test_decode_matrix_and_scratchpad_words :
    decode (wordOf 0 0x22 0 0 3 4) = .ok (.fmts { c := false, x := 0, d := 0, a := 3, b := 4 }) ∧
    decode (wordOf 0 0x23 0 4 2 6) = .ok (.obres { c := false, x := 0, d := 4, a := 2, b := 6 }) ∧
    decode (wordOf 1 0x26 1 12 3 4) = .ok (.mma { c := true, x := 1, d := 12, a := 3, b := 4 }) ∧
    decode (wordOf 0 0x29 2 63 1 96) = .ok (.accrd { c := false, x := 2, d := 63, a := 1, b := 96 }) ∧
    decode (wordOf 0 0x71 3 20 4 97) = .ok (.sts { c := false, x := 3, d := 20, a := 4, b := 97 }) ∧
    decode (wordOf 0 0x73 1 0 4 5) = .ok (.femk { c := false, x := 1, d := 0, a := 4, b := 5 }) := by decide +kernel

/-! ## Well-formedness: a term that each check refuses -/

theorem test_illformed_reserved_opcode : decode 0x07000000 = .error .reservedOpcode := by decide +kernel
theorem test_illformed_variant : (Instr.shf { c := false, x := 5, d := 0, a := 0, b := 0 }).wf = false := by decide +kernel
theorem test_illformed_unused_field : (Instr.fend { c := false, x := 0, d := 1, a := 96, b := 0 }).wf = false := by decide +kernel
theorem test_illformed_k17 : (Instr.escal { c := false, d := 0, k := 0x10000 }).wf = false := by decide +kernel
theorem test_illformed_window :
    (Instr.iadd { c := false, x := 0, d := 1, a := 2, b := 16 }).cause none 16 = some 4 := by decide +kernel
theorem test_illformed_pair : (Instr.iadd { c := false, x := 3, d := 1, a := 2, b := 4 }).wf = false := by decide +kernel
theorem test_illformed_predicate : (Instr.icmp { c := false, x := 0, d := 96, a := 2, b := 4 }).wf = false := by decide +kernel
theorem test_illformed_special : (Instr.movs { c := false, x := 0, d := 1, a := 96 + 27, b := 0 }).wf = false := by decide +kernel
theorem test_wellformed : (Instr.iadd { c := false, x := 3, d := 2, a := 2, b := 4 }).wf = true := by decide +kernel

/-! ## Results that the spec states -/

/-- A state in which core 0 issues for fibre 0, whose registers, as its words read them, are given. -/
def machine (regs : Sparse Word) : State :=
  (State.reset.withFetchWord 32 0).modFibre 1 0 fun fb =>
    { fb with ctx := { fb.ctx with regs := regs }, snap := { fb.snap with regs := regs } }

/-- A word's fields. -/
def f3 (x : BitVec 3) (d a b : BitVec 7) : F3 := { c := false, x := x, d := d, a := a, b := b }

/-- What a word leaves in the context of fibre 0; none where it does not complete. -/
def context (i : Instr) (regs : Sparse Word) : Option Ctx :=
  match exec i (machine regs) with
  | .next t => (t.fibre? 1 0).map (·.ctx)
  | _ => none

/-- Register 10 after a word on registers 2 and 3 (and the pairs from 2 and 4). -/
def result (i : Instr) (a b : Word) : Option Word := (context i [(2, a), (3, b), (4, b), (10, 7)]).map fun c => sget 0 c.regs 10

/-- Predicate 9 after a word on registers 2 and 3. -/
def predicate (i : Instr) (a b : Word) : Option Bool := (context i [(2, a), (3, b)]).map (·.preds.getLsbD 9)

/-- R147, R148: saturation and wrapping. -/
theorem test_add_saturates :
    result (.iadd (f3 1 10 2 3)) 0x7FFFFFFF 1 = some 0x7FFFFFFF ∧ result (.iadd (f3 0 10 2 3)) 0x7FFFFFFF 1 = some 0x80000000 ∧
    result (.isub (f3 2 10 2 3)) 3 5 = some 0 ∧ result (.ineg (f3 0 10 2 0)) 0x80000000 0 = some 0x80000000 ∧
    result (.iabs (f3 1 10 2 0)) 0x80000000 0 = some 0x7FFFFFFF := by decide +kernel

/-- R149, R150: the high half of a signed product; division toward zero and by zero. -/
theorem test_multiply_and_divide :
    result (.imulh (f3 0 10 2 3)) 0xFFFFFFFF 1 = some 0xFFFFFFFF := by decide +kernel
theorem test_divide_latch :
    (context (.idiv (f3 0 10 2 3)) [(2, 0xFFFFFFF9), (3, 2)]).map (·.lat.la0) = some 0xFFFFFFFD ∧
    (context (.idiv (f3 2 10 2 3)) [(2, 0xFFFFFFF9), (3, 2)]).map (·.lat.la0) = some 0xFFFFFFFF ∧
    (context (.idiv (f3 1 10 2 3)) [(2, 5), (3, 0)]).map (·.lat.la0) = some 0xFFFFFFFF := by decide +kernel

/-- R154, R155, R156: a shift by the width, a field that passes bit 31, a count of zero. -/
theorem test_shift_and_fields :
    result (.shf (f3 0 10 2 3)) 5 32 = some 0 ∧ result (.shf (f3 2 10 2 3)) 0x80000000 40 = some 0xFFFFFFFF ∧
    result (.bfx (f3 1 10 2 3)) 0xA0000000 (28 + 8 * 256) = some 0xFFFFFFFA ∧ result (.bit (f3 1 10 2 0)) 0 0 = some 32 := by
  decide +kernel

/-- R151, R152: comparison signed and natural. -/
theorem test_compare :
    result (.imm (f3 0 10 2 3)) 0xFFFFFFFF 1 = some 0xFFFFFFFF ∧ result (.imm (f3 2 10 2 3)) 0xFFFFFFFF 1 = some 1 ∧
    predicate (.icmp (f3 2 9 2 3)) 0xFFFFFFFF 1 = some true ∧ predicate (.icmp (f3 4 9 2 3)) 0xFFFFFFFF 1 = some false := by
  decide +kernel

/-- R161: LIM sign-extends, LIMH reads the latch that LIM has left. -/
theorem test_lim : (context (.lim { c := false, d := 10, k := 0x1FFFF }) []).map (fun c => (sget 0 c.regs 10, c.lat.la0)) =
    some (0xFFFFFFFF, 0xFFFFFFFF) := by decide +kernel

/-- R172, R182, R184: 1 + 1 is 2 without a flag; 0 times infinity is a NaN with NV; +0 equals −0. -/
theorem test_float :
    result (.fadd (f3 0 10 2 3)) 0x3F800000 0x3F800000 = some 0x40000000 ∧
    (context (.fmul (f3 0 10 2 3)) [(2, 0), (3, 0x7F800000)]).map (fun c => (sget 0 c.regs 10, c.fpctl)) =
      some (0x7FC00000, 0x100) ∧
    predicate (.fcmp (f3 0 9 2 3)) 0x80000000 0 = some true := by decide +kernel

/-- R188, R189: the special results of SFU and a conversion out of range. -/
theorem test_float_specials :
    (context (.sfu (f3 0 10 2 0)) [(2, 0)]).map (·.lat.lf0) = some 0x7F800000 ∧
    result (.cvt (f3 1 10 2 4)) 0x4F000000 0 = some 0x7FFFFFFF ∧ result (.cvt (f3 1 10 2 4)) 0x7FC00000 0 = some 0 := by
  decide +kernel

/-- R92, R108: DLREL past 2^40 is clamped and noted; ESCAL leaves its code in WSTAT. -/
theorem test_deadline_clamp :
    (context (.dlrel (f3 2 0 2 0)) [(2, 0), (3, 0x200)]).map (fun c => (sget 0 c.dl 2, c.wstat)) =
      some (0x10000000000, 0x100) ∧
    (context (.escal { c := false, d := 0, k := 0x1234 }) []).map (·.wstat) = some 0x1234EF := by decide +kernel

/-- R5, R223: a store and a load of bytes, lowest first, in the page the test maps at address 0. -/
theorem test_store_and_load :
    (match exec (.st (f3 2 2 4 96)) (machine [(2, 0x11223344), (4, 0x100)]) with
      | .next t => [t.peekByte 0 0x100, t.peekByte 0 0x103, t.peekByte 0 0x104]
      | _ => []) = [0x44, 0x11, 0] ∧
    (match exec (.ld (f3 0 10 4 96)) { machine [(4, 0x100)] with mem := mwle [] 0x100 0x80 1 } with
      | .next t => (t.fibre? 1 0).map (·.ctx.lat.lm0)
      | _ => none) = some 0xFFFFFF80 := by decide +kernel

/-- R218, R346: a misaligned load raises access fault 1, and the fibre is held at the supervisor. -/
theorem test_misaligned_load :
    (match exec (.ld (f3 4 10 4 96)) (machine [(4, 0x101)]) with
      | .next t => (t.fibre? 1 0).bind fun fb => fb.held.map fun tr => (tr.kind, tr.cause, tr.fva)
      | _ => none) = some (9, 1, 0x101) := by decide +kernel

/-- R44, R83: the step fetches, decodes and runs a word; a reserved opcode traps with cause 1. -/
theorem test_step_runs_word :
    (match step (State.reset.withFetchWord 32 0x20140005) with
      | .next t => (t.fibre? 1 0).map fun fb => sget 0 fb.ctx.regs 10
      | _ => none) = some 5 ∧
    (match step (State.reset.withFetchWord 32 0x07000000) with
      | .next t => (t.fibre? 1 0).bind fun fb => fb.held.map fun tr => (tr.kind, tr.cause)
      | _ => none) = some (7, 1) := by decide +kernel

/-- R99, R109: SLEEP on dl0 returns OK at once. -/
theorem test_sleep_polls :
    (context (.sleep (f3 0 0 0 0)) []).map (fun c => (c.wstat, c.preds.getLsbD 1)) = some (0x10, true) := by decide +kernel


/-! ## States and operands that meet the hypotheses of the statements

Each theorem witness_X is of Obligations.X, or of the part X that a statement of several parts names. -/

/-- Whether a word is ready in a state (Ready, as a computation). -/
def readyIn (s : State) (i : Instr) : Bool :=
  match s.run? with
  | none => false
  | some r => (s.group? r.grp).isSome && (i.cause (s.env r).mp (s.env r).window).isNone

theorem ready_of {s : State} {i : Instr} (h : readyIn s i = true) : ∃ r g, Ready s i r g := by
  unfold readyIn at h
  split at h
  · cases h
  · rename_i r hr
    simp only [Bool.and_eq_true, Option.isNone_iff_eq_none] at h
    obtain ⟨g, hg⟩ := Option.isSome_iff_exists.mp h.1
    exact ⟨r, g, hr, hg, h.2⟩

theorem ready_all {s : State} {l : List Instr} (h : l.all (readyIn s) = true) : ∀ i ∈ l, ∃ r g, Ready s i r g :=
  fun i hi => ready_of (List.all_eq_true.mp h i hi)

/-- The run, the group and the fibre of a test machine. -/
def theRun : Run := { grp := 1, fids := [0], start := 0, pkt := 0 }
def theGroup (s : State) : Group := (s.group? 1).getD { gid := 0 }
def theFibre (s : State) : Fibre := (s.fibre? 1 0).getD { fid := 99 }

theorem witness_AddFamilyResult :
    (∀ i ∈ [.iadd (f3 0 10 2 3), .isub (f3 1 10 2 3), .ineg (f3 3 10 2 0), .iabs (f3 1 63 2 0), .imul (f3 4 62 2 3),
      .imulh (f3 2 10 2 4), .imad (f3 5 10 2 3)], ∃ r g, Ready (machine []) i r g) ∧
    addFamily (.iadd (f3 4 10 2 3)) 0 0 0 0 0 0 = none := ⟨ready_all (by decide +kernel), by decide⟩

theorem witness_LogicMoveAndPredicateResults :
    ∀ i ∈ [.imm (f3 3 10 2 3), .log (f3 7 10 2 3), .shf (f3 4 10 2 3), .bfx (f3 1 10 2 3), .bfi (f3 0 10 2 3),
      .bit (f3 2 10 2 0), .idot4 (f3 2 10 2 3), .nop (f3 0 0 0 0), .mov (f3 1 10 2 0), .sel (f3 7 10 2 3), .lea (f3 7 10 2 3),
      .lim { c := false, d := 10, k := 0x1FFFF }, .limh { c := false, d := 10, k := 0 }, .icmp (f3 7 95 2 3),
      .plog (f3 7 0 95 1), .prd (f3 2 10 0 0), .pwr (f3 2 0 2 3)], ∃ r g, Ready (machine []) i r g :=
  ready_all (by decide +kernel)

theorem witness_DeferredAndConvertResults :
    ∀ i ∈ [.idiv (f3 3 10 2 3), .fdiv (f3 1 10 2 4), .fsqrt (f3 3 10 2 0), .sfu (f3 5 10 2 0), .cvt (f3 4 10 2 1),
      .qcvt (f3 0 10 2 127), .pk2 (f3 2 10 2 3), .upk2 (f3 3 10 2 0), .fdot2 (f3 2 10 2 3)], ∃ r g, Ready (machine []) i r g :=
  ready_all (by decide +kernel)

theorem witness_FloatAndCompareResults :
    ∀ i ∈ [.fadd (f3 3 10 2 3), .fsub (f3 0 10 2 3), .fmul (f3 1 10 2 4), .fma (f3 2 10 2 3), .fmin (f3 0 10 2 3),
      .fmax (f3 1 10 2 4), .fsgn (f3 3 10 2 3), .frnd (f3 0 10 2 0), .fcmp (f3 7 95 2 3), .dcmp (f3 0 0 2 4)],
      ∃ r g, Ready (machine []) i r g := ready_all (by decide +kernel)

theorem witness_DeadlineWords :
    ∀ i ∈ [.tick (f3 1 10 0 0), .dlget (f3 7 10 0 0), .dlset (f3 1 0 2 0), .dlrel (f3 7 0 2 0), .dlbud (f3 2 0 2 0),
      .escal { c := false, d := 0, k := 0xFFFF }], ∃ r g, Ready (machine []) i r g := ready_all (by decide +kernel)

/-- The fibre of the test machine in its handler. -/
def inHandler : State := (machine []).modFibre 1 0 fun fb => { fb with ctx := { fb.ctx with inhandler := true } }

/-- The test machine with a microprogram in slot 3, which its region may call. -/
def withMicro : State :=
  (machine []).modPart 0 fun q =>
    { q with store := [{ slot := 3, words := [0x01000000], images := [] }], defaults := { q.defaults with share := 8 } }

/-- Branches that are not taken or go forward fit; one 12 bytes before address 0 does not. -/
theorem witness_ControlTransfer_fits :
    let s := machine []; let r := theRun; let taken (fb : Fibre) := predOf fb 0; let no (fb : Fibre) := predOf fb 95
    jumpFits r (-1) s no ∧ jumpFits r 65535 s (fun fb => !taken fb) ∧ jumpFits r 5 s (fun _ => true) ∧
      ¬jumpFits r (-1) s taken ∧ ¬jumpFits r (-1) s (fun fb => !no fb) ∧ ¬jumpFits r (-1) s fun _ => true := by
  unfold jumpFits
  decide +kernel

theorem witness_ControlTransfer_branches :
    (∀ i ∈ [.br { c := false, d := 95, k := -1 }, .br { c := false, d := 0, k := -1 }, .brn { c := false, d := 0, k := 65535 },
      .brn { c := false, d := 95, k := -1 }, .call { c := false, d := 20, k := 5 }, .call { c := false, d := 20, k := -1 }],
      ∃ r g, Ready (machine []) i r g) ∧
    (∃ r g, Ready (machine [(4, 24)]) (.jmp (f3 0 0 4 0)) r g ∧ strayTargets (f3 0 0 4 0) (machine [(4, 24)]) r = []) ∧
    ∃ r g, Ready (machine [(4, 25)]) (.ret (f3 0 0 4 0)) r g ∧ strayTargets (f3 0 0 4 0) (machine [(4, 25)]) r ≠ [] :=
  ⟨ready_all (by decide +kernel), ⟨_, _, ⟨rfl, rfl, rfl⟩, by decide +kernel⟩, ⟨_, _, ⟨rfl, rfl, rfl⟩, by decide +kernel⟩⟩

theorem witness_ControlTransfer_returns :
    (∃ r g, Ready inHandler (.eret (f3 3 0 4 0)) r g ∧ strayTargets (f3 3 0 4 0) inHandler r = [] ∧
      notInHandler inHandler r = []) ∧
    (∃ r g, Ready (machine []) (.eret (f3 0 0 0 0)) r g ∧ notInHandler (machine []) r ≠ []) ∧
    ∃ r g, Ready (machine [(4, 1)]) (.eret (f3 1 0 4 0)) r g ∧ strayTargets (f3 1 0 4 0) (machine [(4, 1)]) r ≠ [] :=
  ⟨⟨_, _, ⟨rfl, rfl, rfl⟩, by decide +kernel, by decide +kernel⟩, ⟨_, _, ⟨rfl, rfl, rfl⟩, by decide +kernel⟩,
    ⟨_, _, ⟨rfl, rfl, rfl⟩, by decide +kernel⟩⟩

/-- MCALL K=slot. -/
def mcallOf (slot : BitVec 17) : FK := { c := false, d := 8, k := slot }

theorem witness_ControlTransfer_microprograms :
    (∃ r g, Ready withMicro (.mcall (mcallOf 3)) r g ∧ microReady (mcallOf 3) withMicro r g) ∧
    (∃ r g, Ready withMicro (.mcall (mcallOf 4)) r g ∧ microAbsent (mcallOf 4) withMicro r g) :=
  ⟨⟨_, _, ⟨rfl, rfl, rfl⟩, by decide +kernel, by decide +kernel, by decide +kernel⟩,
    ⟨_, _, ⟨rfl, rfl, rfl⟩, by decide +kernel, .inl (by decide +kernel)⟩⟩

theorem witness_RunEndWords :
    ∀ i ∈ [.fend (f3 0 0 96 0), .gend (f3 0 0 2 0), .trap { c := false, d := 0, k := 0xFFFF },
      .sysc { c := false, d := 8, k := 3 }, .yield (f3 1 0 0 0)], ∃ r g, Ready (machine []) i r g :=
  ready_all (by decide +kernel)

/-- The test machine's fibre with a microprogram to go on with. -/
def afterMcall : State := withMicro.modFibre 1 0 fun fb => { fb with after := { fb.after with mcall := some (3, 8) } }

theorem witness_TrailEndsRun :
    (∃ r g, Ready (machine []) (.trail (f3 3 10 11 63)) r g ∧ ((machine []).lead r).after.mcall = none ∧ g.exit = none ∧
      (∀ fb ∈ (machine []).members r, plainEnd fb) ∧ ∀ k ∈ r.fids, r.fids.count k = 1) ∧
    ∃ r g, Ready afterMcall (.trail (f3 0 0 0 0)) r g ∧ (afterMcall.lead r).after.mcall = some (3, 8) :=
  ⟨⟨_, _, ⟨rfl, rfl, rfl⟩, by decide +kernel, by decide +kernel, by unfold plainEnd; decide +kernel, by decide +kernel⟩,
    ⟨_, _, ⟨rfl, rfl, rfl⟩, by decide +kernel⟩⟩

/-! ## Memory -/

/-- The checks of a word of memory pass in a state for its one member. -/
def passes (s : State) (i : Instr) (spec : Env → AccSpec) (req : Env → Fibre → List Req) : Prop :=
  ∃ r g, Ready s i r g ∧ s.check r (spec (s.env r)) ((s.members r).flatMap (req (s.env r))) = .ok

/-- They fail with an access fault. -/
def faults (s : State) (i : Instr) (spec : Env → AccSpec) (req : Env → Fibre → List Req) : Prop :=
  ∃ r g t, Ready s i r g ∧ s.check r (spec (s.env r)) ((s.members r).flatMap (req (s.env r))) = .fault t ∧
    (t.kind = 9 ∨ t.kind = 10)

/-- Register 4 holds an address in the page that the test machine maps, register 6 the length of two lines. -/
def pointing : State := machine [(4, 0x100), (6, 0x200)]

theorem witness_GlobalMemoryWords_loads_and_stores :
    passes pointing (.ld (f3 6 8 4 96)) (asLoad 16 8) (addrAB (f3 6 8 4 96)) ∧
    passes pointing (.lda (f3 3 8 4 96)) (asLoad 4 8) (addrAB (f3 3 8 4 96)) ∧
    passes pointing (.st (f3 4 8 4 96)) (fun _ => asStore 16) (addrA (f3 4 8 4 96) true) ∧
    passes pointing (.stl (f3 0 8 4 96)) (fun _ => asStore 4) (addrA (f3 0 8 4 96) true) ∧
    faults pointing (.ld (f3 6 8 4 97)) (asLoad 16 8) (addrAB (f3 6 8 4 97)) := by
  refine ⟨?_, ?_, ?_, ?_, ?_⟩
  · exact ⟨_, _, ⟨rfl, rfl, rfl⟩, by decide +kernel⟩
  · exact ⟨_, _, ⟨rfl, rfl, rfl⟩, by decide +kernel⟩
  · exact ⟨_, _, ⟨rfl, rfl, rfl⟩, by decide +kernel⟩
  · exact ⟨_, _, ⟨rfl, rfl, rfl⟩, by decide +kernel⟩
  · exact ⟨_, _, { kind := 9, cause := 1, failing := 1, fva := 0x101 }, ⟨rfl, rfl, rfl⟩, by decide +kernel, .inl rfl⟩

theorem witness_GlobalMemoryWords_atomics :
    passes pointing (.atom (f3 7 8 4 96)) (asAtomic 4 true 8) (addrAB (f3 7 8 4 96)) ∧
    passes pointing (.redm (f3 0 8 4 96)) (asAtomic 4 false 8) (addrAB (f3 0 8 4 96)) ∧
    passes pointing (.atox (f3 1 8 4 96)) (asAtomic 8 true 8) (addrAB (f3 1 8 4 96)) ∧
    passes pointing (.cas (f3 1 8 4 96)) (asAtomic 8 true 8) (addrAB (f3 1 8 4 96)) := by
  refine ⟨?_, ?_, ?_, ?_⟩ <;> exact ⟨_, _, ⟨rfl, rfl, rfl⟩, by decide +kernel⟩

theorem witness_GlobalMemoryWords_lines :
    passes pointing (.locate (f3 0 8 4 0)) (fun _ => { size := 1, acc := .read }) (addrA (f3 0 8 4 0) false) ∧
    passes pointing (.rsrev (f3 0 6 4 96)) (fun _ => { size := 1, acc := .revise, sets := true })
      (fun e fb => rangeReqs fb.fid (e.op64 fb 4) (e.regAt fb 6 0).toNat (e.op32 fb 96)) ∧
    passes pointing (.cache (f3 0 6 4 0)) (fun _ => { size := 1, acc := .any })
      (fun e fb => rangeReqs fb.fid (e.op64 fb 4) (e.regAt fb 6 0).toNat 0) ∧
    ∃ r g, Ready pointing (.cache (f3 1 6 4 0)) r g ∧
      pointing.prefetchMisses g ((pointing.members r).flatMap fun fb =>
        rangeReqs fb.fid ((pointing.env r).op64 fb 4) ((pointing.env r).regAt fb 6 0).toNat 0) = [] := by
  refine ⟨?_, ?_, ?_, ?_⟩ <;> exact ⟨_, _, ⟨rfl, rfl, rfl⟩, by decide +kernel⟩

/-- A request of 16 bytes at the end of a sector of the test page. -/
def request : Req := { fid := 0, va := 0x130 }

theorem witness_MemoryBytes :
    Plain pointing fetchGroup (asStore 16) request ∧ Plain pointing fetchGroup { size := 16, acc := .read } request ∧
    NoEmptyCopy pointing ∧ pointing.errors = [] ∧ Uncached pointing 1 ∧ Calm pointing 1 ∧
    (pointing.transReq fetchGroup .write request).paOf = 0x130 := by
  refine ⟨?_, ?_, ?_, rfl, ?_, ⟨fun _ _ => .inr rfl, rfl, rfl, ?_⟩, ?_⟩
  · unfold Plain; decide +kernel
  · unfold Plain; decide +kernel
  · unfold NoEmptyCopy; decide +kernel
  · unfold Uncached; decide +kernel
  · decide +kernel
  · decide +kernel

/-! ## The scratchpad, barriers and waiting words -/

/-- A barrier object of n arrivals a phase, initialised, whose phase has a arrivals and l of e bytes. -/
def bar (n a l e : Nat) : Bar :=
  { phase := 7, count := n, arrived := a, ebytes := e, landed := l, rcount := n, setter := 0xC000, rbytes := 0, flags := 1 }

/-- The test machine's group with a scratchpad window of 64 KiB whose bytes from 4096 on are four barrier objects; the
object at 4096 admits one arrival, line 2 is full. -/
def padded (regs : Sparse Word) : State :=
  let s := (machine regs).modGroup 1 fun g =>
    { g with spl := 65536, kern := { g.kern with teams := 2, spbytes := 4096, barriers := 4 } }
  { s with
    mem := mwle (mwle s.mem (poolBase 0 + 256) 0x1122334455667788 8) (poolBase 0 + 4096) (bar 1 0 0 0).bytes 32
    full := [(poolBase 0 / 128 + 2, ())] }

/-- No page is being moved, and every group stands on a core of the package. -/
theorem still_of {s : State} (h : s.remaps = []) (hg : ∀ x ∈ s.groups, x.core < 1024) : OffColumns s :=
  ⟨fun _ hm => (nomatch (h ▸ hm : _ ∈ ([] : List Remap))), hg⟩

theorem witness_ScratchpadStores_still : OffColumns (padded [(4, 4080)]) := still_of rfl (by decide +kernel)

theorem witness_ScratchpadStores_sts :
    let s := padded [(4, 4080)]
    ∃ r g, Ready s (.sts (f3 4 8 4 97)) r g ∧ ∀ fb ∈ s.members r,
      let a := (s.env r).op32 fb 4
      inWindow g fb a 16 ∧ a.toNat % 16 = 0 ∧ offBarriers g a.toNat 16 ∧ ((s.env r).op32 fb 97).toNat < 2 :=
  ⟨_, _, ⟨rfl, rfl, rfl⟩, by unfold inWindow offBarriers; decide +kernel⟩

theorem witness_ScratchpadStores_femk :
    let s := padded [(4, 3840), (5, 256)]
    ∃ r g, Ready s (.femk (f3 1 0 4 5)) r g ∧ ∀ fb ∈ s.members r,
      let a := (s.env r).op32 fb 4
      let n := ((s.env r).op32 fb 5).toNat
      inWindow g fb a (max n 1) ∧ a.toNat % 128 = 0 ∧ n % 128 = 0 ∧ (n = 0 ∨ offBarriers g a.toNat n) :=
  ⟨_, _, ⟨rfl, rfl, rfl⟩, by unfold inWindow offBarriers; decide +kernel⟩

theorem witness_BarrierWordsAndObjects_binit :
    let s := padded [(4, 4192), (5, 0xFFFF)]
    ∃ r g, Ready s (.binit (f3 0 8 4 5)) r g ∧
      inWindow g (s.lead r) ((s.env r).op32 (s.lead r) 4) 32 ∧ atBarrier g ((s.env r).op32 (s.lead r) 4) ∧
      ((s.env r).op32 (s.lead r) 5).toNat < 2 ^ 16 ∧ ∀ fb ∈ g.fibres, fb.wait = none ∧ fb.saved = none :=
  ⟨_, _, ⟨rfl, rfl, rfl⟩, by unfold inWindow; decide +kernel, ⟨3, by decide +kernel, by decide +kernel⟩,
    by decide +kernel, by decide +kernel⟩

theorem witness_BarrierWordsAndObjects_barv :
    let s := padded [(4, 4096), (5, 1)]
    s.errors = [] ∧ ∃ r g, Ready s (.barv (f3 0 8 4 5)) r g ∧ ∀ fb ∈ s.members r,
      inWindow g fb ((s.env r).op32 fb 4) 32 ∧ atBarrier g ((s.env r).op32 fb 4) :=
  ⟨rfl, _, _, ⟨rfl, rfl, rfl⟩, by unfold inWindow atBarrier; decide +kernel⟩

/-- The same with three bad bits in the object's word. -/
def spoiled : State := { padded [(4, 4096), (5, 1)] with errors := [((poolBase 0 + 4096) / 32, 7)] }

theorem witness_BarrierWordsAndObjects_broken :
    OffColumns spoiled ∧ Ready spoiled (.barv (f3 0 8 4 5)) theRun (theGroup spoiled) ∧
      ∀ fb ∈ spoiled.members theRun, brokenAt spoiled (theGroup spoiled) ((spoiled.env theRun).op32 fb 4) := by
  refine ⟨still_of rfl (by decide +kernel), ?_⟩
  unfold Ready brokenAt
  decide +kernel

/-- An object on the point of completing, and one that is not. -/
theorem witness_BarrierWordsAndObjects_completion :
    (let b := bar 2 2 3 3
     b.rcount ≠ 0xFFFF ∧ b.count ≠ 0 ∧ b.arrived = b.count ∧ b.ebytes ≤ b.landed) ∧
    let b := bar 2 2 3 4
    ¬((b.rcount = 0xFFFF ∨ (b.count ≠ 0 ∧ b.arrived = b.count)) ∧ b.ebytes ≤ b.landed) := by decide +kernel

theorem witness_WaitingWordsStart_plain :
    ∀ i ∈ [.sleep (f3 7 0 0 0), .fork (f3 0 8 4 6), .fjoin (f3 1 8 4 0), .fence (f3 1 8 116 0), .qemit (f3 1 8 4 6),
      .qrecv (f3 1 8 4 0), .xshf (f3 1 8 4 6), .xpsh (f3 1 8 4 6), .xrdi (f3 1 8 4 6), .xrdf (f3 1 8 4 6),
      .xrmn (f3 1 8 4 6), .xrmx (f3 1 8 4 6), .xscn (f3 1 8 4 6), .xvot (f3 1 8 4 6), .xffs (f3 1 8 4 6),
      .vfpsh (f3 1 0 4 6), .vfpop (f3 1 8 0 6), .pgate (f3 1 8 4 6)], ∃ r g, Ready (machine []) i r g :=
  ready_all (by decide +kernel)

theorem witness_WaitingWordsStart_scratchpad :
    (∃ r g, Ready (padded [(4, 256), (5, 4)]) (.lds (f3 1 8 4 5)) r g ∧
      ldsCheck (f3 1 8 4 5) false (padded [(4, 256), (5, 4)]) r = .ok) ∧
    (∃ r g, Ready (padded [(4, 256), (5, 4)]) (.ldsc (f3 1 8 4 5)) r g ∧
      ldsCheck (f3 1 8 4 5) true (padded [(4, 256), (5, 4)]) r = .ok) ∧
    (∃ r g, Ready (padded [(4, 4192), (5, 4)]) (.bwait (f3 1 8 4 5)) r g ∧
      barCheck (f3 1 8 4 5) (padded [(4, 4192), (5, 4)]) r = .ok) ∧
    ∃ r g, Ready (padded [(4, 4096), (5, 1)]) (.baw (f3 1 8 4 5)) r g ∧
      barCheck (f3 1 8 4 5) (padded [(4, 4096), (5, 1)]) r = .ok := by
  refine ⟨?_, ?_, ?_, ?_⟩ <;> exact ⟨_, _, ⟨rfl, rfl, rfl⟩, by decide +kernel⟩

/-- The test machine in a privileged group. -/
def privileged : State := pointing.modGroup 1 fun g => { g with pol := { g.pol with privileged := true } }

theorem witness_WaitingWordsStart_memory :
    (∃ r g, Ready privileged (.csld (f3 1 8 4 6)) r g ∧ csldCheck (f3 1 8 4 6) privileged r = .ok) ∧
    (∃ r g, Ready pointing (.migr (f3 0 8 4 96)) r g ∧
      pointing.check r { size := 1, acc := .any } ((pointing.members r).flatMap fun fb =>
        if (pointing.env r).op32 fb 96 = 0 then [{ fid := fb.fid, va := (pointing.env r).op64 fb 4 }] else []) = .ok) ∧
    ∃ r g, Ready pointing (.ldwt (f3 1 8 4 6)) r g ∧
      pointing.check r { size := 4, acc := .read, watchRead := true, locate := true }
        ((pointing.members r).flatMap (addrA (f3 1 8 4 6) false (pointing.env r))) = .ok := by
  refine ⟨?_, ?_, ?_⟩ <;> exact ⟨_, _, ⟨rfl, rfl, rfl⟩, by decide +kernel⟩

/-- Both sides of the escalation threshold (R105). -/
theorem witness_FinishWritesStatus : (∀ k ∈ [sleepKind, fenceWait], k.cls < 16 ∧ k.fence = decide (k.cls = 5)) ∧
    (let n : Nat := 15 + 1; n < 17 ∧ ¬n < 16) := by decide +kernel

/-- A group of a team whose fibre 1 has ended once since generation 3. -/
def teamed : State :=
  (machine [(4, 0x30001), (6, 9)]).modGroup 1 fun g =>
    { g with kern := { g.kern with teams := 1 }, fibres := g.fibres ++ [{ fid := 1, gen := 4, exitv := 77 }] }

theorem witness_SleepJoinAndFork :
    let r := theRun; let g := theGroup teamed; let fb := theFibre teamed
    Alone teamed r g fb ∧ Ready teamed (.sleep (f3 0 0 0 0)) r g ∧ fb.onCore g = teamed.cur ∧ Ready teamed (.fjoin (f3 1 8 4 0)) r g ∧
      (let h := ((teamed.env r).op32 fb 4).toNat
       h / 1024 % 64 = 0 ∧ h % 1024 < 32 * g.kern.teams ∧ (g.fibre (h % 1024)).gen.toNat = (h / 2 ^ 16 + 1) % 2 ^ 16) ∧
      Ready teamed (.fork (f3 1 8 4 6)) r g ∧ g.freeSlot (fb.fid / 32) = some 1 := by
  unfold Ready Alone
  decide +kernel

theorem witness_WaitsEndingAtIssue_scratchpad :
    let s := padded [(4, 256), (5, 4)]; let r := theRun; let g := theGroup s; let fb := theFibre s
    Alone s r g fb ∧ s.errors = [] ∧ Runs s g ∧ fb.held = none ∧ Ready s (.lds (f3 1 8 4 5)) r g ∧
      ldsCheck (f3 1 8 4 5) false s r = .ok ∧ lineFull s (poolOf g ((s.env r).op32 fb 4) / 128) = true ∧
      sget 0 s.fired (firedLine (poolOf g ((s.env r).op32 fb 4))) ≤ 2 ∧
      Ready s (.ldsc (f3 1 8 4 5)) r g ∧ ldsCheck (f3 1 8 4 5) true s r = .ok := by
  unfold Ready Alone Runs
  decide +kernel

theorem witness_WaitsEndingAtIssue_barriers :
    let s := padded [(4, 4096), (5, 6), (6, 1)]; let r := theRun; let g := theGroup s; let fb := theFibre s
    let o := readBar s.mem (poolOf g ((s.env r).op32 fb 4))
    Alone s r g fb ∧ Ready s (.bwait (f3 1 8 4 5)) r g ∧ barCheck (f3 1 8 4 5) s r = .ok ∧ o.flags % 2 = 1 ∧
      sget 0 s.fired (firedBar (poolOf g ((s.env r).op32 fb 4))) ≤ 2 ∧
      ((o.phase : Int) - ((s.env r).op32 fb 5).toNat - 1) % 2 ^ 31 < 2 ^ 30 ∧
      Ready s (.baw (f3 1 8 4 6)) r g ∧ barCheck (f3 1 8 4 6) s r = .ok ∧
      (let new : Bar := { bar 1 0 0 0 with phase := 8 }
       o.arrive fb.fid (1 / 2 ^ 16) (1 % 2 ^ 16) = .ok (new, 7) ∧
         readBar (mwle s.mem (poolOf g ((s.env r).op32 fb 4)) new.bytes 32) (poolOf g ((s.env r).op32 fb 4)) = new) := by
  unfold Ready Alone
  decide +kernel

/-- Two lanes of a team on core 0, each naming both. -/
def lanes : State :=
  let regs : Sparse Word := [(4, 5), (6, 3), (8, 1)]
  let s := (machine regs).modGroup 1 fun g =>
    { g with kern := { g.kern with teams := 1 }, fibres := g.fibres ++
      [{ fid := 1, st := .issuing, ctx := { regs := regs }, snap := { regs := regs } }] }
  s.modCore 0 fun c => { c with run := some { grp := 1, fids := [0, 1], start := 0, pkt := 0 } }

theorem witness_WaitsEndingAtIssue_lanes :
    let r : Run := { grp := 1, fids := [0, 1], start := 0, pkt := 0 }
    (∀ i ∈ crossLane (f3 1 8 4 6), Ready lanes i r (theGroup lanes)) ∧ WholeBundle lanes r (theGroup lanes) ∧
      ∀ k ∈ r.fids, (lanes.env r).op32 ((theGroup lanes).fibre k) 6 = maskOf r.fids := by
  refine ⟨by unfold Ready; decide +kernel, ⟨by decide, by decide, by decide +kernel, fun k hk => ?_, by decide +kernel⟩,
    by decide +kernel⟩
  obtain rfl | rfl : k = 0 ∨ k = 1 := by simpa using hk
  · exact ⟨rfl, (theGroup lanes).fibre 0, by decide +kernel⟩
  · exact ⟨rfl, (theGroup lanes).fibre 1, by decide +kernel⟩

theorem witness_WaitsEndingAtIssue_fence_and_watch :
    let s := machine [(4, 0x100), (6, 9)]; let r := theRun; let g := theGroup s; let fb := theFibre s
    let q : Req := { fid := fb.fid, va := (s.env r).op64 fb 4 }
    let pa := (s.transReq g .read q).paOf
    Alone s r g fb ∧ s.errors = [] ∧ Ready s (.fence (f3 1 9 116 0)) r g ∧ (∀ c ∈ s.copies, c.dirty = 0) ∧
      (∀ n ∈ s.notices, n.dirty = 0) ∧ s.peers = [] ∧
      (s.fillTlb s.cur g.vf (pageOf q.va.toNat)).transReq g .read q = s.transReq g .read q ∧ Ready s (.ldwt (f3 1 8 4 6)) r g ∧ fb.onCore g = s.cur ∧
      s.check r { size := 4, acc := .read, watchRead := true, locate := true } [q] = .ok ∧ s.lines = [] ∧
      Uncached s (pa / 256) ∧ s.aperture? g.part pa = none ∧ mle s.mem pa 4 ≠ ((s.env r).op32 fb 6).toNat := by
  unfold Ready Alone Uncached
  decide +kernel

/-- A group with FP32 tiles, a reservation of 32 dense f16 rows in entry 3, generation 7, a loaded B tile in slot 0 and,
in entry 4, a reservation of 2:4 rows. -/
def multiplying (regs : Sparse Word) : State :=
  (machine regs).modGroup 1 fun g =>
    { g with
      kern := { g.kern with acc32 := 2, opbytes := 32768, teams := 1 }
      res := [(3, { base := 512, rows := 32, rowbytes := 256, kind := 2, valid := true, gen := 7 }),
        (4, { base := 16384, rows := 32, rowbytes := 256, kind := 2, cmp := true, valid := true, gen := 1 })]
      btiles := [{ slot := 0, seq := 1, ready := true, addr := 0, fmt := 0x10, desc := 0 }] }

theorem witness_MatrixWords :
    let s := multiplying [(4, 0x80000703), (6, 0), (12, 0)]; let r := theRun; let g := theGroup s; let fb := theFibre s
    let e := s.env r
    let tile := g.tileAt 0 (g.slotSeq 0)
    Alone s r g fb ∧ Ready s (.mma (f3 1 12 4 6)) r g ∧
      mmaDetail g false (e.regAt fb 12 0) (e.op32 fb 4) (e.op32 fb 6) (fb.fid % 32) = 0 ∧
      g.handle? (e.op32 fb 4) = some 3 ∧ tile.ready = true ∧ tile.fault = none ∧
      g.obBad = [] ∧ g.accBad = [] ∧ (∀ q ∈ g.seqs, q.tile ≠ (e.regAt fb 12 0).toNat % 16) ∧
      Ready s (.gathr (f3 1 12 4 6)) r g ∧ gathrCheck (f3 1 12 4 6) s r = .ok := by
  unfold Ready Alone
  decide +kernel

theorem witness_MatrixWords_mmas :
    let s := multiplying [(4, 0x80000104), (6, 0), (12, 0x40)]; let r := theRun; let g := theGroup s; let fb := theFibre s
    let e := s.env r
    let tile := g.tileAt 0 (g.slotSeq 0)
    Alone s r g fb ∧ Ready s (.mmas (f3 1 12 4 6)) r g ∧ mmasCheck (f3 1 12 4 6) s r = .ok ∧
      mmaDetail g true (e.regAt fb 12 0) (e.op32 fb 4) (e.op32 fb 6) (fb.fid % 32) = 0 ∧
      g.handle? (e.op32 fb 4) = some 4 ∧ tile.ready = true ∧ tile.fault = none ∧ g.obBad = [] ∧ g.accBad = [] ∧
      (∀ q ∈ g.seqs, q.tile ≠ (e.regAt fb 12 0).toNat % 16) := by
  unfold Ready Alone
  decide +kernel

theorem witness_MatrixWords_mtile :
    ∃ r g, Ready pointing (.mtile (f3 1 8 4 6)) r g ∧
      (pointing.members r).filter (pointing.env r).leads = [pointing.lead r] ∧
      pointing.check r { size := 64, acc := .read }
        [{ fid := (pointing.lead r).fid, va := leadPair pointing r 4 }] = .ok :=
  ⟨theRun, theGroup pointing, by unfold Ready; decide +kernel⟩

theorem witness_OperandBufferRules :
    (∀ i ∈ [.obres (f3 0 8 4 6), .obrel (f3 0 0 4 0), .bbld (f3 0 6 4 5)], ∃ r g, Ready pointing i r g) ∧
    bbldCheck (f3 0 6 4 5) pointing theRun = .ok ∧ Disjoint fetchGroup :=
  ⟨ready_all (by decide +kernel), by decide +kernel, fun _ _ _ hi => absurd (show noReservation.valid = true from hi) (by decide)⟩

theorem witness_AccumulatorWords :
    ∀ i ∈ [.accz (f3 0 0 4 0), .accrd (f3 3 8 4 6), .accwr (f3 2 8 4 6), .compr (f3 1 8 4 6), .mtq (f3 0 8 4 0),
      .mtq (f3 1 0 4 6)], ∃ r g, Ready (machine []) i r g := ready_all (by decide +kernel)

/-- A group with an idle channel 0 and a running channel 1. -/
def channelled (regs : Sparse Word) : State :=
  (machine regs).modGroup 1 fun g => { g with chans := [{ n := 0 }, { n := 1, st := 1 }] }

theorem witness_ChannelStartWords_started :
    let s := channelled [(4, 0x40)]; let r := theRun; let g := theGroup s
    Ready s (.chgo (f3 0 8 4 96)) r g ∧ channel g (leadOp s r 96) = some { n := 0 } ∧ ¬busy { n := 0 } ∧
      ¬pointerBad (leadPair s r 4) ∧ channel g (leadOp s r 97) = some { n := 1, st := 1 } ∧ busy { n := 1, st := 1 } ∧
      channel g (leadOp s r 98) = none ∧ pointerBad 0 ∧ Ready s (.chst (f3 2 8 96 0)) r g ∧
      Ready s (.chstp (f3 0 8 97 0)) r g ∧ Ready s (.cprom (f3 0 8 96 0)) r g := by
  unfold Ready busy pointerBad
  decide +kernel

/-- Registers that hold a fill of four bytes of the scratchpad as a record that CPY accepts. -/
def record : State :=
  (channelled [(0, 0x819), (1, 4), (6, 0x100), (8, 5)]).modGroup 1 fun g => { g with spl := 65536 }

theorem witness_ChannelStartWords_cpy :
    let r := theRun; let g := theGroup record
    Ready record (.cpy (f3 0 20 0 96)) r g ∧
      (let rec_ := Record.of (BitVec.ofNat 512 (stored (record.env r) (record.lead r) 0 16))
       ¬(rec_.own = false ∨ rec_.next ≠ 0 ∨ record.recordCause g rec_ ≠ none)) ∧
      (let rec_ := Record.of (BitVec.ofNat 512 (stored (record.env r) (record.lead r) 16 16))
       Ready record (.cpy (f3 0 20 16 96)) r g ∧ rec_.own = false) := by
  unfold Ready
  decide +kernel

theorem witness_SpecialTableAndDebugWords :
    ∀ i ∈ [.movs (f3 0 8 122 0), .movt (f3 0 0 97 4), .fmts (f3 0 0 4 6), .dbg (f3 0 0 4 6), .dbg (f3 1 8 4 0),
      .dbg (f3 2 8 4 0)], (∃ r g, Ready (machine []) i r g ∧ g.pol.privileged = false) ∧
        ∃ r g, Ready privileged i r g ∧ g.pol.privileged = true := by
  have h : ∀ i ∈ [.movs (f3 0 8 122 0), .movt (f3 0 0 97 4), .fmts (f3 0 0 4 6), .dbg (f3 0 0 4 6), .dbg (f3 1 8 4 0),
      .dbg (f3 2 8 4 0)], Ready (machine []) i theRun (theGroup (machine [])) ∧ Ready privileged i theRun (theGroup privileged) := by
    unfold Ready
    decide +kernel
  exact fun i hi => ⟨⟨_, _, (h i hi).1, by decide +kernel⟩, _, _, (h i hi).2, by decide +kernel⟩

/-! ## The step, results, traps and checks -/

theorem witness_DecodeEncode : (Instr.iadd (f3 3 10 2 4)).isWord = true ∧ (Instr.iadd (f3 3 10 2 4)).wf = true := by
  decide +kernel

theorem witness_EncodeDecode :
    decode 0x0F20C0E7 = .ok (.idiv { c := false, x := 1, d := 3, a := 1, b := 103 }) := by decide +kernel

/-- A state whose next step issues two chained words on core 0: LIM to la0 and FADD. -/
def chained : State :=
  let s := State.reset.withFetchWord 32 0
  { s with mem := mwle s.mem 0 (0xA0800005 + 2 ^ 32 * 0x30028183 + 2 ^ 64 * 0x01000000) 12 }

theorem witness_StepRunsDecodedWords :
    (let s := State.reset.withFetchWord 32 0x20140005
     let o := issuing s 0 []
     AtPacket s 0 [] theRun fetchGroup [0x20140005, 0x01000000, 0] ∧ PacketLegal o fetchGroup theRun [0x20140005, 0x01000000, 0] ∧
      Unpoisoned o fetchGroup theRun ∧ chainGroup ([0x20140005, 0x01000000, 0].drop (theRun.idx % 3)) = [0x20140005] ∧
      (decodeFields 0x20140005).any fun i => i.cause (theRun.mc.map (·.2)) fetchGroup.kern.window = none) ∧
    let o := issuing chained 0 []
    let l : List Word := [0xA0800005, 0x30028183]
    AtPacket chained 0 [] theRun fetchGroup (l ++ [0x01000000]) ∧ PacketLegal o fetchGroup theRun (l ++ [0x01000000]) ∧
      Unpoisoned o fetchGroup theRun ∧ chainGroup ((l ++ [0x01000000]).drop (theRun.idx % 3)) = l ∧
      (opened o fetchGroup theRun l).earlyFault theRun l = none := by
  unfold AtPacket PacketLegal Unpoisoned
  decide +kernel

theorem witness_StepRunsDecodedWords_inTurn :
    ∃ u, inTurn [0xA0800005, 0x30028183] (opened (issuing chained 0 []) fetchGroup theRun [0xA0800005, 0x30028183]) u :=
  ⟨_, _, _, rfl, rfl, by decide +kernel, _, _, rfl, rfl, by decide +kernel, rfl⟩

theorem witness_ReservedOpcodesRefused :
    let s := State.reset.withFetchWord 32 0x7F000000
    let o := issuing s 0 []
    AtPacket s 0 [] theRun fetchGroup [0x7F000000, 0x01000000, 0] ∧ PacketLegal o fetchGroup theRun [0x7F000000, 0x01000000, 0] ∧
      Unpoisoned o fetchGroup theRun ∧ decode 0x7F000000 = .error .reservedOpcode ∧
      chainGroup ([0x7F000000, 0x01000000, 0].drop (theRun.idx % 3)) = [] ++ 0x7F000000 :: [] := by
  unfold AtPacket PacketLegal Unpoisoned
  decide +kernel

theorem witness_IllegalInstructionsTrap_packets :
    let s := State.reset.withFetchWord 32 0x81000000
    AtPacket s 0 [] theRun fetchGroup [0x81000000, 0x01000000, 0] ∧ isTrail 0x81000000 = true ∧
      isChained 0x81000000 = true := by
  unfold AtPacket
  decide +kernel

theorem witness_IllegalInstructionsTrap_late :
    let s := (State.reset.withFetchWord 32 0x01000000).modCore 0 fun c => { c with run := some { theRun with count := 24 } }
    AtPacket s 0 [] { theRun with count := 24 } fetchGroup [0x01000000, 0x01000000, 0] ∧ isTrail 0x01000000 = true ∧
      isChained 0x01000000 = false ∧ isChained 0 = false := by
  unfold AtPacket
  decide +kernel

theorem witness_IllegalInstructionsTrap_words :
    (Instr.shf (f3 5 0 0 0)).isWord = true ∧ (machine []).run? = some theRun ∧
      (Instr.shf (f3 5 0 0 0)).cause ((machine []).env theRun).mp ((machine []).env theRun).window = some 2 := by
  decide +kernel

theorem witness_ResultWritesLatchAndRegisters : Pipe.A ≠ .none ∧ 2 ^ 64 - 1 < 2 ^ (32 * 2) := by decide

theorem witness_DeferredResultsLand :
    (Pipe.M ≠ .none ∧ 4 ≤ 4 ∧ 2 ^ 128 - 1 < 2 ^ (32 * 4) ∧ ¬64 ≤ (63 : BitVec 7).toNat ∧ 64 ≤ (64 : BitVec 7).toNat) ∧
      (theFibre (machine [])).board.length ≤ 6 := by decide +kernel

theorem witness_ReadsWithinChainGroup : (95 : Nat) ≠ 0 ∧ 95 < 96 := by decide

/-- The test machine with a handler at 1200, which its partition gives every region. -/
def handled (s : State) : State := s.modPart 0 fun q => { q with defaults := { q.defaults with handler := 1200 } }

theorem witness_FibreTrapEntry :
    let s := handled (machine [])
    s.group? 1 = some (theGroup s) ∧ (theGroup s).fibre? 0 = some (theFibre s) ∧ (theFibre s).ctx.inhandler = false ∧
      handlerFits (s.handlerOf (theGroup s).part (theGroup s).region) ∧ (15 : Nat) < 16 ∧
      (machine []).handlerOf 0 fetchRegion = 0 ∧ (theFibre inHandler).ctx.inhandler = true := by
  unfold handlerFits
  decide +kernel

theorem witness_SynchronousFaults :
    let s := handled (machine [])
    s.group? theRun.grp = some (theGroup s) ∧ theRun.fids.Nodup ∧ ({ kind := 2 } : Trap).late = false ∧
      handlerFits (s.handlerOf (theGroup s).part (theGroup s).region) ∧ (theFibre s).ctx.inhandler = false := by
  unfold handlerFits
  decide +kernel

theorem witness_ChecksPass :
    let s := pointing; let g := theGroup s
    s.group? theRun.grp = some g ∧ Undisturbed s g ∧ Reachable s g (asStore 16) request ∧
      Reachable s g { size := 1, acc := .read, locate := true } { fid := 0, va := 0xFFFF } := by
  have hp : (pointing.part? 0).all (fun p => p.apertures == []) = true := by decide +kernel
  refine ⟨by decide +kernel, ⟨by decide +kernel, by decide +kernel, by decide +kernel, by decide +kernel,
      by decide +kernel, fun p h => ?_⟩,
    ⟨by decide +kernel, by decide +kernel, by decide +kernel, fun _ => by decide +kernel, _, rfl, by decide +kernel⟩,
    ⟨by decide +kernel, by decide +kernel, by decide +kernel, fun _ => by decide +kernel, _, rfl, by decide +kernel⟩⟩
  have : pointing.part? 0 = some p := h
  simpa [this] using hp

/-- A misaligned address, one at the end of the address space, and one past it. -/
theorem witness_AddressFaults :
    let bad (q : Req) : Bool := q.va.toNat % 4 ≠ 0 || 2 ^ 60 ≤ q.va.toNat
    ([{ fid := 0, va := 0xFFFFFFFFFFFFFFC }, { fid := 1, va := 0x1000000000000000 }].filter bad).head? =
      some { fid := 1, va := 0x1000000000000000 } ∧
    ([{ fid := 2, va := 0x102 }].filter bad).head? = some { fid := 2, va := 0x102 } := by decide +kernel

/-! ## Events of fibres -/

/-- The test machine at tick 100 with nothing running, whose group has one team, of the fibre given and a free one. -/
def settled (u : Fibre) : State :=
  let s := ((machine []).modCore 0 fun c => { c with run := none }).modGroup 1 fun g =>
    { g with kern := { g.kern with teams := 1 }, fibres := [u, { fid := 1, gen := 8, exitv := 77 }] }
  { s with tick := 100 }

/-- Fibre 0 waiting in a word whose handle, where it has one, is a. -/
def waiter (w : Word) (a : DWord) : Fibre :=
  { fid := 0, st := .waiting, wait := some { word := w, pkt := 24, deadline := 50, issued := 1, a := a, mp := none } }

/-- The word that fibre 0 waits in. -/
def waitOf (s : State) : Wait := ((theFibre s).wait).getD { word := 0, pkt := 0, deadline := 0, issued := 0, mp := none }

/-- The hypotheses of an FJOIN on fibre 1, whose deadline has passed; the life that it names has just ended, or still lasts. -/
def joins (h : DWord) (ended lasts : Bool) : Prop :=
  let s := settled (waiter 0x57000000 h); let g := theGroup s; let fb := theFibre s; let w := waitOf s
  WaitsAlone s g fb w ∧ opcode w = 0x57 ∧ handleLegal g fb w ∧ w.resumed = false ∧ belowThreshold g fb w ∧
    fb.place = .home ∧ w.deadline.getLsbD 63 = false ∧ w.deadline.toNat ≤ (s.tickAt (fb.onCore g)).toNat ∧
    decide ((g.fibre (handleSlot w)).gen.toNat = (handleGen w + 1) % 2 ^ 16) = ended ∧
    decide ((g.fibre (handleSlot w)).gen.toNat = handleGen w) = lasts

theorem witness_WaitsEnd_sleep :
    let s := settled (waiter 0x4D000000 0); let w := waitOf s
    WaitsAlone s (theGroup s) (theFibre s) w ∧ opcode w = 0x4D ∧ w.deadline.getLsbD 63 = false ∧
      w.deadline.toNat ≤ (s.tickAt ((theFibre s).onCore (theGroup s))).toNat := by
  unfold WaitsAlone Runs
  decide +kernel

theorem witness_WaitsEnd_join :
    joins 0x70001 true false ∧ joins 0x60001 false false ∧ joins 0x80001 false true := by
  refine ⟨?_, ?_, ?_⟩ <;>
    exact ⟨by unfold WaitsAlone Runs; decide +kernel, by decide +kernel, by unfold handleLegal; decide +kernel,
      by decide +kernel, by unfold belowThreshold; decide +kernel, by decide +kernel⟩

theorem witness_FibreEvents_landing :
    let s := settled { fid := 0, board := [{ reg := 3, n := 1, value := 9 }] }
    s.group? 1 = some (theGroup s) ∧ (theGroup s).fibre? 0 = some (theFibre s) ∧
      (theFibre s).board = { reg := 3, n := 1, value := 9 } :: [] ∧ s.stopped (theGroup s).part = false := by decide +kernel

/-- A trap that is due at the next packet. -/
def due : Trap := { kind := 3, detail := 5 }

theorem witness_FibreEvents_trap :
    let s := handled (settled { fid := 0, st := .ready, entry := some due, pc := 48 }); let g := theGroup s
    s.group? 1 = some g ∧ Runs s g ∧ g.fibres.find? (s.entersNow g) = some (theFibre s) ∧ (theFibre s).entry = some due ∧
      (theFibre s).ctx.inhandler = false ∧ handlerFits (s.handlerOf g.part g.region) ∧ due.kind < 16 ∧ due.cause < 256 ∧
      due.detail < 2 ^ 16 := by
  unfold Runs handlerFits
  decide +kernel

theorem witness_FibreEvents_held :
    let s := settled { fid := 0, st := .ready, held := some due }; let g := theGroup s
    s.group? 1 = some g ∧ g.fibres.find? (fun x => x.held.isSome && !x.sent) = some (theFibre s) ∧
      (theFibre s).held = some due := by decide +kernel

theorem witness_FibreEvents_migration :
    (let s := settled { fid := 0, st := .waiting, place := .transit (some 5) 3 1, slotOn := some 0 }; let g := theGroup s
     s.group? 1 = some g ∧ (theFibre s).place = .transit (some 5) 3 1 ∧ (theFibre s).unacked = 0 ∧ Runs s g ∧
       s.stackUp (stackOf 5) = true) ∧
    (let s := settled { fid := 0, st := .ready, unacked := 2 }; let g := theGroup s
     s.group? 1 = some g ∧ 0 < (theFibre s).unacked ∧ s.stopped g.part = false ∧ NoPeerStore s 1 0 ∧
       s.invalidations = [] ∧ g.frame = none) ∧
    let s : State := { settled { fid := 0, st := .waiting, place := .transit (some 5) 3 1, unacked := 4 } with tick := 70000 }
    let g := theGroup s
    s.group? 1 = some g ∧ (theFibre s).place = .transit (some 5) 3 1 ∧ (theFibre s).unacked ≠ 0 ∧
      (1 : DWord).toNat + 65536 ≤ s.tick.toNat ∧ g.st = .placed ∧
      g.fibres.find? (·.stalledMigr s.tick) = some (theFibre s) := by
  unfold Runs NoPeerStore
  decide +kernel

theorem witness_SupervisorCallServed :
    let s := settled { fid := 0, st := .ready, held := some { kind := 13 }, sent := true, sysc := some (1, 8) }
    s.group? 1 = some (theGroup s) ∧ (theGroup s).fibre? 0 = some (theFibre s) ∧ (theFibre s).sysc = some (1, 8) ∧
      s.homeUp (theGroup s).region = true := by
  decide +kernel


/-! ## Engines -/

/-- A machine with what its group's partition caches brought to its home. -/
def home (s : State) : State := s.quiesce (theGroup s).part

theorem atHome_of {s : State} (h : (home s).errors = []) : AtHome s (home s) (theGroup s) := ⟨rfl, h⟩

/-- Whether a read has an answer. -/
def isOk {α ε : Type} (x : Except ε α) : Bool := match x with | .ok _ => true | .error _ => false

theorem ok_of {α ε : Type} {x : Except ε α} (h : isOk x = true) : ∃ v, x = .ok v := by
  cases x with
  | ok v => exact ⟨v, rfl⟩
  | error e => cases h

/-- The test machine's stack 0 holding the translation of its page. -/
def shared (s : State) : State :=
  { s with tlb := s.tlb ++ [{ core := none, stack := 0, vf := 0, page := 0, pages := 1, entry := fetchEntry }] }

/-- The settled machine with a scratchpad window of 64 KiB and the change of its group that is given. -/
def working (u : Group → Group) : State :=
  shared ((settled { fid := 0, st := .ready }).modGroup 1 fun g => u { g with spl := 65536 })

/-- A drained entry of 4 rows of 64 bytes, generation 5. -/
def drained : Reservation := { base := 256, rows := 4, rowbytes := 64, valid := true, drain := true, gen := 5 }

theorem witness_MatrixEvents_drain :
    let s := working fun g => { g with res := [(2, drained)], ob := [(256, 7)] }; let g := theGroup s
    EnginesWork s g ∧ (home s).errors = [] ∧ (g.entry 2).valid = true ∧ (g.entry 2).drain = true ∧
      ∀ w ∈ g.waits, w.2.boundTo 2 = false := by
  unfold EnginesWork
  decide +kernel

/-- A load for slot 0 of an image at 0 of the scratchpad whose columns elide their zeros. -/
def load4 : BTile := { slot := 0, seq := 1, addr := 0, fmt := 0x300 }

def loading : State := working fun g => { g with btiles := [load4] }

/-- Columns of which nothing stands. -/
theorem starts_zero (rd : Nat → Except (Nat × Hit) Nat) (eb : Nat) :
    ∀ n off, (∀ k, k < n → rd (off + 4 * k) = .ok 0) →
      columnStarts rd true eb n off = .ok ((List.range n).map fun k => (off + 4 * k + 4, 0), off + 4 * n)
  | 0, _, _ => rfl
  | n + 1, off, h => by
    have he : elidedEnd off eb 0 = off + 4 := by simp [elidedEnd, maskList]
    have hr := starts_zero rd eb n (off + 4) fun k hk => by
      have := h (k + 1) (by omega)
      rwa [show off + 4 * (k + 1) = off + 4 + 4 * k by omega] at this
    have h0 : rd off = .ok 0 := h 0 (by omega)
    simp only [columnStarts, h0, he, hr, if_true, List.range_succ_eq_map, List.map_cons, List.map_map]
    have e (k : Nat) : off + 4 + 4 * k + 4 = off + 4 * (k + 1) + 4 := by omega
    have e2 : off + 4 + 4 * n = off + 4 * (n + 1) := by omega
    simp [Function.comp_def, e, e2]

theorem loading_zero : ∀ k, k < 32 → (home loading).engineRead (theGroup loading) true (0 + 4 * k) 4 = .ok 0 := by
  have h : ∀ k, k < 32 → (match (home loading).engineRead (theGroup loading) true (0 + 4 * k) 4 with
      | .ok v => v == 0 | .error _ => false) = true := by decide +kernel
  intro k hk
  have := h k hk
  split at this
  · rename_i v e
    rw [e, eq_of_beq this]
  · cases this

theorem witness_MatrixEvents_load :
    let s := loading; let g := theGroup s
    EnginesWork s g ∧ AtHome s (home s) g ∧ g.nextLoad 0 = some load4 ∧ load4.stuck = none ∧
      (∀ w ∈ g.waits, w.2.bindsBefore 0 load4.seq = false) ∧ (home s).readTile g load4 = .ok ([], []) := by
  refine ⟨by unfold EnginesWork; decide +kernel, atHome_of (by decide +kernel), by decide +kernel, rfl, by decide +kernel, ?_⟩
  have h := starts_zero (fun a => (home loading).engineRead (theGroup loading) true a 4) 1 32 0 loading_zero
  have hf : fmtSpad load4.fmt = true ∧ fmtElided load4.fmt = true ∧ elemBytes (fmtKind load4.fmt) = 1 ∧
      load4.addr.toNat = 0 ∧ tileBlocks load4.fmt = 0 := by decide
  simp only [State.readTile, State.imageColumns, hf, h]
  rfl

/-- A gather of two rows of 64 bytes, both at 0, from the scratchpad into entry 3, whose list of indices stands at 512. -/
def gather : Gather :=
  { id := 4, fid := 0, entry := 3, gen := 1, list := 512, base := 0, stride := 0, row0 := 0, count := 2, spad := true,
    sbase := 0, sstride := 0 }

/-- The wait of the GATHR that gathers so. -/
def gathering : Wait := { word := 0x2C000000, pkt := 24, deadline := 0, issued := 1, bound2 := 4, mp := none }

def gathers : State :=
  working fun g =>
    { g with
      res := [(3, { drained with drain := false, gen := 1 })]
      gathers := [gather]
      fibres := [{ fid := 0, st := .waiting, wait := some gathering }] }

theorem gather_ok : ∃ v, (home gathers).gatherRow (theGroup gathers) gather = .ok v := by
  obtain ⟨i, hi⟩ := ok_of (show isOk ((home gathers).engineRead (theGroup gathers) true 512 4) = true by decide +kernel)
  have h0 : isOk ((home gathers).engineRead (theGroup gathers) true 0 64) = true := by decide +kernel
  obtain ⟨v, hv⟩ := ok_of h0
  have hr : ((theGroup gathers).entry 3).rowbytes = 64 ∧ ((theGroup gathers).entry 3).nb = 0 := by decide +kernel
  refine ⟨(v, 0), ?_⟩
  have e1 : engineAddr gather.spad gather.list (4 * gather.done) = 512 := by decide
  have e2 : engineAddr true 0 (i * 0) = 0 := by simp [engineAddr]
  simp only [State.gatherRow, e1]
  simp only [gather, hi, hr, e2, hv]
  rfl

theorem witness_MatrixEvents_gather :
    let s := gathers; let g := theGroup s
    EnginesWork s g ∧ AtHome s (home s) g ∧ g.gathers.find? (·.id == gather.id) = some gather ∧
      (∃ w ∈ g.waits, opcode w.2 = 0x2C ∧ w.2.bound2 = gather.id ∧ w.2.d = 0) ∧ gather.done < gather.count ∧
      gather.fault = none ∧ gather.stuck = none ∧ ∃ v, (home s).gatherRow g gather = .ok v :=
  ⟨by unfold EnginesWork; decide +kernel, atHome_of (by decide +kernel), by decide +kernel, by decide +kernel,
    by decide, rfl, rfl, gather_ok⟩

/-- Bytes that can each be read can be read together. -/
theorem bytes_ok {s : State} {g : Group} {spad : Bool} :
    ∀ n va, (∀ k, k < n → isOk (s.engineByte g spad (va + k)) = true) → ∃ v, s.engineRead g spad va n = .ok v
  | 0, _, _ => ⟨0, rfl⟩
  | n + 1, va, h => by
    obtain ⟨b, hb⟩ := ok_of (h 0 (by omega))
    obtain ⟨v, hv⟩ := bytes_ok n (va + 1) fun k hk => by
      have := h (k + 1) (by omega)
      rwa [show va + (k + 1) = va + 1 + k by omega] at this
    exact ⟨b.toNat + 256 * v, by simp only [State.engineRead, show s.engineByte g spad va = .ok b from hb, hv]⟩

/-- Rows without a stride are read where one of them is. -/
theorem rows_ok {s : State} {g : Group} {n v : Nat} (h : s.engineRead g false 0 n = .ok v) :
    ∀ l, ∃ vs, s.operandRows g 0 0 0 n l = .ok vs
  | [] => ⟨[], rfl⟩
  | r :: rs => by
    obtain ⟨vs, hv⟩ := rows_ok h rs
    exact ⟨v :: vs, by simp only [State.operandRows, Nat.mul_zero, Nat.add_zero, Nat.zero_mod, h, hv]⟩

/-- An MTILE of one K-step whose operands all stand at address 0, and the machine whose sequencer works for it. -/
def tiling : Wait :=
  { word := 0x2D000000, pkt := 24, deadline := 0, issued := 1, bound := 4, data := [(0, [0, 0, 0, 0, 0, 0, 1])], mp := none }
def sequenced : State :=
  working fun g =>
    { g with seqs := [{ tile := 0, fid := 0 }], fibres := [{ fid := 0, st := .waiting, wait := some tiling }] }

theorem operand_of {s : State} {g : Group} {a b : List Nat} (ha : s.operandRows g 0 0 0 32 (List.range 32) = .ok a)
    (hb : s.operandRows g 0 0 0 0 (List.range 32) = .ok b) : s.operand g 0 0 0 0 0 0 0 = .ok (a.zip b) := by
  have e : 32 * 0 * elemBytes (kindOf 0) = 0 ∧ 32 * elemBytes (kindOf 0) = 32 ∧ scaleOff 0 0 = 0 ∧ scaleBytes 0 = 0 := by
    decide
  simp only [State.operand, e, ha, hb]

theorem operand_ok : ∃ l, (home sequenced).operand (theGroup sequenced) 0 0 0 0 0 0 0 = .ok l := by
  obtain ⟨v, hv⟩ := bytes_ok (s := (home sequenced)) (g := theGroup sequenced) (spad := false) 32 0 (by decide +kernel)
  obtain ⟨a, ha⟩ := rows_ok hv (List.range 32)
  obtain ⟨b, hb⟩ := rows_ok (s := (home sequenced)) (g := theGroup sequenced) (n := 0) rfl (List.range 32)
  exact ⟨_, operand_of ha hb⟩

theorem witness_MatrixEvents_step :
    let s := sequenced; let g := theGroup s; let t := tiling.tileDesc
    EnginesWork s g ∧ AtHome s (home s) g ∧ g.seqs.find? (·.tile == 0) = some { tile := 0, fid := 0 } ∧
      g.seqWait { tile := 0, fid := 0 } = some tiling ∧ g.killAt = none ∧ g.accBad = [] ∧ g.stepOf 0 < t.ksteps ∧
      (∃ a, (home s).operand g t.abase t.astride t.ascale t.asstride t.afmt t.ablk (g.stepOf 0) = .ok a) ∧
      ∃ b, (home s).operand g t.bbase t.bstride t.bscale t.bsstride t.bfmt t.bblk (g.stepOf 0) = .ok b := by
  have ha : tiling.tileDesc = { TileDesc.of 0 with ksteps := 1 } ∧ (theGroup sequenced).stepOf 0 = 0 := by decide +kernel
  refine ⟨by unfold EnginesWork; decide +kernel, atHome_of (by decide +kernel), by decide +kernel, by decide +kernel,
    by decide +kernel, by decide +kernel, by decide +kernel, ?_, ?_⟩ <;> rw [ha.1, ha.2] <;> exact operand_ok

/-- What an engine reads of a group's scratchpad where memory has no soft error and no cache holds a line. -/
theorem pad_read {s : State} {g : Group} (he : s.errors = []) (hc : s.copies = []) (hl : s.lines = []) :
    ∀ n a, g.spb ≤ a → a + n ≤ g.spl → s.engineRead g true a n = .ok (mle s.mem (g.padAddr a) n)
  | 0, _, _, _ => rfl
  | n + 1, a, h1, h2 => by
    have hr : ∃ e, s.reachPad g a 1 false = .ok (g.padAddr a) e :=
      ⟨_, by unfold State.reachPad; rw [if_neg]; simp; omega⟩
    obtain ⟨e, hr⟩ := hr
    have hu (p : Nat) : s.uncorrectable p (g.padAddr a) 1 = false := by simp [State.uncorrectable, he]
    have hh : s.holder? (g.padAddr a / 256) = none := by simp [State.holder?, State.line?, State.copy?, hc, hl]
    have hp : 2 ^ 50 ≤ g.padAddr a := Nat.le_trans (by unfold poolBase; omega) (Nat.le_add_right _ _)
    have ha : s.aperture? g.part (g.padAddr a) = none := by
      simp [State.aperture?]
      omega
    have hb : s.engineByte g true a = .ok (mread s.mem (g.padAddr a)) := by
      have hs : Access.stores .read = false := rfl
      simp [State.engineByte, State.reachAny, hs, hr, State.badByte, hu, ha, State.trueByte, he, sget, State.homeByte, hh]
    have hv := pad_read (s := s) (g := g) he hc hl n (a + 1) (by omega) (by omega)
    rw [show g.padAddr (a + 1) = g.padAddr a + 1 by unfold Group.padAddr; omega] at hv
    simp only [State.engineRead, hb, hv, mle]

/-- The settled machine with a running channel 2 whose record stands at 256 of the scratchpad, where v is. -/
def running (v : Nat) (c : Channel) : State :=
  let s := working fun g => { g with chans := [{ c with n := 2, st := 1, cur := 0x101 }] }
  { s with mem := mwle [] (poolBase 0 + 0x100) v 64 }

/-- A record of kind 0 that copies 8 bytes from 512 to 1024 of the scratchpad and fills its line (dvmode 2), owned or not. -/
def copying (own : Nat) : Nat := own + 16 + 1024 + 2048 + 2 ^ 16 + 2 ^ 32 * 8 + 2 ^ 128 * 512 + 2 ^ 192 * 1024

/-- A record of kind 5 whose grid descriptor is at 512 of the scratchpad. -/
def restricting : Nat := 1 + 2 * 5 + 16 + 1024 + 2048 + 2 ^ 192 * 4096 + 2 ^ 256 * 0x201

theorem running_clean (v : Nat) (c : Channel) : (running v c).Clean :=
  ⟨fun _ h => (nomatch (show _ ∈ ([] : List Copy) from h)), rfl⟩

theorem running_home (v : Nat) (c : Channel) : AtHome (running v c) (running v c) (theGroup (running v c)) :=
  ⟨(quiesce_clean (running_clean v c) _).symm, rfl⟩

theorem running_still (v : Nat) (c : Channel) : OffColumns (running v c) :=
  ⟨fun _ h => (nomatch (show _ ∈ ([] : List Remap) from h)), fun x hx => by
    obtain rfl : x = theGroup (running v c) := by simpa using (show x ∈ [theGroup (running v c)] from hx)
    exact show 0 < 1024 by decide⟩

theorem running_works (v : Nat) (c : Channel) (h : c.frozen = false ∧ c.stuck = none ∧ c.paused = false ∧ c.owed = []) :
    ChannelWorks (running v c) (theGroup (running v c)) { c with n := 2, st := 1, cur := 0x101 } :=
  ⟨⟨rfl, rfl, rfl, rfl⟩, running_still v c, h.2.2.2, rfl, h.1, h.2.1, h.2.2.1, rfl⟩

theorem running_read (v : Nat) (c : Channel) (h : v < 256 ^ 64) :
    (running v c).engineRead (theGroup (running v c)) true 256 64 = .ok v := by
  have e : (running v c).mem = mwle [] (poolBase 0 + 0x100) v 64 := rfl
  have p : (theGroup (running v c)).padAddr 256 = poolBase 0 + 0x100 := by
    unfold Group.padAddr
    rw [show (theGroup (running v c)).core = 0 from rfl, show clusterOf 0 = 0 by decide]
  have b : (theGroup (running v c)).spb = 0 ∧ (theGroup (running v c)).spl = 65536 := ⟨rfl, rfl⟩
  rw [pad_read rfl rfl rfl 64 256 (by rw [b.1]; decide) (by rw [b.2]; decide), e, p, mle_mwle, Nat.mod_eq_of_lt h]

theorem witness_ChannelTakesRecord_read :
    let c : Channel := { n := 2, st := 1, cur := 0x101 }
    (∀ v ∈ [copying 0, copying 1, restricting], let s := running v c; let g := theGroup s
      ChannelWorks s g c ∧ AtHome s s g ∧ c.job = none ∧ c.cur ≠ 0 ∧
        s.engineRead g (c.cur.getLsbD 0) (c.cur.toNat / 64 * 64) 64 = .ok v) ∧
    copying 0 % 2 = 0 ∧ 5 ≤ kindOfRecord (BitVec.ofNat 512 restricting) ∧ restricting % 2 = 1 ∧
    (Record.of (BitVec.ofNat 512 restricting)).malformed = false ∧ copying 1 % 2 = 1 ∧
    kindOfRecord (BitVec.ofNat 512 (copying 1)) < 5 ∧
    (let s := running (copying 1) c
     s.recordCause (theGroup s) (Record.of (BitVec.ofNat 512 (copying 1))) = none ∧ recordInPad (theGroup s) c.cur) := by
  refine ⟨fun v hv => ?_, by decide +kernel, by decide +kernel, by decide +kernel, by decide +kernel, by decide +kernel,
    by decide +kernel, by decide +kernel, by unfold recordInPad offBarriers; decide +kernel⟩
  have h : v < 256 ^ 64 := by
    have : ∀ v ∈ [copying 0, copying 1, restricting], v < 256 ^ 64 := by decide +kernel
    exact this v hv
  exact ⟨running_works v { n := 2 } ⟨rfl, rfl, rfl, rfl⟩, running_home v { n := 2 }, rfl, by decide, running_read v { n := 2 } h⟩

/-- A grid descriptor of one dimension of two elements with a table at 640, and a table's header of one tap. -/
def gridDesc : Nat := 1 + 2 ^ 64 * 0x281 + 2 ^ 128 * 2 + 2 ^ 144 + 2 ^ 160 + 2 ^ 192 * 8 + 2 ^ 288 * 8
def gridPlan (w : List DWord) : GridPlan := { desc := BitVec.ofNat 512 gridDesc, taps := 1, nrows := 1, sep := false, weights := w }

/-- A grid record that waits for a Churn engine, taken with CPY or read from a ring, and the machine whose descriptor stands
at 512. -/
def gridJob (taken : Bool) : Transfer := { bytes := BitVec.ofNat 512 restricting, ptr := 0x101, accepted := taken }
def gridded (taken : Bool) : State :=
  let s := running restricting { n := 2, job := some (gridJob taken) }
  { s with mem := mwle (mwle s.mem (poolBase 0 + 512) gridDesc 64) (poolBase 0 + 640) 0x10001 8 }

/-- A grid record's plan where its descriptor and table are read and nothing is wrong with them. -/
theorem plan_of {s : State} {g : Group} {r : Record} {w : Nat} (hp : r.param = 0x201) (hk : r.kind = 5)
    (h1 : s.engineRead g true 512 64 = .ok gridDesc) (h2 : s.engineRead g true 640 8 = .ok 0x10001)
    (h3 : s.engineRead g true 648 8 = .ok w) (hm : (gridPlan []).misaligned r = false) :
    ∃ p, s.readGrid g r = .plan p := by
  have e : ptrSpad 0x201 = true ∧ ptrAddr 0x201 = 512 ∧ (gridPlan []).table = 0x281 ∧ ptrSpad 0x281 = true ∧
      ptrAddr 0x281 = 640 ∧ ptrBad 0x281 = false ∧ (gridPlan []).malformed = false ∧
      (gridPlan []).tableBad false 0x10001 = false ∧ bits 0x10001 0 16 = 1 ∧ bits 0x10001 16 16 = 1 ∧
      bits 0x10001 32 1 = 0 := by decide +kernel
  have hm' : ({ gridPlan [] with taps := 0, nrows := 0, sep := false } : GridPlan).misaligned r = false := hm
  have ht : ({ gridPlan [] with taps := 0, nrows := 0, sep := false } : GridPlan).table = 0x281 := e.2.2.1
  have hz : (decide ((0x281 : DWord) = 0) || false) = false ∧ decide ((5 : Nat) = 6) = false ∧
      decide ((0 : Nat) = 1) = false ∧ (false || false) = false := by decide
  refine ⟨gridPlan (splitDwords w 1), ?_⟩
  unfold State.readGrid
  simp only [gridPlan] at hm' ht e ⊢
  simp only [hp, hk, e, h1, h2, h3, hm', ht, hz, Bool.false_eq_true, if_false, Nat.mul_one]

theorem grid_plan {s : State} {g : Group} (he : s.errors = []) (hc : s.copies = []) (hl : s.lines = []) (hg : g.spb = 0 ∧ g.spl = 65536)
    (hm : mle s.mem (g.padAddr 512) 64 = gridDesc ∧ mle s.mem (g.padAddr 640) 8 = 0x10001 ∧ mle s.mem (g.padAddr 648) 8 = 0) :
    ∃ p, s.readGrid g (Record.of (BitVec.ofNat 512 restricting)) = .plan p := by
  refine plan_of (w := 0) (by decide +kernel) (by decide +kernel) ?_ ?_ ?_ (by decide +kernel)
  · rw [pad_read he hc hl 64 512 (by omega) (by omega), hm.1]
  · rw [pad_read he hc hl 8 640 (by omega) (by omega), hm.2.1]
  · rw [pad_read he hc hl 8 648 (by omega) (by omega), hm.2.2]

theorem witness_ChannelTakesRecord_churn :
    ∀ taken : Bool, let s := gridded taken; let g := theGroup s
      ChannelWorks s g { n := 2, st := 1, cur := 0x101, job := some (gridJob taken) } ∧ AtHome s s g ∧
        5 ≤ kindOfRecord (gridJob taken).bytes ∧ (gridJob taken).grid = none ∧ s.churnBusy (stackOf g.core) < 8 ∧
        (∃ p, s.readGrid g (Record.of (gridJob taken).bytes) = .plan p) ∧
        s.recordCause g (Record.of (gridJob taken).bytes) = none ∧ recordInPad g (gridJob taken).ptr := by
  intro taken
  have hs : OffColumns (gridded taken) :=
    ⟨fun m hm => (running_still restricting { n := 2, job := some (gridJob taken) }).1 m hm,
      fun m hm => (running_still restricting { n := 2, job := some (gridJob taken) }).2 m hm⟩
  have hc : (gridded taken).Clean := ⟨fun m hm => (running_clean restricting { n := 2, job := some (gridJob taken) }).1 m hm, rfl⟩
  refine ⟨⟨⟨rfl, rfl, rfl, rfl⟩, hs, rfl, rfl, rfl, rfl, rfl, rfl⟩, ⟨(quiesce_clean hc _).symm, rfl⟩, ?_, rfl, ?_,
    grid_plan rfl rfl rfl ⟨rfl, rfl⟩ ?_, ?_, ?_⟩ <;> cases taken <;> first | decide +kernel | (unfold recordInPad offBarriers; decide +kernel)

/-- A copy that has moved n of its two words. -/
def moving (n : Nat) : Transfer := { bytes := BitVec.ofNat 512 (copying 1), ptr := 0x101, accepted := true, pos := n }

theorem witness_ChannelMovesWord :
    let c : Channel := { n := 2, st := 1, cur := 0x101, job := some (moving 0) }
    let s := running (copying 1) c; let g := theGroup s; let t := moving 0; let r := Record.of t.bytes
    let a := r.dstAt t.idx t.pos
    ChannelWorks s g c ∧ AtHome s s g ∧ kindOfRecord t.bytes < 5 ∧ r.indexed = false ∧ t.pos < r.words t.idx ∧
      r.dspace = true ∧ g.spb ≤ a ∧ a + 4 ≤ g.spl ∧ offBarriers g a 4 ∧ r.sfmode = 0 ∧ r.dvmode ≠ 1 ∧
      s.nextFar g t r = none ∧
      ∃ v, copied s g t = .ok v := by
  refine ⟨running_works _ { n := 2, job := some (moving 0) } ⟨rfl, rfl, rfl, rfl⟩, running_home _ _, by decide +kernel,
    by decide +kernel, by decide +kernel, by decide +kernel, by decide +kernel, by decide +kernel,
    by unfold offBarriers; decide +kernel, by decide +kernel, by decide +kernel, by decide +kernel, ok_of (by decide +kernel)⟩

theorem witness_ChannelEndsRecord_done :
    let c : Channel := { n := 2, st := 1, cur := 0x101, job := some (moving 2) }
    let s := running (copying 1) c; let g := theGroup s
    ChannelWorks s g c ∧ (moving 2).finished = true ∧ recordInPad g (moving 2).ptr :=
  ⟨running_works _ { n := 2, job := some (moving 2) } ⟨rfl, rfl, rfl, rfl⟩, by decide +kernel,
    by unfold recordInPad offBarriers; decide +kernel⟩

theorem witness_ChannelEndsRecord_missed :
    let c : Channel := { n := 2, st := 1, cur := 0x101, job := some (moving 1) }
    let s : State := { running (copying 1) c with tick := 0x10000000000 }; let g := theGroup s
    ChannelWorks s g c ∧ (moving 1).accepted = true ∧ (moving 1).missed = false ∧
      c.prom.toNat + g.pol.fair < s.tick.toNat ∧ g.fibre? c.issuer = some (theFibre s) ∧ (theFibre s).st ≠ .free ∧
      (theFibre s).gen = c.issuerGen := by
  refine ⟨⟨⟨rfl, rfl, rfl, rfl⟩, running_still (copying 1) { n := 2, st := 1, cur := 0x101, job := some (moving 1) }, rfl, rfl, rfl, rfl, rfl, rfl⟩, rfl, rfl, ?_⟩
  decide +kernel

/-! ## Memory's events -/

/-- The settled machine's virtual function 0 with its tables at 0x100000: page 5 is a leaf of frame 0x77. -/
def tabled (u : Fibre) : State :=
  let s := (settled u).modVf 0 fun v => { v with tableRoot := 0x100000 }
  { s with
    tlb := []
    mem := mwle (mwle (mwle (mwle [] 0x100000 0x110001 8) 0x110000 0x120001 8) 0x120000 0x130001 8) 0x130028 0x77003D 8 }

/-- A walk for page n by stacks 0 and 2. -/
def walkOf (n : Nat) : Walk :=
  { askers := [0, 2], part := 0, vf := 0, page := n, write := true, by_ := .fibre 1 0, started := true }

/-- The virtual function of the test machine. -/
def theVf (s : State) : VirtualFunction := (s.vf? 0).getD { id := 9 }

/-- Its partition. -/
def thePart (s : State) : Partition := (s.part? 0).getD { id := 9 }

theorem witness_WalksAndInvalidation :
    ∀ n ∈ [5, 6],
      let s : State := { tabled { fid := 0 } with walks := [walkOf n] }
      s.vf? 0 = some (theVf s) ∧ (theVf s).part = some 0 ∧
        (s.walks.find? fun w => w.vf == 0 && w.page == n) = some (walkOf n) ∧ (walkOf n).started = true ∧
        (walkOf n).askers ≠ [] ∧ (∀ st ∈ (walkOf n).askers, s.held? none st 0 n = none) ∧
        (match (s.walkFrom 0 n 4 (theVf s).tableRoot.toNat).1 with
          | .leaf _ => n == 5
          | .fault _ _ => n == 6
          | _ => false) = true := by
  decide +kernel

theorem witness_WalksAndInvalidation_pages :
    (let s := tabled { fid := 0 }; s.invalidations = [] ∧ Settled s 0) ∧
    let s := tabled { fid := 0, unacked := 2 }
    s.invalidations = [] ∧ s.group? 1 = some (theGroup s) ∧ (theGroup s).vf = 0 ∧
      (theGroup s).fibre? 0 = some (theFibre s) ∧ (theFibre s).unacked ≠ 0 := by
  unfold Settled
  decide +kernel

/-- A translation fault on page 5 that holds fibre 0. -/
def pageFault : Trap := { kind := 10, cause := 3, fva := 0x50123 }

theorem witness_FaultRecordAnswered :
    let s := handled { settled { fid := 0, st := .ready, held := some pageFault, sent := true } with
      faults := [{ part := 0, vf := 0, page := 5, cause := 3, by_ := .fibre 1 0, opened := true }] }
    let g := theGroup s; let fb := theFibre s
    s.vf? 0 = some (theVf s) ∧ (theVf s).part = some 0 ∧ s.group? 1 = some g ∧ g.vf = 0 ∧ g.fibre? 0 = some fb ∧
      fb.held = some pageFault ∧ pageFault.kind = 10 ∧ pageFault.fva.toNat / 65536 = 5 ∧
      s.joined 0 5 = [(1, 0, pageFault)] ∧
      (∀ h ∈ s.groups, (∀ c ∈ h.chans, c.stuck ≠ some 5) ∧ ∀ q ∈ h.gathers, q.stuck ≠ some 5) ∧
      (∀ h ∈ s.groups, ∀ x ∈ h.fibres, x.rejoin 5 = x) ∧ fb.ctx.inhandler = false ∧ handlerFits (s.handlerOf g.part g.region) ∧ pageFault.cause < 256 ∧
      pageFault.detail < 2 ^ 16 := by
  unfold handlerFits
  decide +kernel

/-- An LDWT that has joined the record of page 5. -/
theorem witness_FaultRecordAnswered_watch :
    let s := { settled { waiter 0x6C000000 0x50000 with wait := (waiter 0x6C000000 0x50000).wait.map fun w => { w with bound := 1 } } with
      faults := [{ part := 0, vf := 0, page := 5, cause := 3, by_ := .fibre 1 0, opened := true }] }
    let g := theGroup s; let w := waitOf s
    s.vf? 0 = some (theVf s) ∧ (theVf s).part = some 0 ∧ s.group? 1 = some g ∧ g.vf = 0 ∧ g.fibre? 0 = some (theFibre s) ∧
      (theFibre s).wait = some w ∧ opcode w = 0x6C ∧ w.bound = 1 ∧ w.a.toNat / 65536 = 5 ∧ s.joined 0 5 = [] := by
  decide +kernel

/-- The leaf of page 5, and the remap of that page to frame 0x88. -/
def leaf5 (s : State) : Leaf := (s.leafOf 0 0 5).1.getD { page := 0, pages := 0, entry := 0, at_ := 0 }
def remap5 : Remap := { part := 0, vf := 0, page := 5, old := 0x77003D, new := 0x88003D }

theorem witness_RemapMovesPage_opens :
    let s := tabled { fid := 0 }; let q := ((s.quiesce 0).leafOf 0 0 5).2; let l := leaf5 (s.quiesce 0)
    s.vf? 0 = some (theVf s) ∧ (theVf s).part = some 0 ∧ s.walkHeld 0 0 5 = false ∧ s.retries = [] ∧
      ((s.quiesce 0).leafOf 0 0 5).1 = some l ∧ q.framesUp (pteAddr l.entry / 65536) l.pages = true ∧
      q.framesUp (pteAddr 0x88003D / 65536) l.pages = true ∧
      pteMalformed 0x88003D l.level = false ∧ (0x88003D : DWord).getLsbD 0 = true ∧ (0x88003D : DWord).getLsbD 2 = true ∧
      (∀ k, k < l.pages → q.owns 0 (pteAddr 0x88003D + 65536 * k) = true) ∧ pteSide l.entry = false ∧
      pteSide 0x88003D = false ∧ (∀ r ∈ q.remaps, ¬(r.vf = 0 ∧ r.page = l.page)) ∧
      pteAddr l.entry / 65536 + l.pages ≤ pteAddr 0x88003D / 65536 := by decide +kernel

theorem witness_RemapMovesPage_mirrors :
    let s : State := { tabled { fid := 0 } with remaps := [remap5] }
    s.remaps = [remap5] ∧ pteAddr remap5.old ≤ 0x77FFFC ∧ 0x77FFFC < pteAddr remap5.old + 65536 * remap5.pages ∧
      0x77FFFC + 4 ≤ 0x77FFFC - pteAddr remap5.old + pteAddr remap5.new := by decide +kernel

theorem witness_RemapMovesPage_switches :
    let s : State := { tabled { fid := 0 } with remaps := [remap5] }
    let q : State := { s.quiesce 0 with remaps := s.remaps.filter fun r => !(r.part == 0 && r.vf == 0 && r.page == 5) }
    s.vf? 0 = some (theVf s) ∧ (theVf s).part = some 0 ∧ s.invalidations = [] ∧ Settled s 0 ∧
      s.walkHeld 0 0 5 = false ∧ s.framesUp (pteAddr remap5.new / 65536) remap5.pages = true ∧ q.remaps = [] ∧
      (q.leafOf 0 0 5).1 = some (leaf5 q) ∧
      (s.remaps.find? fun r => r.part == 0 && r.vf == 0 && r.page == 5) = some remap5 := by
  unfold Settled
  decide +kernel

/-- Copies of line 7 in cluster 0 and its core 0, one of line 9 in the L2 of stack 1. -/
def cached : State :=
  { settled { fid := 0 } with
    copies := [{ unit := .ck 0, line := 7, sectors := 5, data := 0xabcdef, dirty := 3 },
      { unit := .l1 0, line := 7, sectors := 3, data := 5, dirty := 0 },
      { unit := .l2 1, line := 9, sectors := 5, data := 0xabcdef, dirty := 0 }] }

/-- The same with a notice about line 9. -/
def noticed : State :=
  { cached with notices := [{ child := .l2 1, seq := 0, line := 9, data := 0xabcdef, dirty := 6 }] }

theorem witness_CoherenceEvents :
    (∃ c, cached.copy? (.ck 0) 7 = some c) ∧ cached.line? 7 = none ∧ cached.notices = [] ∧
      (∀ d ∈ cached.copies, d.line ≠ 7 → d.dirty = 0) ∧ (∃ n rest, noticed.notices = n :: rest ∧ n.child = .l2 1) ∧
      noticed.remaps = [] ∧ (∃ n ∈ noticed.notices, n.child = .l2 1 ∧ n.line = 9) ∧
      cached.holdsAddr (cached.clusterPart (clusterOf 0)) (7 * 256) = true ∧ cached.hostBiased (7 * 256) = false ∧
      (let s : State := { cached with attrs := [(0, 1, 0x100)] }
       s.holdsAddr (s.clusterPart (clusterOf 0)) (7 * 256) = true ∧ s.hostBiased (7 * 256) = true ∧ s.line? 7 = none) ∧
      (let s := cached.modPart 0 fun q => { q with channels := [] }
       s.holdsAddr (s.clusterPart (clusterOf 0)) (7 * 256) = false ∧ s.groupsOn 0 = [theGroup s]) :=
  ⟨⟨_, rfl⟩, by decide +kernel, rfl, by decide +kernel, ⟨_, _, rfl, rfl⟩, rfl, by decide +kernel, by decide +kernel,
    by decide +kernel, by decide +kernel, by decide +kernel⟩

/-- Publishes asked of cluster 0 for line 7 and of the L2 of stack 1 for line 9, both 65,536 ticks ago. -/
def publishing : State :=
  { cached with
    tick := 70000
    publishes := [{ reader := 5, holder := .ck 0, line := 7, since := 4464 },
      { reader := 5, holder := .l2 1, line := 9, since := 4464 }] }

theorem witness_CoherenceEvents_publishes :
    (∃ q ∈ publishing.publishes, q.isSent (.ck 0) 7 = true ∧ q.since.toNat + 65536 ≤ publishing.tick.toNat ∧
      publishing.part? (publishing.clusterPart (clusterOf q.reader)) = some (thePart publishing)) ∧
    ∃ q ∈ publishing.publishes, q.isSent (.l2 1) 9 = true := by decide +kernel

/-- The settled machine with one bit flipped in word 0x38 of memory. -/
def flipped : State := { settled { fid := 0 } with errors := [(0x38, 1)] }

theorem witness_ErrorsAndScrubs :
    (0x704 : Nat) < 2 ^ 49 ∧ sget 0 (settled { fid := 0 }).errors (0x704 / 32) = 0 ∧ sget 0 flipped.errors 0x38 ≠ 0 ∧
      (sget 0 flipped.errors 0x38).extractLsb' 256 32 = 0 ∧ flipped.protOf (32 * 0x38) ≠ 2 ∧
      correctable (flipped.protOf (32 * 0x38)) (sget 0 flipped.errors 0x38) = true ∧ flipped.owns 0 (7 * 65536) = true ∧
      flipped.owns 5 (7 * 65536) = false ∧ 0 ∈ flipped.coresOf 0 := by decide +kernel

theorem witness_ErrorsAndScrubs_operand :
    let s := flipped.modGroup 1 fun g => { g with kern := { g.kern with opbytes := 256 } }
    s.group? (theGroup s).gid = some (theGroup s) ∧ (theGroup s).st ≠ .descheduled ∧ 32 * 7 < (theGroup s).kern.opbytes ∧
      oneBits 4 = 1 ∧ 2 ≤ oneBits 6 := by decide +kernel

/-! ## Lives of groups -/

/-- The settled machine with fibre 0 ready at packet 0. -/
def ready0 : State := settled { fid := 0, st := .ready }
def bundle0 : Bundle := (ready0.choose 0).getD
  { grp := 0, team := 0, pc := 0, fids := [], mc := none, prio := 0, overdue := false, rdy := 0, slot := 0 }

theorem witness_PickStartsRun :
    let s := ready0
    (s.core 0).run = none ∧ s.traceFull 0 = false ∧ s.fetchMisses 0 = [] ∧ s.choose 0 = some bundle0 ∧
      s.group? bundle0.grp = some (theGroup s) ∧ s.edge (theGroup s).part = true ∧ bundle0.fids = [0] := by decide +kernel

/-- A launch of one group of two teams with three fibres each, the second of four to come. -/
def launch0 : Launch :=
  { id := 4, part := 0, vf := 0, image := 0x50, khdr := 0
    kern := { window := 16, teams := 2, fibres := 3, argbytes := 8, entry := 0x300, relaunch := true }
    gridx := 1, gridy := 1, args := [(0, 7), (1, 8)], region := 0, ranges := [(0, 0, 4)], total := 4 }

theorem witness_PlacementEvents_place :
    let s : State := { ready0 with launches := [launch0], serial := 9 }
    s.launch? 4 = some launch0 ∧ launch0.claim = none ∧ launch0.nextOn 0 = some 0 ∧ s.stackUp 0 = true ∧
      s.stopped launch0.part = false ∧ launch0.kern.fibres ≤ 32 ∧
      (match s.coreFor (s.newGroup launch0 0) ((coreSet (s.coresOf launch0.part)).filter (stackOf · == 0)) false false with
        | some g => (s.padSource g).isNone
        | none => false) = true := by
  decide +kernel

/-- The settled machine whose group has ended, after a kill of cause 2, with a launch to run it again. -/
def endedGroup : State :=
  { (ready0.modGroup 1 fun g =>
      { g with launch := 4, st := .ended, exit := some (2, 0), pol := { g.pol with relaunch := true }, kern := { g.kern with relaunch := true } }) with
    launches := [launch0] }

theorem witness_PlacementEvents_return :
    let s := endedGroup; let g := theGroup s
    s.group? 1 = some g ∧ g.st = .ended ∧ (∀ fb ∈ g.fibres, fb.unacked = 0) ∧ s.inRun 1 = false ∧
      s.stopped g.part = false ∧ (∀ c ∈ g.chans, c.job = none ∧ c.owed = [] ∧ (c.st = 0 ∨ c.st = 3)) ∧
      s.launch? g.launch = some launch0 ∧ launch0.ended + 1 < launch0.total ∧ g.exit ≠ none ∧
      s.stackStates = [] ∧ (g.exit.map (·.1)) = some 2 ∧ g.pol.relaunch = true ∧ g.kern.relaunch = true ∧ sget 0 launch0.kills g.index < 4 := by
  decide +kernel

/-- The settled machine whose group lies in a region at 0x20000 with a budget of 40 ticks, of which 50 are used. -/
def budgeted : State :=
  let s := { ready0 with mem := mwle (mwle (mwle [] (0x20000 + 64) 50 8) (0x20000 + 32) 40 8) (0x20000 + 60) 0xffffffff 4 }
  s.modGroup 1 fun g => { g with region := 0x20000 }

theorem witness_PlacementEvents_budget :
    let s := budgeted; let g := theGroup s
    s.placedIn 0x20000 = [g] ∧ s.tickBudget g.part 0x20000 ≠ 0 ∧
      s.tickBudget g.part 0x20000 ≤ mle s.mem (0x20000 + 64) 8 := by decide +kernel

theorem witness_GroupLives :
    (let g := theGroup ready0
     ready0.group? 1 = some g ∧ g.exit = none ∧ g.st = .placed ∧ 1 ≠ g.part) ∧
    (let s := ready0.modGroup 1 fun g => { g with st := .stopping, killAt := some 77 }
     let g := theGroup s
     s.group? 1 = some g ∧ g.exit = none ∧ g.st = .stopping ∧ s.inRun 1 = false ∧ s.stopped g.part = false ∧
       (∀ fb ∈ g.fibres, fb.unacked = 0) ∧
       (∀ c ∈ g.chans, c.job = none ∧ c.owed = [] ∧ (c.st = 0 ∨ c.st = 3 ∨ c.paused = true)) ∧
       (∀ fb ∈ g.fibres, fb.entry = none ∧ fb.misses = []) ∧
       (let khdr := ((s.launch? g.launch).map (·.khdr)).getD 0
        s.maySave g 3 (((g.contextRecord g.gridx khdr s.tick).length + 65535) / 65536) = true) ∧ g.killAt = some 77) ∧
    let s := ready0.modGroup 1 fun g => { g with st := .descheduled, resume := true }
    let g := theGroup s
    s.group? 1 = some g ∧ g.exit = none ∧ g.st = .descheduled ∧ g.resume = true ∧ s.stackUp (stackOf g.core) = true ∧
      s.stopped g.part = false ∧ (s.coreFor g g.resumeCores true (g.pinned || g.undrained)).isSome = true := by
  decide +kernel

/-! ## The supervisor -/

theorem witness_SupervisorFibreCommands :
    (let g := theGroup ready0
     ready0.group? 1 = some g ∧ g.exit = none ∧ g.fibre? 0 = some (theFibre ready0) ∧ (theFibre ready0).held = none) ∧
    ∀ call ∈ [none, some (5, 8)],
      let s := handled (settled { fid := 0, st := .waiting, held := some due, sent := true, sysc := call })
      let g := theGroup s; let fb := theFibre s
      s.group? 1 = some g ∧ g.exit = none ∧ g.fibre? 0 = some fb ∧ fb.held = some due ∧ fb.ctx.inhandler = false ∧
        handlerFits (s.handlerOf g.part g.region) ∧ due.kind < 16 ∧ due.cause < 256 ∧ due.detail < 2 ^ 16 ∧
        (reached g fb).2 ≠ 0 := by
  unfold handlerFits
  decide +kernel

/-- The settled machine whose partition has a region block at 0x20000. -/
def regioned : State := (settled { fid := 0 }).modPart 0 fun q => { q with regions := [0x20000] }

theorem witness_SupervisorRegions :
    let s := regioned; let q := thePart s
    s.part? q.id = some q ∧ Memory.wf s.mem = true ∧ s.retries = [] ∧ regionFits s q 0x30000 0x20000 = true ∧
      domainFits q 0x30000 0x20000 = true ∧ domainFits q 0x30000 (2 ^ 480 + 2 ^ 64 * 0x40000) = false ∧
      s.homeUp 0x30000 = true ∧ s.homeUp 0x20000 = true ∧
      (let d : State := { s with stackStates := [(homeStack 0x30000, .resetting), (homeStack 0x20000, .resetting)] }
       d.homeUp 0x30000 = false ∧ d.homeUp 0x20000 = false ∧ regionFits d q 0x30000 0x20000 = true) ∧
      (∀ v ∈ s.vfs, ¬(v.part = some q.id ∧ v.root = 0x20000)) ∧
      regionFits s q 0x30001 0 = false ∧ (0x20000 ∈ q.regions ∧ regionFits.parentFits s q 0 = true) ∧
      movesTo s q 0x20000 0 = true ∧ movesTo s q 0x20000 0x20000 = false ∧ ¬0x30000 ∈ q.regions ∧ ∀ g ∈ s.groups, 0x20000 ∈ s.ancestors 8 g.region → g.exit ≠ none := by decide +kernel

/-- The same with a frozen group, channel and virtual function. -/
def frozenMasters : State :=
  (regioned.modGroup 1 fun g => { g with frozen := true, chans := [{ n := 2, frozen := true }] }).modVf 0 fun v =>
    { v with frozen := true }

theorem witness_SupervisorFunctions :
    let s := frozenMasters; let g := theGroup s
    s.part? 0 = some (thePart s) ∧ 0x20000 ∈ (thePart s).regions ∧ mle s.mem 0x20000 8 = 0 ∧ s.owns 0 0x100000 = true ∧
      (s.modPart 0 fun q => { q with slices := [] }).owns 0 (2 ^ 49) = false ∧ Settled s 0 ∧ s.vf? 7 = none ∧ s.vf? 0 = some (theVf s) ∧
      (theVf s).part = some 0 ∧ ownsRing s 0 0x40000 (192 * 8) = true ∧ (theVf s).frozen = true ∧ s.group? 1 = some g ∧ g.exit = none ∧ g.part = 0 ∧
      g.frozen = true ∧ g.chan? 2 = some { n := 2, frozen := true } ∧ (theGroup regioned).frozen = false ∧
      (let d := settled { fid := 0, unacked := 2 }
       d.vf? 0 = some (theVf d) ∧ d.group? 1 = some (theGroup d) ∧ (theGroup d).vf = 0 ∧
         (theGroup d).fibre? 0 = some (theFibre d) ∧ (theFibre d).unacked ≠ 0) := by
  unfold Settled
  decide +kernel

/-- A trace record, a core whose trace holds it, and firmware. -/
def traced : State :=
  let s := (settled { fid := 0 }).modCore 0 fun c =>
    { c with trace := { c.trace with
      buf := [{ tick := 7, core := 0, seq := 0, kind := 1, slot := 2, fid := 0, mask := 1, payload := 9 }]
      cfg := { c.trace.cfg with on := true, ring := 0x40000, lgRecords := 8 } } }
  { s with firmware := some 0 }

theorem witness_WatchingCommands :
    let s := traced
    0 ∈ s.coresOf 0 ∧ 0 ∉ s.coresOf 5 ∧ (ownsRing s 0 0x40000 (32 * 2 ^ 8) = true ∧ ownsRing (s.modPart 0 fun q => { q with slices := [] }) 0 (2 ^ 49) (32 * 2 ^ 8) = false ∧ s.remaps = [] ∧
      s.homeUp (s.core 0).trace.cfg.ring = true) ∧ (s.core 0).trace.buf.length = 1 ∧
      (s.core 0).trace.tail - (s.core 0).trace.head < 2 ^ (s.core 0).trace.cfg.lgRecords ∧
      (∀ q ∈ s.parts, 0 ∈ s.coresOf q.id → s.stopped q.id = false) ∧ s.part? 0 = some (thePart s) ∧ s.firmware = some 0 ∧
      ∀ k, k < 32 → Uncached s ((0x40000 + k) / 256) := by
  refine ⟨by decide +kernel, by decide +kernel, by decide +kernel, by decide +kernel, by decide +kernel, by decide +kernel,
    by decide +kernel, rfl, ?_⟩
  unfold Uncached
  decide +kernel

/-- A partition's freeze asked for and in force, and the device's. -/
def freezing (on : Bool) : State :=
  { ((settled { fid := 0 }).modPart 0 fun q => { q with freeze := some { tick := 50, inForce := on } }) with
    freeze := some { tick := 50, inForce := on } }

theorem witness_FreezeLives :
    (settled { fid := 0 }).part? 0 = some (thePart (settled { fid := 0 })) ∧
      ∀ on ∈ [false, true],
        let s := freezing on
        s.part? 0 = some (thePart s) ∧ (thePart s).freeze = some { tick := 50, inForce := on } ∧
          s.freeze = some { tick := 50, inForce := on } := by decide +kernel

/-! ## Time, power, reset, and accesses from outside -/

theorem witness_TickAndGates :
    (∀ f, (settled { fid := 0 }).freeze = some f → f.inForce = false) ∧ (settled { fid := 0 }).tick ≠ BitVec.allOnes 64 ∧
      ((settled { fid := 0 }).invalidations = [] ∧ ∀ g ∈ endedGroup.groups, endedGroup.resident g = false) ∧
      (settled { fid := 0 }).group? 1 = some (theGroup (settled { fid := 0 })) ∧
      (freezing true).freeze = some { tick := 50, inForce := true } ∧
      let s := (settled { fid := 0 }).modCore 5 fun c => { c with gate := .pending }
      (s.core 5).gate = .pending ∧ gateMayClose s 5 := by
  refine ⟨fun f h => ?_, by decide +kernel, by decide +kernel, by decide +kernel, by decide +kernel, by unfold gateMayClose; decide +kernel⟩
  have : (settled { fid := 0 }).freeze = none := rfl
  cases this.symm.trans h

theorem witness_PowerAndHeat :
    let s : State := { settled { fid := 0 } with tick := 1048576 }
    s.tick ≠ 0 ∧ s.tick.toNat % 1048576 = 0 ∧ s.parts.filter (·.id == 0) = [thePart s] ∧ (3 : Nat) < 8 ∧
      sget 105 s.emergency 3 ≤ 105 ∧ 104 < sget 105 s.emergency 3 := by decide +kernel

/-- An entry of a partition map that gives a partition cluster 17 with a slice and a pseudo-channel of its stack. -/
def entry17 : MapEntry := { id := 3, clusters := [17], slices := [16], channels := [64], lanes := [0] }

theorem witness_ResetForms :
    Memory.wf State.reset.mem = true ∧ mayForm entry17 ∧ apartEntries entry17 { entry17 with id := 4, clusters := [18], slices := [17], channels := [65], lanes := [1] } := by
  unfold mayForm apartEntries apartLists
  decide +kernel

/-- Stack 3 draining until tick 40, stack 5 in reset, and the packets of a load that it refused. -/
def packet (st : Nat) (refused : Bool) : Packet :=
  { id := 4, stack := st, part := 0, addr := 5, op := .load 4, sender := 0, seq := 9, refused := refused }
def drainingStacks (refused : Bool) : State :=
  { settled { fid := 0 } with stackStates := [(3, .draining 40), (5, .resetting), (6, .emptied)], packets := [packet 0 refused] }

theorem witness_StackLives :
    let s := drainingStacks true; let g := theGroup s
    sget .released s.stackStates 0 = .released ∧ s.group? 1 = some g ∧ g.exit = none ∧ g.onStack 0 = true ∧
      sget .released s.stackStates 5 = .resetting ∧ sget .released s.stackStates 6 = .emptied ∧ sget .released s.stackStates 3 = .draining 40 ∧
      (40 : DWord).toNat ≤ s.tick.toNat ∧ s.packets.find? (·.id == 4) = some (packet 0 true) ∧ s.homeUp 5 = true ∧
      (packet 0 true).stuck = none ∧ (packet 0 true).through = none ∧ s.owedTicks = [] ∧
      (∀ q ∈ s.parts, ∀ b ∈ q.regions, homeStack b ≠ 5) ∧
      (let d : State := { s with stackStates := [(homeStack 5, .resetting)], packets := [packet 0 true, { packet 0 true with id := 6, stuck := some 3 }] }
       d.homeUp 5 = false ∧ d.packets.find? (·.id == 6) = some { packet 0 true with id := 6, stuck := some 3 }) ∧
      (let q : State := { s with packets := s.packets.filter fun q => q.id != 4 }
       q.errors = [] ∧ q.notices = [] ∧ q.remaps = [] ∧ Uncached q 0 ∧ 5 % 256 + opLength (.load 4) ≤ 256 ∧
         ∀ x ∈ q.answered, ¬(x.1 = 8 * 0 + homeStack 5 ∧ x.2.1 = 9)) ∧
      (drainingStacks false).packets.find? (·.id == 4) = some (packet 0 false) := by
  unfold Uncached
  decide +kernel

/-- Exports of the partition's pages 0 and 1, and a request to a peer that has waited since tick 4. -/
def window0 : Window := { base := 0, size := 65536, vf := 0, device := 1, ports := 1 }
def window1 : Window := { window0 with base := 65536 }
def request3 (store : Bool) (chan : Option Nat) : PeerWait :=
  { id := 3, part := 0, grp := 1, fid := 0, start := 4, store := store, chan := chan }

theorem witness_OutsideAccesses :
    (let s := shared (settled { fid := 0 })
     let inside (a : Nat) : Bool := a < 2 ^ 50 && !outsideMemory a && s.owns 0 a
     inside 0x700 = true ∧ s.homeUp 0x700 = true ∧ inside (2 ^ 51) = false ∧
       (let d : State := { s with stackStates := [(homeStack 0x700, .resetting)] }
        d.owns 0 0x700 = true ∧ d.homeUp 0x700 = false)) ∧
    let s := (shared (settled { fid := 0 })).modPart 0 fun q => { q with exports := [window0, window1], lanes := [3] }
    let s1 : State := { s with serial := s.serial + 1 }
    let hit (x : Window) (a : Nat) : Prop := x.base ≤ a ∧ a + 4 ≤ x.base + x.size
    s.part? 0 = some (thePart s) ∧ (∀ x ∈ (thePart s).exports, ¬hit x 0x27000) ∧
      (thePart s).exports[0]? = some window0 ∧ ¬hit window0 0x17000 ∧ hit window1 0x17000 ∧ hit window0 0x700 ∧
      (∃ p < 16, window0.ports.testBit p = true ∧ ∃ l ∈ (thePart s).lanes, l / 8 = p) ∧
      (¬∃ p < 16, window0.ports.testBit p = true ∧ ∃ l ∈ (thePart (shared (settled { fid := 0 }))).lanes, l / 8 = p) ∧
      s1.virtOn window0.stack 0 0 0x700 .read = (some 0x700, s1) ∧ (s1.virtOn window1.stack 0 0 0x17000 .read).1 = none := by
  decide +kernel

/-- The machine whose request to a peer has outlived 2^20 ticks. -/
def waitedOut (w : PeerWait) : State := { settled { fid := 0, st := .waiting, unacked := 3 } with peers := [w], tick := 0x200000 }

theorem witness_OutsideAccesses_timeouts :
    (let s := waitedOut (request3 true none)
     s.peers.find? (·.id == 3) = some (request3 true none) ∧ (4 : DWord).toNat + 2 ^ 20 ≤ s.tick.toNat ∧
       s.group? 1 = some (theGroup s) ∧ (theGroup s).fibre? 0 = some (theFibre s) ∧ s.part? 0 = some (thePart s)) ∧
    (let s : State := { machine [] with peers := [request3 false none], tick := 0x200000 }
     s.peers.find? (·.id == 3) = some (request3 false none) ∧
       ({ s with peers := s.peers.filter fun v => v.id != 3 } : State).runOf 1 0 = some (0, theRun)) ∧
    let s := (waitedOut (request3 false (some 2))).modGroup 1 fun g => { g with chans := [{ n := 2, st := 1, job := some (moving 0) }] }
    s.peers.find? (·.id == 3) = some (request3 false (some 2)) ∧ s.group? 1 = some (theGroup s) ∧
      (theGroup s).chan? 2 = some { n := 2, st := 1, job := some (moving 0) } := by decide +kernel

/-! ## The host's queues and images -/

/-- Queue 3 of virtual function 0 with the commands given, its entries at 0x4000 and its records at 0x9000 of the host. -/
def hostQueue (l : List Command) : HostQueue :=
  { q := 3, enabled := true, lgn := 5, base := 0x4000, cbase := 0x9000, vector := 6, cmds := l }
def queued (h : HostQueue) : State := (shared (settled { fid := 0 })).modVf 0 fun v => { v with queues := [h] }

theorem witness_QueueRegisters :
    Answering (queued (hostQueue [])) 0 3 (hostQueue []) ∧ Answering (queued (hostQueue [])) 0 2 { q := 2 } ∧
      (queued (hostQueue [])).vf? 9 = none ∧
      ((queued (hostQueue [])).vf? 0).map (fun v => (v.part, v.frozen)) = some (some 0, false) ∧ (0 : Nat) ≠ 9 :=
  ⟨⟨by decide, rfl, rfl, theVf (queued (hostQueue [])), by decide +kernel⟩,
    ⟨by decide, rfl, rfl, theVf (queued (hostQueue [])), by decide +kernel⟩, by decide +kernel, by decide +kernel,
    by decide⟩

/-- An image of virtual function 0 with one kernel. -/
def graphedImages : List Image :=
  [{ handle := 0x50, vf := 0, sections := [], kernels := [{ window := 16, teams := 1, fibres := 1 }] }]

/-- A command of the table, and one that is not in it. -/
def command (n : Nat) (arg : BitVec 64) (body : BitVec 512) : Command :=
  { pos := 7, cmd := n, fence := true, tag := 5, arg := arg, body := body, reserved := false }

theorem starts_command (n : Nat) (arg : BitVec 64) (body : BitVec 512) :
    StartsNext (queued (hostQueue [command n arg body])) 0 3 0 (hostQueue [command n arg body]) (command n arg body) :=
  ⟨rfl, ⟨theVf (queued (hostQueue [command n arg body])), rfl, rfl, rfl⟩, rfl, rfl, rfl, fun _ d hd hne => by
    obtain rfl : d = command n arg body := by simpa [hostQueue] using hd
    exact absurd rfl hne⟩

theorem witness_CommandEntries :
    (let h := { hostQueue [] with tail := 3 }
     let s := queued h
     let at_ := hostAddr (h.base.toNat + 128 * (h.head.toNat % 2 ^ h.lgn))
     Answering s 0 3 h ∧ s.queue? 0 3 = some h ∧ h.enabled = true ∧ h.head ≠ h.tail ∧ s.homeUp (2 ^ 49) = true ∧ at_ % 128 = 0 ∧ s.notices = [] ∧
       s.errors = [] ∧
       Uncached s (at_ / 256)) ∧
    let h := hostQueue [command 9 0 0]
    Answering (queued h) 0 3 h ∧ h.head = h.tail ∧ StartsNext (queued h) 0 3 0 h (command 9 0 0) ∧
      ¬legalCommand (command 9 0 0) :=
  ⟨⟨⟨by decide, rfl, rfl, theVf (queued { hostQueue [] with tail := 3 }), by decide +kernel⟩, rfl, rfl, by decide,
      by decide +kernel, by decide +kernel, rfl, rfl, by unfold Uncached; decide +kernel⟩,
    ⟨by decide, rfl, rfl, theVf (queued (hostQueue [command 9 0 0])), by decide +kernel⟩, rfl, starts_command 9 0 0,
    by unfold legalCommand; decide⟩

theorem witness_HostCommands :
    (∀ n, 1 ≤ n → n ≤ 6 → let c := command n 0x50 0
      StartsNext (queued (hostQueue [c])) 0 3 0 (hostQueue [c]) c ∧ legalCommand c) ∧
    (let c := { command 2 0x50 0 with started := true }
     let h := hostQueue [c]; let s := queued h
     s.vf? 0 = some (theVf s) ∧ (theVf s).part ≠ none ∧ s.queue? 0 3 = some h ∧ s.homeUp (2 ^ 49) = true ∧
       h.cmds.find? (fun d => d.pos == c.pos) = some c ∧
       h.cmds.find? (fun d => d.started && d.cmd == 2 && s.launches.all fun l => l.image != d.arg.toNat % 2 ^ 32) = some c) ∧
    ∀ d ∈ (hostQueue [command 2 0x50 0]).cmds, d.started = true → d.cmd ≠ 2 :=
  ⟨fun n h1 h6 => ⟨starts_command n 0x50 0, h1, h6, rfl⟩, by decide +kernel, by decide +kernel⟩

/-- A machine whose partition 0 owns every pseudo-channel and has no region yet. -/
def roomy (s : State) : State :=
  s.modPart 0 fun q => { q with channels := List.range 512, regions := [] }

/-- Wherever the launch's block falls, it is a frame of that partition (R363). -/
theorem roomy_room {s : State} {n : Nat} (hs : s.stackStates = [])
    (h : ((roomy s).part? 0).map (fun q => (q.channels, q.regions)) = some (List.range 512, [])) : (roomy s).roomForLaunch 0 n = true := by
  obtain ⟨q, h, hq⟩ := Option.map_eq_some_iff.mp h
  obtain ⟨hc, hr⟩ := Prod.mk.inj hq
  have hb : launchBlock n < 2 ^ 41 := by unfold launchBlock; omega
  have hu (pa : Nat) : (roomy s).homeUp pa = true := by
    simp [State.homeUp, show (roomy s).stackStates = s.stackStates from rfl, hs, sget]
  have ho : (roomy s).owns 0 (launchBlock n) = true := by
    have h49 : launchBlock n / 2 ^ 49 % 2 = 0 := by omega
    have h37 : launchBlock n / 2 ^ 37 % 16 < 16 := by omega
    simp only [State.owns, h, hc, h49]
    simp
    left
    intro x hx
    omega
  simp [State.roomForLaunch, State.roomForRegion, State.isRegion, ho, hu, h, hr, maxRegions]

/-- Images that a command names, the file of a load of zeros, whether the stacks of the partition serve, and its regions. -/
theorem witness_HostCommands_forms :
    let c := command 6 0x50 0x4000
    let s : State := { queued (hostQueue [c]) with images := graphedImages }
    (loadedAs s 0 c).isSome = true ∧ (named s 0 c).isSome = true ∧ (c.body.toNat % 2 ^ 64) % 64 = 0 ∧
      (launchRecord (command 3 0x50 (2 ^ 64 + 2 ^ 96))).ok [{ window := 16, teams := 1, fibres := 1 }] = true ∧
      s.loadWaits 0 (mrb s.mem (hostAddr 0x50) 64) = false ∧
      ({ s with stackStates := [(0, .resetting)] } : State).loadWaits 0 (mrb s.mem (hostAddr 0x50) 64) = true ∧
      (roomy s).roomForLaunch 0 s.serial = true :=
  ⟨by decide +kernel, by decide +kernel, by decide +kernel, by decide +kernel, by decide +kernel, by decide +kernel,
    roomy_room rfl (by decide +kernel)⟩

/-- A partition with as many region blocks as it may have. -/
def fullOfRegions : State := (queued (hostQueue [])).modPart 0 fun q => { q with regions := List.replicate 4096 0 }

theorem witness_HostCommands_full : fullOfRegions.roomForLaunch 0 fullOfRegions.serial = false := by
  have hn : fullOfRegions.roomForRegion 0 = false := by decide +kernel
  simp [State.roomForLaunch, hn]

/-- An image of one empty note; unsigned, it is accepted by a partition that takes such images. -/
def note (version : Nat) : List Byte :=
  leBytes (0x0058504F + 2 ^ 32 * version + 2 ^ 48 + 2 ^ 96 * 64 + 2 ^ 128 * 64 + 2 ^ 192 * 96) 64 ++
    leBytes (13 + 2 ^ 64 * 96 + 2 ^ 192 * 8) 32

theorem witness_LoaderChecks :
    (let s := (settled { fid := 0 }).modPart 0 fun q => { q with unsigned := true }
     let l := note 1
     field l 0 4 = 0x0058504F ∧ field l 12 4 = 64 ∧ field l 4 2 = 1 ∧ sectionBad l = false ∧ (s.loadImage 0 0 l).1 = 0 ∧
       field l 24 8 ≤ l.length) ∧
    field (note 2) 0 4 = 0x0058504F ∧ field (note 2) 12 4 = 64 ∧ field (note 2) 4 2 ≠ 1 ∧ field [] 0 4 ≠ 0x0058504F := by
  decide +kernel

/-- Also of StepKeepsCopiesNonempty. -/
theorem witness_StepKeepsMemoryCanonical :
    (match step (State.reset.withFetchWord 32 0x20140005) with
      | .next t => Memory.wf t.mem
      | _ => false) = true ∧ Memory.wf (State.reset.withFetchWord 32 0x20140005).mem = true ∧
      NoEmptyCopy (State.reset.withFetchWord 32 0x20140005) := by
  unfold NoEmptyCopy
  decide +kernel

/-! ## Waiting words of tiers, queues and microprograms that end at issue -/

/-- The test machine with an entry of key 9 at the head of the queue that its core pops from. -/
def entry9 : FifoEntry := { key := 9, mask := 1, lanes := [(0, 7)] }
def paired (regs : Sparse Word) : State := (machine regs).modCore (partnerOf 0) fun c => { c with fifo := [entry9] }

theorem witness_TierWordsEnd_fifo :
    let s := paired [(4, 77), (6, 9)]; let r := theRun; let g := theGroup s; let fb := theFibre s; let e := s.env r
    Alone s r g fb ∧ Ready s (.vfpsh (f3 1 0 4 6)) r g ∧ fb.place = .home ∧ (e.op32 fb 6).toNat < 2 ^ 16 ∧
      (s.core (partnerOf g.core)).gate = .opened ∧ (s.core g.core).fifo.length < 16 ∧ Ready s (.vfpop (f3 1 8 0 6)) r g ∧
      (s.core (partnerOf g.core)).fifo = [entry9] ∧ (e.op32 fb 6).toNat = entry9.key.toNat := by
  unfold Ready Alone
  decide +kernel

theorem witness_TierWordsEnd_gate :
    let s := machine [(4, 1), (6, 2)]; let r := theRun; let g := theGroup s; let fb := theFibre s; let e := s.env r
    let c := (e.op32 fb 4).toNat
    Alone s r g fb ∧ Ready s (.pgate (f3 1 8 4 6)) r g ∧ c ∈ s.coresOf g.part ∧ c < 1024 ∧ (e.op32 fb 6).toNat < 4 ∧
      (e.op32 fb 6).getLsbD 1 = true ∧ partnerOf c ≠ c := by
  unfold Ready Alone
  decide +kernel

theorem witness_TierWordsEnd_migr :
    let s := machine [(4, 0x100)]; let r := theRun; let g := theGroup s; let fb := theFibre s; let e := s.env r
    Alone s r g fb ∧ fb.after = {} ∧ Ready s (.migr (f3 0 8 4 97)) r g ∧ e.op32 fb 97 = 1 ∧ Ready s (.migr (f3 0 8 4 96)) r g ∧
      e.op32 fb 96 = 0 ∧ s.check r { size := 1, acc := .any } [{ fid := fb.fid, va := e.op64 fb 4 }] = .ok ∧
      homeStack (s.transReq g .any { fid := fb.fid, va := e.op64 fb 4 }).paOf = stackOf (fb.onCore g) := by
  unfold Ready Alone
  decide +kernel

/-- The test machine's run on core 128, in stack 1, while core 3 of stack 0 has landing slots. -/
def faraway : State :=
  let s := (machine [(4, 0x100)]).modGroup 1 fun g => { g with core := 128 }
  { s with
    groups := s.groups ++ [{ gid := 2, core := 3, kern := { landing := 4 } }]
    cores := [{ id := 128, run := (s.core 0).run }]
    cur := 128
    tlb := s.tlb.map fun t => { t with core := some 128, stack := 1 }
    parts := s.parts.map fun q => { q with clusters := [0, 1, 16, 24] } }

theorem witness_TierWordsEnd_migr_away :
    let s := faraway; let r := theRun; let g := theGroup s; let fb := theFibre s; let e := s.env r
    let st := homeStack (s.transReq g .any { fid := fb.fid, va := e.op64 fb 4 }).paOf
    Alone s r g fb ∧ fb.after = {} ∧ Ready s (.migr (f3 0 8 4 96)) r g ∧ e.op32 fb 96 = 0 ∧
      s.check r { size := 1, acc := .any } [{ fid := fb.fid, va := e.op64 fb 4 }] = .ok ∧ st ≠ stackOf (fb.onCore g) ∧
      3 ∈ s.coresOf g.part ∧ stackOf 3 = st ∧ s.stackUp st = true ∧ s.landingFree 3 ≠ 0 ∧
      ∀ d ∈ s.coresOf g.part, stackOf d = st → d < 3 → s.landingFree d = 0 := by
  unfold Ready Alone
  decide +kernel

/-- The bytes of a queue's descriptor, its ring at 0x2000 with four records of eight bytes. -/
def descOf (persistent tail head : Nat) : Nat :=
  0x2000 + 2 ^ 176 * persistent + 2 ^ 184 * 8 + 2 ^ 192 * 4 + 2 ^ 208 * 2 + 2 ^ 224 + 2 ^ 256 * tail + 2 ^ 320 * head

/-- The test machine with such a descriptor at 0x1000, registered with an image whose first kernel succeeds. -/
def graphed (persistent tail head : Nat) : State :=
  let s := (shared (machine [(4, 0x1000), (6, 5), (7, 6)])).modVf 0 fun v =>
    { v with graphs := [{ vf := 0, desc := 0x1000, image := 0x50 }] }
  { s with
    mem := mwle [] 0x1000 (descOf persistent tail head) 64
    images := graphedImages }

def theDesc (s : State) : QueueDesc := ((s.readDesc 0 0 0x1000).1).getD (QueueDesc.ofNat 0)

/-- The queue of virtual function 0 at 0x1000. -/
def queue0 : GraphQueue := { vf := 0, desc := 0x1000, image := 0x50 }

theorem witness_QueueAndStoreWordsEnd_emit :
    let s := graphed 1 6 3; let r := theRun; let g := theGroup s; let fb := theFibre s; let e := s.env r
    let q := s.readDesc 0 0 0x1000
    let d := QueueDesc.ofNat (descOf 1 6 3)
    Alone s r g fb ∧ Ready s (.qemit (f3 1 8 4 6)) r g ∧ e.op64 fb 4 = 0x1000 ∧ q.1 = some d ∧
      q.2.graphQueue? 0 0x1000 = some queue0 ∧ d.closed = false ∧ queue0.closed = false ∧
      mapReg e.mp 6 + min (d.rbytes / 4) 16 ≤ g.kern.window ∧ d.tail - d.head < d.cap ∧
      ((((q.2.release (fb.onCore g) 4).virtWrite 0 0 (d.ring + 64 * (d.tail % d.cap)) (4 * min (d.rbytes / 4) 16)
        (wordsNat ((List.range 16).map (e.regAt fb 6)))).1.bind fun x => (x.virtWrite 0 0 (0x1000 + 32) 8 (d.tail + 1)).1).isSome =
        true) := by
  unfold Ready Alone
  decide +kernel

theorem witness_QueueAndStoreWordsEnd_receive :
    let s := graphed 1 6 3; let r := theRun; let g := theGroup s; let fb := theFibre s; let e := s.env r
    let q := s.readDesc 0 0 0x1000
    let d := QueueDesc.ofNat (descOf 1 6 3)
    Alone s r g fb ∧ Ready s (.qrecv (f3 1 8 4 0)) r g ∧ e.op64 fb 4 = 0x1000 ∧ q.1 = some d ∧
      q.2.graphQueue? 0 0x1000 = some queue0 ∧ d.persistent = true ∧ mapReg e.mp 8 + min (d.rbytes / 4) 16 ≤ g.kern.window ∧
      d.tail ≠ d.head ∧ 4 ≤ d.rbytes ∧
      (q.2.virtRead 0 0 (d.ring + 64 * (d.head % d.cap)) (4 * min (d.rbytes / 4) 16)).1 = some 0 ∧
      ((q.2.virtRead 0 0 (d.ring + 64 * (d.head % d.cap)) (4 * min (d.rbytes / 4) 16)).2.virtWrite 0 0 (0x1000 + 40) 8
        (d.head + 1)).1.isSome = true := by
  unfold Ready Alone
  decide +kernel

/-- Whether a CSLD reads an image that no fibre is inside; 160 bytes of zeros are an image without a slot. -/
def storeReady (s : State) (g : Group) (a : DWord) : Bool :=
  match s.csldImage g a with
  | .ok m => s.insideSlots g.part m.present == false
  | .error _ => false

theorem witness_QueueAndStoreWordsEnd_store :
    let s := privileged; let r := theRun; let g := theGroup s; let fb := theFibre s; let e := s.env r
    Alone s r g fb ∧ Ready s (.csld (f3 1 8 4 6)) r g ∧ csldCheck (f3 1 8 4 6) s r = .ok ∧
      storeReady s g (e.op64 fb 4) = true ∧ s.part? g.part = some (thePart s) ∧
      (∀ o ∈ g.fibres, o.fid / 32 = fb.fid / 32 → o.fid < fb.fid → o.wait = none ∧ o.saved = none) ∧
      (if fb.ctx.escpc = r.pkt then fb.ctx.escnt.toNat + 1 else 1) < g.pol.escal := by
  unfold Ready Alone
  decide +kernel

theorem witness_PlacementEvents_successor :
    let s := roomy (graphed 0 6 3)
    let q := s.readDesc 0 0 0x1000
    let d := QueueDesc.ofNat (descOf 0 6 3)
    s.graphQueue? 0 0x1000 = some queue0 ∧ (∀ e ∈ queue0.taken, e.2 ≠ 2) ∧ s.roomForLaunch 0 s.serial = true ∧
      (s.vf? 0).bind (·.part) = some 0 ∧ q.1 = some d ∧
      q.2.successorClaim queue0 d = some (3, 2) ∧
      (let b := q.2.virtBytes 0 0 d.succ 64
       ((b.2.image? queue0.image).bind (·.kernels[(LaunchRecord.ofBytes (b.1.getD [])).khdr]?)).isSome = true) :=
  ⟨by decide +kernel, by decide +kernel, roomy_room rfl (by decide +kernel), by decide +kernel, by decide +kernel, by decide +kernel,
    by decide +kernel⟩

/-- A register command for that queue, which succeeds. -/
def registering : State :=
  { queued (hostQueue [command 4 0x1000 0x50]) with mem := (graphed 0 3 3).mem, images := (graphed 0 3 3).images }

theorem witness_HostCommands_register :
    registerStatus (registering.virtRead 0 0 0x1000 64).2 0 (command 4 0x1000 0x50) (registering.virtRead 0 0 0x1000 64).1 = 0 ∧
      registering.graphQueue? 0 0x1000 = none := by
  decide +kernel

/-- The stack that holds the descriptor of a queue to be closed is under reset. -/
theorem witness_HostCommands_away :
    let s : State := { graphed 0 6 3 with stackStates := [(homeStack 0x1000, .resetting)] }
    let r := s.virtRead 0 0 (0x1000 + 22) 1
    let w := r.2.virtWrite 0 0 (0x1000 + 22) 1 (r.1.getD 0 ||| 2)
    s.graphQueue? 0 0x1000 = some queue0 ∧ queue0.closed = false ∧ w.1.isNone = true ∧
      w.2.away 0 0 0x1000 .write = true := by
  decide +kernel

end Sys2Proof.Tests
end

section
/-!
PROOFS. The reserved opcodes (R73): the opcode map leaves out these five alone, and issuing one is an
illegal-instruction fault of cause 1.
-/

namespace Sys2Proof

/-! ## Opcodes without an instruction -/

/-- The opcode map gives an opcode no instruction exactly when it is one of the five reserved ones. -/
theorem decodeParts_eq_none_iff {op : Nat} (hop : op < 128) (c : Bool) (b : BitVec 24) :
    decodeParts op c b = none ↔ op ∈ [0x07, 0x2F, 0x47, 0x4F, 0x7F] := by
  unfold decodeParts
  split
  -- The last case is an opcode that the map does not list; every other one is a row of the map.
  case h_124 =>
    simp only [imp_false] at *
    simp only [List.mem_cons, List.not_mem_nil, or_false, true_iff]
    omega
  all_goals simp

theorem decodeFields_eq_none_iff (w : Word) :
    decodeFields w = none ↔ (w.extractLsb' 24 7).toNat ∈ [0x07, 0x2F, 0x47, 0x4F, 0x7F] :=
  decodeParts_eq_none_iff (BitVec.isLt _) _ _

/-- A refusal for a field of an instruction is never the one for a reserved opcode (R83). -/
theorem ofCause_ne_reservedOpcode (c : Nat) : Illegal.ofCause c ≠ .reservedOpcode := by
  unfold Illegal.ofCause
  repeat' split
  all_goals decide

theorem decode_eq_reservedOpcode_iff (w : Word) : decode w = .error .reservedOpcode ↔ decodeFields w = none := by
  unfold decode
  split
  · next h => simp [h]
  · next i h =>
    split
    · simp [h]
    · simp [h, ofCause_ne_reservedOpcode]

end Sys2Proof

namespace Sys2Proof.Machine

open Sys2Proof.Spec

/-! ## The step of an issuing core -/

/-- A core with a run of a group that nothing holds issues that run's next chain group. -/
theorem issueGroup_eq_issueRun {s : State} {r : Run} {g : Group} (hrun : s.run? = some r)
    (hgroup : s.group? r.grp = some g) (hstopped : s.stopped g.part = false) (htrace : s.traceFull s.cur = false) :
    s.issueGroup s.cur = s.issueRun g r := by
  simp [State.issueGroup, hrun, hgroup, hstopped, htrace]

theorem packet_of_atPacket {s : State} {c : Nat} {rest : List Act} {r : Run} {g : Group} {words : List Word}
    (h : AtPacket s c rest r g words) : (issuing s c rest).packet g r = .ok words := by
  obtain ⟨-, -, -, -, -, -, -, hpacket⟩ := h
  exact hpacket

/-- The next step at a packet is the issue of its run's next chain group. -/
theorem step_eq_issueRun {s : State} {c : Nat} {rest : List Act} {r : Run} {g : Group} {words : List Word}
    (h : AtPacket s c rest r g words) : step s = (issuing s c rest).issueRun g r := by
  obtain ⟨hagenda, hturn, hfirst, hrun, hgroup, hstopped, htrace, -⟩ := h
  calc step s = ({ s with agenda := rest }).take_ (.issue c) := by
        simp [step, State.next, hagenda, hturn, hfirst]
    _ = (issuing s c rest).issueGroup c := rfl
    _ = (issuing s c rest).issueRun g r := issueGroup_eq_issueRun (s := issuing s c rest) hrun hgroup hstopped htrace

@[simp] theorem openRun_cur (s : State) (g : Group) (r : Run) : (s.openRun g r).cur = s.cur := rfl
@[simp] theorem openGroup_cur (s : State) (g : Group) (r : Run) (l : List Word) : (s.openGroup g r l).cur = s.cur := rfl

@[simp] theorem opened_cur (s : State) (g : Group) (r : Run) (l : List Word) : (opened s g r l).cur = s.cur := by
  simp only [opened, openGroup_cur, apply_ite State.cur, openRun_cur, ite_self]

/-- A chain group of a legal packet, without a poisoned register, ends in the first fault that comes before its words
perform (R83). -/
theorem issueRun_of_earlyFault {s : State} {g : Group} {r : Run} {words l : List Word} {t : Trap}
    (hpacket : s.packet g r = .ok words) (hlegal : PacketLegal s g r words) (hpoison : Unpoisoned s g r)
    (hl : chainGroup (words.drop (r.idx % 3)) = l) (hfault : (opened s g r l).earlyFault r l = some t) :
    s.issueRun g r = .next ((opened s g r l).raise s.cur r t) := by
  have hlegal' : s.packetFault g r words = none := hlegal
  have hpoison' : (if r.count = 0 then (if r.count = 0 then s.openRun g r else s).poisonTrap g r else none) = none := by
    split
    · next h => exact hpoison h
    · rfl
  have hcur := opened_cur s g r l
  unfold opened at hfault hcur ⊢
  simp only [State.issueRun, hpacket, hlegal', hpoison', hl, hfault, hcur]

/-! ## The first fault of a chain group -/

/-- A word that decodes to nothing raises illegal-instruction cause 1 (R83). -/
theorem illegalFault_of_decodeFields_eq_none {w : Word} (h : decodeFields w = none) (s : State) (r : Run) :
    s.illegalFault r w = some { kind := 7, cause := 1, failing := maskOf r.fids } := by
  simp only [State.illegalFault, h]

/-- Where no transfer of a chain group strays, its first fault is that of its first illegal word (R83). -/
theorem earlyFault_append_cons {s : State} {r : Run} {before after : List Word} {w : Word} {t : Trap}
    (htransfer : ∀ v ∈ before ++ w :: after, ∀ i, decodeFields v = some i → s.transferFault r i = none)
    (hbefore : ∀ v ∈ before, s.illegalFault r v = none) (hw : s.illegalFault r w = some t) :
    s.earlyFault r (before ++ w :: after) = some t := by
  have hstray : (before ++ w :: after).filterMap (fun v => (decodeFields v).bind (s.transferFault r)) = [] :=
    List.filterMap_eq_nil_iff.2 fun v hv => Option.bind_eq_none_iff.2 (htransfer v hv)
  have hnone : before.filterMap (s.illegalFault r) = [] := List.filterMap_eq_nil_iff.2 hbefore
  simp only [State.earlyFault, hstray, List.filterMap_append, hnone, List.nil_append, List.filterMap_cons_some hw,
    List.head?_cons]

/-- A word without an instruction is the first fault of its chain group where no transfer of the other words strays and
no word before it is illegal: it is itself no transfer. -/
theorem earlyFault_of_decodeFields_eq_none {s : State} {r : Run} {before after : List Word} {w : Word}
    (hw : decodeFields w = none)
    (htransfer : ∀ v ∈ before ++ after, ∀ i, decodeFields v = some i → s.transferFault r i = none)
    (hbefore : ∀ v ∈ before, s.illegalFault r v = none) :
    s.earlyFault r (before ++ w :: after) = some { kind := 7, cause := 1, failing := maskOf r.fids } := by
  refine earlyFault_append_cons (fun v hv i hi => ?_) hbefore (illegalFault_of_decodeFields_eq_none hw s r)
  have hne : v ≠ w := fun h => by simp [h, hw] at hi
  exact htransfer v (by simpa [hne] using hv) i hi

end Sys2Proof.Machine

open Sys2Proof Sys2Proof.Machine in
/-- Settles O23: the opcode map leaves out just the five reserved opcodes, and a word without an instruction is the first
fault of its chain group, which the issuing step raises. -/
theorem reservedOpcodesRefused : Obligations.ReservedOpcodesRefused := by
  unfold Obligations.ReservedOpcodesRefused
  refine ⟨fun w => ((decode_eq_reservedOpcode_iff w).trans (decodeFields_eq_none_iff w)).symm, ?_⟩
  intro s c rest r g words w hat hlegal hpoison hw before after hgroup o htransfer hbefore
  have hfault := earlyFault_of_decodeFields_eq_none ((decode_eq_reservedOpcode_iff w).1 hw) htransfer hbefore
  rw [step_eq_issueRun hat]
  exact issueRun_of_earlyFault (packet_of_atPacket hat) hlegal hpoison hgroup hfault
end

section
/-!
PROOFS. What the words of a chain group read (R51, R52, R56, R142): an operand is read from the snapshot that opening
the group has taken, and a result changes what stands beside it.
-/

namespace Sys2Proof.Machine

/-! ## Reads of a member's snapshot (R47, R48, R56) -/

theorem special_congr {fb x : Fibre} (hfid : x.fid = fb.fid) (e : Env) (code : Nat) :
    e.special x code = e.special fb code := by
  simp only [Env.special, hfid]

/-- A 32-bit operand depends on the member's snapshot and number alone. -/
theorem op32_congr {fb x : Fibre} (hsnap : x.snap = fb.snap) (hfid : x.fid = fb.fid) (e : Env) (code : BitVec 7) :
    e.op32 x code = e.op32 fb code := by
  simp only [Env.op32, Fibre.reg, hsnap, special_congr hfid]

/-- A 64-bit operand depends on the member's snapshot and number alone. -/
theorem op64_congr {fb x : Fibre} (hsnap : x.snap = fb.snap) (hfid : x.fid = fb.fid) (e : Env) (code : BitVec 7) :
    e.op64 x code = e.op64 fb code := by
  simp only [Env.op64, Fibre.reg, hsnap, special_congr hfid]

theorem pred_congr {fb x : Fibre} (hsnap : x.snap = fb.snap) (p : Nat) : x.pred p = fb.pred p := by
  simp only [Fibre.pred, hsnap]

/-! ## Results leave the snapshot alone -/

@[simp] theorem put_snap (fb : Fibre) (e : Env) (p : Pipe) (c : BitVec 7) (n v : Nat) :
    (fb.put e p c n v).snap = fb.snap := by
  unfold Fibre.put Fibre.putRegs
  dsimp only
  split <;> rfl

@[simp] theorem putLater_snap (fb : Fibre) (e : Env) (p : Pipe) (c : BitVec 7) (n v : Nat) (fl : BitVec 5)
    (b : Option DWord) : (fb.putLater e p c n v fl b).snap = fb.snap := by
  unfold Fibre.putLater
  dsimp only
  split <;> rfl

@[simp] theorem putPred_snap (fb : Fibre) (p : Nat) (v : Bool) : (fb.putPred p v).snap = fb.snap := rfl
@[simp] theorem putPred_fid (fb : Fibre) (p : Nat) (v : Bool) : (fb.putPred p v).fid = fb.fid := rfl

/-! ## Predicates (R52, R142) -/

@[simp] theorem pred_zero (fb : Fibre) : fb.pred 0 = true := rfl
@[simp] theorem putPred_zero (fb : Fibre) (v : Bool) : fb.putPred 0 v = fb := rfl

theorem getLsbD_one_shiftLeft {p : Nat} (hlt : p < 96) (q : Nat) : (1#96 <<< p).getLsbD q = decide (q = p) := by
  rw [← BitVec.twoPow_eq, BitVec.getLsbD_twoPow]
  simp only [hlt, decide_true, Bool.true_and, eq_comm]

/-- A predicate written reads back, and every other stays. -/
theorem getLsbD_setPred (m : BitVec 96) {p : Nat} (hp : p ≠ 0) (hlt : p < 96) (v : Bool) (q : Nat) :
    (setPred m p v).getLsbD q = if q = p then v else m.getLsbD q := by
  cases v with
  | false =>
    rw [setPred, if_neg hp, if_neg Bool.false_ne_true, BitVec.getLsbD_and, BitVec.getLsbD_not, getLsbD_one_shiftLeft hlt]
    by_cases h : q = p
    · simp [h]
    · simpa [h] using m.lt_of_getLsbD
  | true =>
    rw [setPred, if_neg hp, if_pos rfl, BitVec.getLsbD_or, getLsbD_one_shiftLeft hlt]
    by_cases h : q = p <;> simp [h]

/-! ## The statements -/

theorem predicateZero : Spec.PredicateZero := fun fb _ q v =>
  ⟨pred_zero fb, putPred_zero fb v, fun hp hlt => getLsbD_setPred fb.ctx.preds hp hlt v q⟩

theorem chainGroupReadsBefore : Spec.ChainGroupReadsBefore := by
  intro fb e p code k n v q b bad fl x hx
  have hkept : x.snap = fb.snap ∧ x.fid = fb.fid := by
    simp only [List.mem_cons, List.not_mem_nil, or_false] at hx
    rcases hx with rfl | rfl | rfl <;> simp
  obtain ⟨hsnap, hfid⟩ := hkept
  exact ⟨op32_congr hsnap hfid e k, op64_congr hsnap hfid e k, pred_congr hsnap q⟩

end Sys2Proof.Machine

open Sys2Proof.Machine in
/-- Settles O29: words read the snapshot of their chain group, which no result of a word changes. -/
theorem readsWithinChainGroup : Obligations.ReadsWithinChainGroup :=
  ⟨predicateZero, chainGroupReadsBefore⟩
end

section
/-!
PROOFS. Words that act on each member of their bundle, the deadline words among them (R91, R92, R108): the effect of
such a word is its members' and nothing else's, and the machine then stands past it.
-/

namespace Sys2Proof.Machine

open Sys2Proof.Spec

/-! ## A word that acts on each member -/

/-- A change of some fibres leaves every group's other fields. -/
theorem sameGroups_modFibres (s : State) (g : Nat) (l : List Nat) (u : Fibre → Fibre) :
    SameGroups s (s.modFibres g l u) := by
  intro h
  rw [group?_modFibres]
  split
  · cases s.group? h <;> rfl
  · rfl

/-- Moving past a word of the issuing run takes its core to the next place and keeps the other cores (R54, R55). -/
theorem pastWord_retire {s t : State} {r : Run} (hrun : s.run? = some r) (hcur : t.cur = s.cur)
    (htick : t.tick = s.tick) (hcores : t.cores = s.cores) (c : Bool) : PastWord s (t.retire c) r c := by
  refine ⟨hcur, fun k => ?_⟩
  have hcore : t.core k = s.core k := by simp only [State.core, hcores]
  rw [core_retire, hcore, hcur, htick]
  split
  · next hk =>
    subst hk
    have hrun' : (s.core s.cur).run = some r := hrun
    simp only [hrun', pastRun, packetBytes]
    rfl
  · rfl

theorem members_eachMember_retire {s : State} {r : Run} (hrun : s.run? = some r) (c : Bool) {u : Env → Fibre → Fibre}
    (hfid : ∀ e fb, (u e fb).fid = fb.fid) : Members s ((s.eachMember r u).retire c) r c (u (s.env r)) :=
  ⟨fibre?_eachMember s r u hfid, sameGroups_modFibres s r.grp r.fids _, rfl, pastWord_retire hrun rfl rfl rfl c⟩

/-- A word that issues with an effect on each member does just that. -/
theorem does_of_issueEach {i : Instr} {c : Bool} {u v : Env → Fibre → Fibre}
    (hexec : ∀ s, exec i s = s.issueEach i c v) (huv : ∀ e fb, v e fb = u e fb)
    (hfid : ∀ e fb, (u e fb).fid = fb.fid) : Does i c u := by
  obtain rfl : v = u := funext₂ huv
  rintro s r g ⟨hrun, -, hlegal⟩
  exact ⟨_, (hexec s).trans (issueEach_ok hrun hlegal c v), members_eachMember_retire hrun c hfid⟩

/-! ## Deadlines and status words (R87, R92, R94) -/

/-- A deadline as a number: the mode in bit 63, the target below it (R87). -/
theorem deadlineOf_ofNat (budget : Bool) (target : Nat) :
    deadlineOf budget (BitVec.ofNat 64 target) = BitVec.ofNat 64 (budget.toNat * 2 ^ 63 + target % 2 ^ 63) := by
  have hmode : (if budget then 1#1 else 0#1).toNat = budget.toNat := by cases budget <;> rfl
  apply BitVec.eq_of_toNat_eq
  have happend : (deadlineOf budget (BitVec.ofNat 64 target)).toNat =
      (if budget then 1#1 else 0#1).toNat <<< 63 ||| ((BitVec.ofNat 64 target).extractLsb' 0 63).toNat :=
    BitVec.toNat_append _ _
  have htarget : target % 2 ^ 63 < 2 ^ 63 := Nat.mod_lt _ (by decide)
  rw [happend, hmode, BitVec.extractLsb'_toNat, BitVec.toNat_ofNat, Nat.shiftRight_zero,
    Nat.mod_mod_of_dvd _ (by decide), ← Nat.shiftLeft_add_eq_or_of_lt htarget, Nat.shiftLeft_eq, BitVec.toNat_ofNat]
  have hbudget := budget.toNat_lt
  omega

theorem clampTo_eq (v lim : Nat) : clampTo v lim = (min v lim, if lim < v then 1 else 0) := by
  unfold clampTo
  split
  · next h => rw [min_eq_right h.le]
  · next h => rw [min_eq_left (Nat.le_of_not_lt h)]

/-- What a deadline instruction writes (R92): the register that V names, and OK of class 0 with the clamp in bit 8. -/
theorem setDeadline_eq (fb : Fibre) (x : BitVec 3) (budget : Bool) (target : Nat) (clamped : Prop)
    [Decidable clamped] :
    fb.setDeadline x budget target (if clamped then 1 else 0) =
      withDeadline fb x.toNat budget.toNat target clamped := by
  simp only [Fibre.setDeadline, Fibre.status, withDeadline, deadlineOf_ofNat]
  by_cases h : clamped <;> simp [h, statusWord, Code.num]

/-! ## The words -/

theorem does_deadlineWords (f : F3) : ∀ w ∈ deadlineWords f, Does w.1 f.c w.2 := by
  intro w hw
  simp only [deadlineWords, List.mem_cons, List.not_mem_nil, or_false] at hw
  have hzero : f.x = 0 ↔ f.x.toNat = 0 := BitVec.toNat_eq
  obtain rfl | rfl | rfl | rfl | rfl := hw
  · -- TICK
    exact does_of_issueEach (fun _ => rfl) (fun _ _ => by simp only [Fibre.put64, hzero]) fun _ _ => put_fid ..
  · -- DLGET
    exact does_of_issueEach (fun _ => rfl) (fun _ _ => by simp only [Fibre.put64, hzero]) fun _ _ => put_fid ..
  all_goals -- DLSET, DLREL and DLBUD
    exact does_of_issueEach (fun _ => rfl)
      (fun _ _ => by simp only [clampTo_eq, setDeadline_eq, maxAhead, Bool.toNat_false, Bool.toNat_true]) fun _ _ => rfl

theorem does_escal (f : FK) : Does (.escal f) f.c fun _ => afterEscal f.k.toNat :=
  does_of_issueEach (fun _ => rfl) (fun _ _ => rfl) fun _ _ => rfl

end Sys2Proof.Machine

open Sys2Proof.Machine in
/-- Settles O5: each of the words issues with the effect that its rule says on every member. -/
theorem deadlineWords : Obligations.DeadlineWords := ⟨does_deadlineWords, does_escal⟩
end

section
/-!
PROOFS. Finish (R105), a case for each way in which a wait can end: with OK, with another code below the region's
escalation threshold, and with one that reaches it.
-/

namespace Sys2Proof.Machine

open Sys2Proof.Spec

/-! ## p1 and the status word (R94, R100) -/

theorem setPred_one_true (m : BitVec 96) : setPred m 1 true = m ||| 2#96 := rfl
theorem setPred_one_false (m : BitVec 96) : setPred m 1 false = m &&& ~~~2#96 := rfl

theorem statusWord_of_lt {cls : Nat} (hcls : cls < 16) (code : Code) (detail : Nat) :
    statusWord code cls detail = BitVec.ofNat 32 (code.num + 16 * cls + 256 * detail) := by
  rw [statusWord, Nat.mod_eq_of_lt hcls, Nat.mul_comm cls, Nat.mul_comm detail]

/-! ## The ends of a wait -/

/-- The count that a code other than OK brings ESCNT to: from 1 at a packet other than that of the last count (R105). -/
def escCount (fb : Fibre) (w : Wait) : Nat := if fb.ctx.escpc = w.pkt then fb.ctx.escnt.toNat + 1 else 1

/-- A member after an end that escalates (R105): its code is the detail of its status and what the trap reports. -/
def escalatedEnd (cls : Nat) (code : Code) (pkt : DWord) (fb : Fibre) : Fibre :=
  { fb with
    wait := none
    ctx := { fb.ctx with
      escpc := pkt
      escnt := 0
      wstat := BitVec.ofNat 32 (15 + 16 * cls + 256 * code.num)
      preds := setPred fb.ctx.preds 1 false }
    after := { fb.after with escw := some code.num } }

section
variable {fb : Fibre} {threshold detail : Nat} {k : WaitKind} {w : Wait} {code : Code}

theorem finish_ok (hcls : k.cls < 16) (hfence : k.fence = decide (k.cls = 5)) :
    fb.finish threshold k w .ok detail (0, 0) =
      { okEnd k.cls fb with
        ctx := { (okEnd k.cls fb).ctx with wstat := BitVec.ofNat 32 (16 * k.cls + 256 * detail) } } := by
  simp [Fibre.finish, Fibre.status, Fibre.putPred, okEnd, statusWord_of_lt hcls, setPred_one_true, hfence, Code.num]

theorem finish_below_threshold (hcls : k.cls < 16) (hcode : code ≠ .ok) (hcount : escCount fb w < threshold) :
    fb.finish threshold k w code detail (0, 0) = otherEnd k.cls code.num detail w.pkt fb := by
  unfold escCount at hcount
  simp [Fibre.finish, Fibre.status, Fibre.putPred, otherEnd, statusWord_of_lt hcls, setPred_one_false, hcode, hcount]

theorem finish_at_threshold (hcls : k.cls < 16) (hcode : code ≠ .ok) (hcount : threshold ≤ escCount fb w) :
    fb.finish threshold k w code detail (0, 0) = escalatedEnd k.cls code w.pkt fb := by
  unfold escCount at hcount
  simp [Fibre.finish, Fibre.status, Fibre.putPred, escalatedEnd, statusWord_of_lt hcls, hcode, hcount, Code.num]

/-- However a wait ends, its member waits no more, and of its registers, latches and predicates p1 alone is written. -/
theorem finish_frame (hcls : k.cls < 16) (hfence : k.fence = decide (k.cls = 5)) :
    let x := fb.finish threshold k w code detail (0, 0)
    x.wait = none ∧ x.ctx.regs = fb.ctx.regs ∧ x.ctx.lat = fb.ctx.lat ∧
      ∀ p, p ≠ 1 → x.ctx.preds.getLsbD p = fb.ctx.preds.getLsbD p := by
  have hp1 (v : Bool) (p : Nat) (hp : p ≠ 1) : (setPred fb.ctx.preds 1 v).getLsbD p = fb.ctx.preds.getLsbD p :=
    (getLsbD_setPred _ (by decide) (by decide) v p).trans (if_neg hp)
  by_cases hcode : code = .ok
  · rw [hcode, finish_ok hcls hfence]
    exact ⟨rfl, rfl, rfl, hp1 true⟩
  · rcases Nat.lt_or_ge (escCount fb w) threshold with hcount | hcount
    · rw [finish_below_threshold hcls hcode hcount]
      exact ⟨rfl, rfl, rfl, hp1 false⟩
    · rw [finish_at_threshold hcls hcode hcount]
      exact ⟨rfl, rfl, rfl, hp1 false⟩

end

theorem escalatedEnd_p1 (cls : Nat) (code : Code) (pkt : DWord) (fb : Fibre) :
    (escalatedEnd cls code pkt fb).ctx.preds.getLsbD 1 = false :=
  (getLsbD_setPred fb.ctx.preds (by decide) (by decide) false 1).trans (if_pos rfl)

end Sys2Proof.Machine

open Sys2Proof.Machine in
/-- Settles O14, by the way in which the wait ends: with OK, below the region's threshold, or at it. -/
theorem finishWritesStatus : Obligations.FinishWritesStatus := by
  intro fb threshold k w code detail hcls hfence x n
  obtain ⟨hwait, hregs, hlat, hpreds⟩ : _ ∧ _ ∧ _ ∧ _ := finish_frame hcls hfence
  refine ⟨hwait, hregs, hlat, hpreds, ?_⟩
  split
  · next hok =>
    subst hok
    exact finish_ok hcls hfence
  · next hcode =>
    split
    · next hcount => exact finish_below_threshold hcls hcode hcount
    · next hcount =>
      have hx : x = escalatedEnd k.cls code w.pkt fb := finish_at_threshold hcls hcode (Nat.le_of_not_lt hcount)
      rw [hx]
      exact ⟨rfl, rfl, escalatedEnd_p1 .., rfl, rfl⟩
end

section
/-!
PROOFS. Legal and undefined variants: what a word's legality says of its V field, and that an undefined one is the
lowest cause (R83); with it the rule for words whose effect is that of their rule on legal fields alone.
-/

namespace Sys2Proof.Machine

open Sys2Proof.Spec

/-! ## The lowest cause (R83) -/

theorem lowest_eq_none_iff (l : List Nat) : lowest l = none ↔ l = [] := by
  cases l <;> simp [lowest]

theorem mem_of_lowest_eq_some {l : List Nat} {k : Nat} (h : lowest l = some k) : k ∈ l := by
  induction l generalizing k with
  | nil => cases h
  | cons c cs ih =>
    rw [lowest, Option.some_inj] at h
    subst h
    split
    · exact List.mem_cons_self
    · next j hj =>
      rcases Nat.le_total c j with hcj | hjc
      · rw [min_eq_left hcj]
        exact List.mem_cons_self
      · rw [min_eq_right hjc]
        exact List.mem_cons_of_mem _ (ih hj)

theorem lowest_cons_of_le {c : Nat} {cs : List Nat} (h : ∀ k ∈ cs, c ≤ k) : lowest (c :: cs) = some c := by
  rw [lowest]
  split
  · rfl
  · next k hk => rw [min_eq_left (h k (mem_of_lowest_eq_some hk))]

/-! ## The V field -/

section
variable {i : Instr} {sh : Shape} {mp : Option Nat} {window : Nat}

theorem causes_eq_nil_of_cause_eq_none (hshape : i.shape = some sh) (h : i.cause mp window = none) :
    sh.causes mp window = [] := by
  rw [Instr.cause, hshape] at h
  exact (lowest_eq_none_iff _).1 h

/-- A word that raises no cause has a defined variant. -/
theorem xOk_of_cause_eq_none (hshape : i.shape = some sh) (h : i.cause mp window = none) : sh.xOk = true := by
  have hnil := causes_eq_nil_of_cause_eq_none hshape h
  by_contra hx
  simp [Shape.causes, hx] at hnil

/-- A word that raises no cause has a predicate in a D that names its predicate result (R52). -/
theorem d_lt_of_cause_eq_none (hshape : i.shape = some sh) (hd : sh.d.1 = .pd) (h : i.cause mp window = none) :
    sh.d.2.toNat < 96 := by
  have hnil := causes_eq_nil_of_cause_eq_none hshape h
  by_contra hlt
  simp [Shape.causes, Role.causes, hd, hlt] at hnil
end

/-- Whether a field is a literal, which names the cause that it raises itself. -/
def isLiteral : Role → Bool
  | .lit _ _ => true
  | _ => false

/-- A field other than a literal raises no cause below 2. -/
theorem two_le_of_mem_causes {r : Role} (hlit : isLiteral r = false) {mp : Option Nat} {window : Nat}
    {code : BitVec 7} {k : Nat} (hk : k ∈ r.causes mp window code) : 2 ≤ k := by
  have hregs {n al j : Nat} (hj : k ∈ regCauses mp window n al j) : 2 ≤ k := by
    simp only [regCauses, List.mem_append, List.mem_ite_nil_right, List.mem_singleton] at hj
    omega
  cases r with
  | lit ok c => cases hlit
  | src n | dst n | reg n al rd wr | name wr =>
    simp only [Role.causes] at hk
    split at hk
    · exact hregs hk
    · simp_all
  | zero | ps | pd =>
    simp only [Role.causes] at hk
    split at hk <;> simp_all

/-- An undefined variant raises cause 2, whatever else is wrong with the word (R83). -/
theorem cause_eq_two_of_xOk_eq_false {i : Instr} {sh : Shape} (hshape : i.shape = some sh) (hx : sh.xOk = false)
    (hd : isLiteral sh.d.1 = false) (ha : isLiteral sh.a.1 = false) (hb : isLiteral sh.b.1 = false)
    (mp : Option Nat) (window : Nat) : i.cause mp window = some 2 := by
  rw [Instr.cause, hshape]
  simp only [Shape.causes, hx, Bool.false_eq_true, if_false, List.cons_append]
  refine lowest_cons_of_le fun k hk => ?_
  simp only [List.nil_append, List.mem_append] at hk
  rcases hk with ((hk | hk) | hk) | hk
  · split at hk <;> simp_all
  · exact two_le_of_mem_causes hd hk
  · exact two_le_of_mem_causes ha hk
  · exact two_le_of_mem_causes hb hk

/-- The mask of the variants below n. -/
theorem inMask_two_pow_sub_one (n : Nat) (x : BitVec 3) : inMask (2 ^ n - 1) x = decide (x.toNat < n) :=
  Nat.testBit_two_pow_sub_one n x.toNat

theorem lt_of_inMask {n : Nat} {x : BitVec 3} (h : inMask (2 ^ n - 1) x = true) : x.toNat < n := by
  simpa [inMask_two_pow_sub_one] using h

theorem inMask_eq_false_of_le {n : Nat} {x : BitVec 3} (h : n ≤ x.toNat) : inMask (2 ^ n - 1) x = false := by
  simpa [inMask_two_pow_sub_one] using h

/-! ## The defined variants by name -/

section
variable {x : BitVec 3}

theorem eq_of_inMask_two (h : inMask 0x03 x = true) : x = 0#3 ∨ x = 1#3 := by
  revert x; decide

theorem eq_of_inMask_three (h : inMask 0x07 x = true) : x = 0#3 ∨ x = 1#3 ∨ x = 2#3 := by
  revert x; decide

theorem eq_of_inMask_four (h : inMask 0x0F x = true) : x = 0#3 ∨ x = 1#3 ∨ x = 2#3 ∨ x = 3#3 := by
  revert x; decide

/-- INEG and IABS have no `.n32` (R147). -/
theorem eq_of_inMask_neg (h : inMask 0x0B x = true) : x = 0#3 ∨ x = 1#3 ∨ x = 3#3 := by
  revert x; decide

theorem eq_of_inMask_five (h : inMask 0x1F x = true) : x = 0#3 ∨ x = 1#3 ∨ x = 2#3 ∨ x = 3#3 ∨ x = 4#3 := by
  revert x; decide

theorem eq_of_inMask_six (h : inMask 0x3F x = true) :
    x = 0#3 ∨ x = 1#3 ∨ x = 2#3 ∨ x = 3#3 ∨ x = 4#3 ∨ x = 5#3 := by
  revert x; decide

theorem variant_cases (x : BitVec 3) :
    x = 0#3 ∨ x = 1#3 ∨ x = 2#3 ∨ x = 3#3 ∨ x = 4#3 ∨ x = 5#3 ∨ x = 6#3 ∨ x = 7#3 := by
  revert x; decide
end

/-! ## Words whose variants are not all defined -/

/-- A word that issues with an effect on each member does what its rule says, where the two agree for a legal word. -/
theorem does_of_issueEach_of_legal {i : Instr} {c : Bool} {u v : Env → Fibre → Fibre}
    (hexec : ∀ s, exec i s = s.issueEach i c v)
    (huv : ∀ mp window, i.cause mp window = none → ∀ e fb, v e fb = u e fb)
    (hfid : ∀ e fb, (v e fb).fid = fb.fid) : Does i c u := by
  intro s r g hready
  have ⟨_, _, hlegal⟩ := hready
  obtain rfl : v = u := funext₂ (huv _ _ hlegal)
  exact does_of_issueEach hexec (fun _ _ => rfl) hfid s r g hready

end Sys2Proof.Machine
end

section
/-!
PROOFS. The add and multiply family (R147 to R149): the exact value of each word, wrapped or saturated as its variant
says, is the one that its rule gives.
-/

namespace Sys2Proof.Machine

open Sys2Proof.Spec

/-! ## Wrap and saturation (R146, R147) -/

/-- The low n bits of an integer are the word of n bits that it names. -/
theorem wrap_eq_toNat_ofInt (n : Nat) (x : Int) : wrap n x = (BitVec.ofInt n x).toNat := by
  simp [wrap, BitVec.toNat_ofInt]

theorem ofInt_sub (n : Nat) (x y : Int) : BitVec.ofInt n (x - y) = BitVec.ofInt n x - BitVec.ofInt n y := by
  rw [Int.sub_eq_add_neg, BitVec.ofInt_add, BitVec.ofInt_neg, BitVec.sub_eq_add_neg]

theorem sat_eq_max_min (x : Int) {lo hi : Int} (h : lo ≤ hi) : sat x lo hi = max lo (min hi x) := by
  unfold sat
  omega

@[simp] theorem addResult_b32 (x : Int) : addResult 0#3 x = (BitVec.ofInt 32 x).toNat := wrap_eq_toNat_ofInt 32 x

@[simp] theorem addResult_s32 (x : Int) : addResult 1#3 x = (satSigned x).toNat := by
  rw [satSigned, ← sat_eq_max_min x (by decide), ← wrap_eq_toNat_ofInt]
  rfl

@[simp] theorem addResult_n32 (x : Int) : addResult 2#3 x = (satNatural x).toNat := by
  rw [satNatural, ← sat_eq_max_min x (by decide), ← wrap_eq_toNat_ofInt]
  rfl

@[simp] theorem addResult_b64 (x : Int) : addResult 3#3 x = (BitVec.ofInt 64 x).toNat := wrap_eq_toNat_ofInt 64 x
@[simp] theorem addResult_ws32 (x : Int) : addResult 4#3 x = (BitVec.ofInt 64 x).toNat := wrap_eq_toNat_ofInt 64 x
theorem addResult_wn32 (x : Int) : addResult 5#3 x = (BitVec.ofInt 64 x).toNat := wrap_eq_toNat_ofInt 64 x

/-! ## Absolute values, products and their halves (R148, R149) -/

theorem ofInt_abs_toInt {n : Nat} (a : BitVec n) : BitVec.ofInt n |a.toInt| = if a.slt 0#n then -a else a := by
  simp only [BitVec.slt, decide_eq_true_eq, BitVec.toInt_zero]
  split
  · next h => rw [abs_of_neg h, BitVec.ofInt_neg, BitVec.ofInt_toInt]
  · next h => rw [abs_of_nonneg (Int.not_lt.1 h), BitVec.ofInt_toInt]

theorem toNat_mul_toNat_lt {n : Nat} (a b : BitVec n) : a.toNat * b.toNat < 2 ^ n * 2 ^ n :=
  Nat.mul_lt_mul'' a.isLt b.isLt

/-- The natural product of two words is exact (R147). -/
theorem addResult_wn32_mul (a b : Word) : addResult 5#3 (a.toNat * b.toNat) = a.toNat * b.toNat := by
  rw [addResult_wn32]
  norm_cast
  rw [BitVec.ofInt_natCast, BitVec.toNat_ofNat]
  exact Nat.mod_eq_of_lt (toNat_mul_toNat_lt a b)

/-- The high half of the word of an integer. -/
theorem extractLsb'_ofInt (n : Nat) (z : Int) :
    (BitVec.ofInt (n + n) z).extractLsb' n n = BitVec.ofInt n (z / 2 ^ n) := by
  have hsplit : z / 2 ^ n % 2 ^ n = z % 2 ^ (n + n) / 2 ^ n % 2 ^ n := by
    have hpos : (2 : Int) ^ n ≠ 0 := by positivity
    calc z / 2 ^ n % 2 ^ n = (z % (2 ^ n * 2 ^ n) + 2 ^ n * (2 ^ n * (z / (2 ^ n * 2 ^ n)))) / 2 ^ n % 2 ^ n := by
          rw [← mul_assoc, Int.emod_add_mul_ediv]
      _ = z % 2 ^ (n + n) / 2 ^ n % 2 ^ n := by
          rw [Int.add_mul_ediv_left _ _ hpos, Int.add_mul_emod_self_left, pow_add]
  apply BitVec.eq_of_toNat_eq
  rw [BitVec.extractLsb'_toNat, BitVec.toNat_ofInt, BitVec.toNat_ofInt, Nat.shiftRight_eq_div_pow]
  have hnonneg : 0 ≤ z % 2 ^ (n + n) := Int.emod_nonneg _ (by positivity)
  zify
  rw [Int.toNat_of_nonneg hnonneg, Int.toNat_of_nonneg (Int.emod_nonneg _ (by positivity)), hsplit]

/-- The high half of a signed product (R149). -/
theorem wrap_signed_high {n w : Nat} (hw : n + n = w) (a b : BitVec n) :
    wrap n (a.toInt * b.toInt / 2 ^ n) = ((a.signExtend w * b.signExtend w).extractLsb' n n).toNat := by
  subst hw
  rw [wrap_eq_toNat_ofInt, ← extractLsb'_ofInt, BitVec.ofInt_mul]
  rfl

/-- The high half of a natural product (R149). -/
theorem wrap_natural_high {n : Nat} (a b : BitVec n) :
    wrap n (a.toNat * b.toNat / 2 ^ n) = a.toNat * b.toNat / 2 ^ n := by
  have hlt : a.toNat * b.toNat / 2 ^ n < 2 ^ n := Nat.div_lt_of_lt_mul (toNat_mul_toNat_lt a b)
  unfold wrap
  norm_cast
  exact Nat.mod_eq_of_lt hlt

/-! ## Operands by variant (R147, R148) -/

section
variable (e : Env) (fb : Fibre) (code : BitVec 7)

@[simp] theorem addOperand_b32 : e.addOperand fb 0#3 code = (e.op32 fb code).toNat := rfl
@[simp] theorem addOperand_s32 : e.addOperand fb 1#3 code = (e.op32 fb code).toInt := rfl
@[simp] theorem addOperand_n32 : e.addOperand fb 2#3 code = (e.op32 fb code).toNat := rfl
@[simp] theorem addOperand_b64 : e.addOperand fb 3#3 code = (e.op64 fb code).toNat := rfl
@[simp] theorem addOperand_ws32 : e.addOperand fb 4#3 code = (e.op32 fb code).toInt := rfl
@[simp] theorem addOperand_wn32 : e.addOperand fb 5#3 code = (e.op32 fb code).toNat := rfl

@[simp] theorem addend_b32 : e.addend fb 0#3 code = (e.regAt fb code 0).toNat := rfl
@[simp] theorem addend_s32 : e.addend fb 1#3 code = (e.regAt fb code 0).toInt := rfl
@[simp] theorem addend_n32 : e.addend fb 2#3 code = (e.regAt fb code 0).toNat := rfl
@[simp] theorem addend_b64 : e.addend fb 3#3 code = (e.pairAt fb code 0).toInt := rfl
@[simp] theorem addend_ws32 : e.addend fb 4#3 code = (e.pairAt fb code 0).toInt := rfl
@[simp] theorem addend_wn32 : e.addend fb 5#3 code = (e.pairAt fb code 0).toInt := rfl
end

/-- What IMULH writes (R149): how many registers, and the high half of the product. -/
def imulhOf (x : BitVec 3) (e : Env) (fb : Fibre) (a b : BitVec 7) : Nat × Nat :=
  let arg (code : BitVec 7) : Int :=
    if x = 0 then (e.op32 fb code).toInt
    else if x = 1 then (e.op32 fb code).toNat
    else if x = 2 then (e.op64 fb code).toInt
    else (e.op64 fb code).toNat
  let n := if 2 ≤ x.toNat then 64 else 32
  (if 2 ≤ x.toNat then 2 else 1, wrap n (arg a * arg b / 2 ^ n))

/-! ## The value of each word (R148, R149) -/

section
variable {c : Bool} {x : BitVec 3} {d a b : BitVec 7} (e : Env) (fb : Fibre)

theorem addFamilyOf_iadd (h : inMask 0x0F x = true) :
    addFamilyOf (.iadd ⟨c, x, d, a, b⟩) ⟨c, x, d, a, b⟩ e fb =
      some (addWide x, addResult x (e.addOperand fb x a + e.addOperand fb x b)) := by
  obtain rfl | rfl | rfl | rfl := eq_of_inMask_four h
  all_goals simp [addFamilyOf, addFamily, addWide, BitVec.ofInt_add]

theorem addFamilyOf_isub (h : inMask 0x0F x = true) :
    addFamilyOf (.isub ⟨c, x, d, a, b⟩) ⟨c, x, d, a, b⟩ e fb =
      some (addWide x, addResult x (e.addOperand fb x a - e.addOperand fb x b)) := by
  obtain rfl | rfl | rfl | rfl := eq_of_inMask_four h
  all_goals simp [addFamilyOf, addFamily, addWide, ofInt_sub]

theorem addFamilyOf_ineg (h : inMask 0x0B x = true) :
    addFamilyOf (.ineg ⟨c, x, d, a, b⟩) ⟨c, x, d, a, b⟩ e fb =
      some (addWide x, addResult x (0 - e.addOperand fb x a)) := by
  obtain rfl | rfl | rfl := eq_of_inMask_neg h
  all_goals simp [addFamilyOf, addFamily, addWide, BitVec.ofInt_neg]

theorem addFamilyOf_iabs (h : inMask 0x0B x = true) :
    addFamilyOf (.iabs ⟨c, x, d, a, b⟩) ⟨c, x, d, a, b⟩ e fb =
      some (addWide x,
        addResult x ((if addPair x then (e.op64 fb a).toInt else (e.op32 fb a).toInt).natAbs : Int)) := by
  obtain rfl | rfl | rfl := eq_of_inMask_neg h
  all_goals simp [addFamilyOf, addFamily, addWide, addPair, ofInt_abs_toInt]

theorem addFamilyOf_imul (h : inMask 0x3F x = true) :
    addFamilyOf (.imul ⟨c, x, d, a, b⟩) ⟨c, x, d, a, b⟩ e fb =
      some (addWide x, addResult x (e.addOperand fb x a * e.addOperand fb x b)) := by
  obtain rfl | rfl | rfl | rfl | rfl | rfl := eq_of_inMask_six h
  all_goals simp [addFamilyOf, addFamily, addWide, BitVec.ofInt_mul, BitVec.signExtend, addResult_wn32_mul]

theorem addFamilyOf_imulh (h : inMask 0x0F x = true) :
    addFamilyOf (.imulh ⟨c, x, d, a, b⟩) ⟨c, x, d, a, b⟩ e fb = some (imulhOf x e fb a b) := by
  obtain rfl | rfl | rfl | rfl := eq_of_inMask_four h
  · exact congrArg (fun v => some (1, v)) (wrap_signed_high (n := 32) (w := 64) rfl _ _).symm
  · exact congrArg (fun v => some (1, v)) (wrap_natural_high (n := 32) _ _).symm
  · exact congrArg (fun v => some (2, v)) (wrap_signed_high (n := 64) (w := 128) rfl _ _).symm
  · exact congrArg (fun v => some (2, v)) (wrap_natural_high (n := 64) _ _).symm

theorem addFamilyOf_imad (h : inMask 0x3F x = true) :
    addFamilyOf (.imad ⟨c, x, d, a, b⟩) ⟨c, x, d, a, b⟩ e fb =
      some (addWide x, addResult x (e.addend fb x d + e.addOperand fb x a * e.addOperand fb x b)) := by
  obtain rfl | rfl | rfl | rfl | rfl | rfl := eq_of_inMask_six h
  all_goals
    simp [addFamilyOf, addFamily, addWide, addResult_wn32, BitVec.ofInt_mul, BitVec.ofInt_add, BitVec.signExtend]
end

/-! ## The words -/

/-- A member with what its word of the family gives. -/
def putResult (e : Env) (d : BitVec 7) (fb : Fibre) : Option (Nat × Nat) → Fibre
  | some (n, v) => fb.put e .A d n v
  | none => fb

/-- A word of the family does what its rule says where the registers and the value it writes are those of its rule. -/
theorem does_of_addFamilyOf {i : Instr} {f : F3} {n : Env → Fibre → Nat} {v : Env → Fibre → Nat}
    (hexec : ∀ s, exec i s = s.issueEach i f.c fun e fb => fb.put e .A f.d (n e fb) (v e fb))
    (hvalue : ∀ mp window, i.cause mp window = none → ∀ e fb, addFamilyOf i f e fb = some (n e fb, v e fb)) :
    Does i f.c fun e fb => putResult e f.d fb (addFamilyOf i f e fb) :=
  does_of_issueEach_of_legal hexec (fun mp window hlegal e fb => by rw [hvalue mp window hlegal e fb]; rfl)
    fun _ _ => put_fid ..

/-- The words of the family. -/
def addWords (f : F3) : List Instr := [.iadd f, .isub f, .ineg f, .iabs f, .imul f, .imulh f, .imad f]

theorem does_addWords (f : F3) :
    ∀ i ∈ addWords f, Does i f.c fun e fb => putResult e f.d fb (addFamilyOf i f e fb) := by
  intro i hi
  simp only [addWords, List.mem_cons, List.not_mem_nil, or_false] at hi
  obtain rfl | rfl | rfl | rfl | rfl | rfl | rfl := hi
  · exact does_of_addFamilyOf (fun _ => rfl) fun _ _ h e fb => addFamilyOf_iadd e fb (xOk_of_cause_eq_none rfl h)
  · exact does_of_addFamilyOf (fun _ => rfl) fun _ _ h e fb => addFamilyOf_isub e fb (xOk_of_cause_eq_none rfl h)
  · exact does_of_addFamilyOf (fun _ => rfl) fun _ _ h e fb => addFamilyOf_ineg e fb (xOk_of_cause_eq_none rfl h)
  · exact does_of_addFamilyOf (fun _ => rfl) fun _ _ h e fb => addFamilyOf_iabs e fb (xOk_of_cause_eq_none rfl h)
  · exact does_of_addFamilyOf (fun _ => rfl) fun _ _ h e fb => addFamilyOf_imul e fb (xOk_of_cause_eq_none rfl h)
  · exact does_of_addFamilyOf (fun _ => rfl) fun _ _ h e fb => addFamilyOf_imulh e fb (xOk_of_cause_eq_none rfl h)
  · exact does_of_addFamilyOf (fun _ => rfl) fun _ _ h e fb => addFamilyOf_imad e fb (xOk_of_cause_eq_none rfl h)

theorem cause_addWords (f : F3) :
    ∀ i ∈ addWords f, addFamily i 0 0 0 0 0 0 = none → ∀ mp window, i.cause mp window = some 2 := by
  intro i hi hnone
  simp only [addWords, List.mem_cons, List.not_mem_nil, or_false] at hi
  obtain rfl | rfl | rfl | rfl | rfl | rfl | rfl := hi
  all_goals refine cause_eq_two_of_xOk_eq_false rfl (Bool.eq_false_iff.2 fun hx => ?_) rfl rfl rfl
  · obtain h | h | h | h := eq_of_inMask_four hx <;> simp [addFamily, h] at hnone
  · obtain h | h | h | h := eq_of_inMask_four hx <;> simp [addFamily, h] at hnone
  · obtain h | h | h := eq_of_inMask_neg hx <;> simp [addFamily, h] at hnone
  · obtain h | h | h := eq_of_inMask_neg hx <;> simp [addFamily, h] at hnone
  · obtain h | h | h | h | h | h := eq_of_inMask_six hx <;> simp [addFamily, h] at hnone
  · obtain h | h | h | h := eq_of_inMask_four hx <;> simp [addFamily, h] at hnone
  · obtain h | h | h | h | h | h := eq_of_inMask_six hx <;> simp [addFamily, h] at hnone

end Sys2Proof.Machine

open Sys2Proof.Machine in
/-- Settles O1: for each word the exact value under its variant is the value of its rule, and the variants without
a value are the undefined ones. -/
theorem addFamilyResult : Obligations.AddFamilyResult := by
  unfold Obligations.AddFamilyResult
  intro i f hi
  exact ⟨does_addWords f i hi, cause_addWords f i hi⟩
end

section
/-!
PROOFS. The words of logic and bits (R151, R153 to R156, R162), bit by bit: a word is the number of its bits, and each
function of the model has the bits or the value that its rule says.
-/

namespace Sys2Proof.Machine

open Sys2Proof.Spec

/-! ## Numbers by their bits -/

theorem ofBits_lt (f : Nat → Bool) (n : Nat) : ofBits f n < 2 ^ n := by
  induction n with
  | zero => simp [ofBits]
  | succ n ih =>
    rw [ofBits, pow_succ]
    split <;> omega

@[simp] theorem testBit_ofBits (f : Nat → Bool) (n k : Nat) : (ofBits f n).testBit k = (decide (k < n) && f k) := by
  induction n with
  | zero => simp [ofBits]
  | succ n ih =>
    have hor : ofBits f (n + 1) = (if f n then 2 ^ n else 0) ||| ofBits f n := by
      rw [ofBits, Nat.add_comm]
      split
      · simpa using Nat.two_pow_add_eq_or_of_lt (ofBits_lt f n) 1
      · simp
    rw [hor, Nat.testBit_or, ih, apply_ite (Nat.testBit · k), Nat.testBit_two_pow, Nat.zero_testBit]
    rcases Nat.lt_trichotomy k n with h | rfl | h
    · simp [h, h.ne', Nat.lt_succ_of_lt h]
    · cases f k <;> simp
    · simp [h.ne, Nat.not_lt_of_gt h, Nat.not_lt.2 h]

/-- A word is the number of its bits. -/
theorem toNat_eq_ofBits {n : Nat} (v : BitVec n) {f : Nat → Bool} (h : ∀ k < n, v.getLsbD k = f k) :
    v.toNat = ofBits f n := by
  apply Nat.eq_of_testBit_eq
  intro k
  rw [testBit_ofBits, ← BitVec.getLsbD]
  by_cases hk : k < n
  · rw [h k hk, decide_eq_true hk, Bool.true_and]
  · rw [BitVec.getLsbD_of_ge v k (Nat.le_of_not_lt hk), decide_eq_false hk, Bool.false_and]

theorem ofBits_eq_sum (f : Nat → Bool) (n : Nat) :
    ofBits f n = ∑ k ∈ Finset.range n, if f k then 2 ^ k else 0 := by
  induction n with
  | zero => rfl
  | succ n ih => rw [ofBits, ih, Finset.sum_range_succ]

/-! ## IMM and LOG (R151, R153) -/

/-- Two items with the same key are equal, so that either way of comparing them chooses the same. -/
theorem ite_le_eq_ite_ge {α β γ : Type} [LinearOrder β] {key : α → β} (hkey : key.Injective) (p : α → α → γ)
    (a b : α) : (if key a ≤ key b then p a b else p b a) = if key b ≤ key a then p b a else p a b := by
  rcases lt_trichotomy (key a) (key b) with h | h | h
  · rw [if_pos h.le, if_neg h.not_ge]
  · rw [hkey h]
  · rw [if_neg h.not_ge, if_pos h.le]

theorem imm_eq {x : BitVec 3} (hx : inMask 0x0F x = true) (a b : Word) :
    imm x a b =
      if ((if x.toNat < 2 then a.toInt < b.toInt else a.toNat < b.toNat) ↔ x.toNat % 2 = 0) then a else b := by
  have hsigned := ite_le_eq_ite_ge (key := BitVec.toInt (n := 32)) (γ := Word) (fun _ _ => BitVec.eq_of_toInt_eq)
  have hnatural := ite_le_eq_ite_ge (key := BitVec.toNat (w := 32)) (γ := Word) (fun _ _ => BitVec.eq_of_toNat_eq)
  obtain rfl | rfl | rfl | rfl := eq_of_inMask_four hx
  · -- mins
    simpa [imm, ← ite_not (p := _ < _)] using hsigned (fun a _ => a) a b
  · -- maxs
    simpa [imm] using hsigned (fun _ b => b) a b
  · -- minn
    simpa [imm, ← ite_not (p := _ < _)] using hnatural (fun a _ => a) a b
  · -- maxn
    simpa [imm] using hnatural (fun _ b => b) a b

theorem not_xor_eq_beq : ∀ p q : Bool, (!(p ^^ q)) = (p == q) := by decide

theorem getLsbD_not_of_lt {n : Nat} (a : BitVec n) {k : Nat} (hk : k < n) : (~~~a).getLsbD k = !a.getLsbD k := by
  rw [BitVec.getLsbD_not, decide_eq_true hk, Bool.true_and]

theorem getLsbD_logic {n : Nat} (x : BitVec 3) (a b : BitVec n) {k : Nat} (hk : k < n) :
    (logic x a b).getLsbD k = bitOp x.toNat (a.getLsbD k) (b.getLsbD k) := by
  obtain rfl | rfl | rfl | rfl | rfl | rfl | rfl | rfl := variant_cases x
  · -- and
    exact BitVec.getLsbD_and
  · -- or
    exact BitVec.getLsbD_or
  · -- xor
    exact BitVec.getLsbD_xor
  · -- andn
    exact BitVec.getLsbD_and.trans (congrArg (a.getLsbD k && ·) (getLsbD_not_of_lt b hk))
  · -- orn
    exact BitVec.getLsbD_or.trans (congrArg (a.getLsbD k || ·) (getLsbD_not_of_lt b hk))
  · -- nand
    exact (getLsbD_not_of_lt _ hk).trans (congrArg (!·) BitVec.getLsbD_and)
  · -- nor
    exact (getLsbD_not_of_lt _ hk).trans (congrArg (!·) BitVec.getLsbD_or)
  · -- xnor
    exact ((getLsbD_not_of_lt _ hk).trans (congrArg (!·) BitVec.getLsbD_xor)).trans (not_xor_eq_beq ..)

theorem toNat_logic (x : BitVec 3) (a b : Word) :
    (logic x a b).toNat = ofBits (fun k => bitOp x.toNat (a.getLsbD k) (b.getLsbD k)) 32 :=
  toNat_eq_ofBits _ fun _ hk => getLsbD_logic x a b hk

/-! ## SHF (R154) -/

/-- A rotation, as the two parts of the number. -/
theorem rotated_or {i j : Nat} (hij : i + j = 32) (a : Word) :
    a.toNat * 2 ^ i % 2 ^ 32 ||| a.toNat / 2 ^ j = a.toNat * 2 ^ i % 2 ^ 32 + a.toNat / 2 ^ j := by
  have hlow : a.toNat / 2 ^ j < 2 ^ i := Nat.div_lt_of_lt_mul (by rw [← pow_add, Nat.add_comm, hij]; exact a.isLt)
  have hhigh : a.toNat * 2 ^ i % 2 ^ 32 = (a.toNat % 2 ^ j) <<< i := by
    rw [Nat.shiftLeft_eq, ← Nat.mul_mod_mul_right, ← pow_add, Nat.add_comm j, hij]
  rw [hhigh, Nat.shiftLeft_add_eq_or_of_lt hlow]

theorem toInt_div_two_pow_31 (a : Word) {n : Nat} (hn : 31 ≤ n) : a.toInt / 2 ^ min n 32 = a.toInt / 2 ^ 31 := by
  have hlow := a.le_toInt
  have hhigh := a.toInt_lt
  rcases Nat.eq_or_lt_of_le hn with rfl | h
  · rfl
  · rw [min_eq_right h]
    omega

section
variable (a : Word) (n : Nat)

theorem toNat_shl : (if 32 ≤ n then 0 else a <<< n : Word).toNat = if n < 32 then a.toNat * 2 ^ n % 2 ^ 32 else 0 := by
  rcases Nat.lt_or_ge n 32 with h | h
  · rw [if_neg (Nat.not_le.2 h), if_pos h, BitVec.toNat_shiftLeft, Nat.shiftLeft_eq]
  · rw [if_pos h, if_neg (Nat.not_lt.2 h)]
    rfl

theorem toNat_shr : (if 32 ≤ n then 0 else a >>> n : Word).toNat = if n < 32 then a.toNat / 2 ^ n else 0 := by
  rcases Nat.lt_or_ge n 32 with h | h
  · rw [if_neg (Nat.not_le.2 h), if_pos h, BitVec.toNat_ushiftRight, Nat.shiftRight_eq_div_pow]
  · rw [if_pos h, if_neg (Nat.not_lt.2 h)]
    rfl

theorem sshiftRight_min : a.sshiftRight (min n 31) = BitVec.ofInt 32 (a.toInt / 2 ^ min n 32) := by
  rw [BitVec.sshiftRight_eq, Int.shiftRight_eq_div_pow, Nat.cast_pow, Nat.cast_ofNat]
  rcases Nat.lt_or_ge n 31 with h | h
  · rw [min_eq_left (by omega), min_eq_left (by omega)]
  · rw [min_eq_right h, toInt_div_two_pow_31 a h]

theorem toNat_rotl :
    (a.rotateLeft (n % 32)).toNat = a.toNat * 2 ^ (n % 32) % 2 ^ 32 + a.toNat / 2 ^ (32 - n % 32) := by
  have hn : n % 32 < 32 := Nat.mod_lt _ (by decide)
  rw [BitVec.toNat_rotateLeft, Nat.mod_mod, Nat.shiftLeft_eq, Nat.shiftRight_eq_div_pow, rotated_or (by omega) a]

theorem toNat_rotr :
    (a.rotateRight (n % 32)).toNat = a.toNat / 2 ^ (n % 32) + a.toNat * 2 ^ (32 - n % 32) % 2 ^ 32 := by
  have hn : n % 32 < 32 := Nat.mod_lt _ (by decide)
  rw [BitVec.toNat_rotateRight, Nat.mod_mod, Nat.shiftLeft_eq, Nat.shiftRight_eq_div_pow, Nat.or_comm,
    rotated_or (by omega) a, Nat.add_comm]
end

theorem toNat_shf {x : BitVec 3} (hx : inMask 0x1F x = true) (a b : Word) :
    (shf x a b).toNat = shifted x.toNat a b := by
  obtain rfl | rfl | rfl | rfl | rfl := eq_of_inMask_five hx
  · exact toNat_shl a b.toNat
  · exact toNat_shr a b.toNat
  · exact congrArg BitVec.toNat (sshiftRight_min a b.toNat)
  · exact toNat_rotl a b.toNat
  · exact toNat_rotr a b.toNat

/-! ## BFX and BFI (R155) -/

theorem fieldPos_eq (b : Word) : fieldPos b = (fieldOf b).1 := BitVec.extractLsb'_toNat ..

theorem fieldLen_eq (b : Word) : fieldLen b = (fieldOf b).2 := by
  rw [fieldLen, fieldPos_eq, BitVec.extractLsb'_toNat, Nat.shiftRight_eq_div_pow]
  rfl

/-- A field stops at bit 31. -/
theorem fieldOf_le (b : Word) : (fieldOf b).1 + (fieldOf b).2 ≤ 32 := by
  simp only [fieldOf]
  omega

/-- The field of l bits from bit p, moved to the top of the word and back. -/
theorem shl_div_eq_field (a : Word) {p l : Nat} (h : p + l ≤ 32) :
    (a <<< (32 - p - l)).toNat / 2 ^ (32 - l) = a.toNat / 2 ^ p % 2 ^ l := by
  obtain ⟨k, hk⟩ := Nat.exists_eq_add_of_le h
  have hs : 32 - p - l = k := by omega
  have hm : 32 - l = p + k := by omega
  have hwidth : 2 ^ 32 = 2 ^ (p + l) * 2 ^ k := by rw [← pow_add, ← hk]
  rw [BitVec.toNat_shiftLeft, Nat.shiftLeft_eq, hs, hm, hwidth, Nat.mul_mod_mul_right, pow_add 2 p k,
    Nat.mul_div_mul_right _ _ (by positivity), pow_add, Nat.mod_mul_right_div_self]

theorem bfx_n32 (a b : Word) : bfx 0#3 a b = extracted 0 a b := by
  have hfield := shl_div_eq_field a (fieldOf_le b)
  apply BitVec.eq_of_toNat_eq
  simp only [bfx, extracted, fieldPos_eq, fieldLen_eq]
  by_cases hl : (fieldOf b).2 = 0
  · simp [hl, Nat.mod_one]
  · simp only [hl, if_false, if_true, BitVec.toNat_ushiftRight, Nat.shiftRight_eq_div_pow, hfield]
    simpa using (Nat.mod_le _ _).trans_lt ((Nat.div_le_self _ _).trans_lt a.isLt)

/-- An arithmetic shift to the right, by the bits that it keeps and the sign. -/
theorem sshiftRight_eq_ite (y : Word) {l : Nat} (hl : l ≠ 0) (hle : l ≤ 32) :
    y.sshiftRight (32 - l) =
      if (y.toNat / 2 ^ (32 - l)).testBit (l - 1) then
        BitVec.ofInt 32 ((y.toNat / 2 ^ (32 - l) : Nat) - 2 ^ l)
      else BitVec.ofNat 32 (y.toNat / 2 ^ (32 - l)) := by
  have hmsb : (y.toNat / 2 ^ (32 - l)).testBit (l - 1) = y.msb := by
    rw [Nat.testBit_div_two_pow, BitVec.msb_eq_getLsbD_last, BitVec.getLsbD]
    congr 1
    omega
  have hwidth : (4294967296 : Int) = 2 ^ l * 2 ^ (32 - l) := by rw [← pow_add, Nat.add_sub_cancel' hle]; rfl
  rw [hmsb, BitVec.sshiftRight_eq, Int.shiftRight_eq_div_pow, BitVec.toInt_eq_msb_cond]
  push_cast
  split
  · rw [hwidth, Int.sub_eq_add_neg, ← Int.neg_mul, Int.add_mul_ediv_right _ _ (by positivity), Int.sub_eq_add_neg]
  · norm_cast

theorem bfx_s32 (a b : Word) : bfx 1#3 a b = extracted 1 a b := by
  have hfield := shl_div_eq_field a (fieldOf_le b)
  have hle := fieldOf_le b
  simp only [bfx, extracted, fieldPos_eq, fieldLen_eq]
  by_cases hl : (fieldOf b).2 = 0
  · simp [hl, Nat.mod_one]
  · rw [if_neg hl, sshiftRight_eq_ite _ hl (by omega), hfield]
    simp [Nat.pos_of_ne_zero hl]

theorem bfx_eq_extracted {x : BitVec 3} (hx : inMask 0x03 x = true) (a b : Word) :
    bfx x a b = extracted x.toNat a b := by
  obtain rfl | rfl := eq_of_inMask_two hx
  · exact bfx_n32 a b
  · exact bfx_s32 a b

/-- What BFI leaves, its three parts side by side. -/
theorem inserted_eq_or (d a b : Word) :
    inserted d a b =
      (d.toNat / 2 ^ ((fieldOf b).1 + (fieldOf b).2)) <<< ((fieldOf b).1 + (fieldOf b).2) |||
        ((a.toNat % 2 ^ (fieldOf b).2) <<< (fieldOf b).1 ||| d.toNat % 2 ^ (fieldOf b).1) := by
  have hlow : d.toNat % 2 ^ (fieldOf b).1 < 2 ^ (fieldOf b).1 := Nat.mod_lt _ (by positivity)
  have hmid : a.toNat % 2 ^ (fieldOf b).2 < 2 ^ (fieldOf b).2 := Nat.mod_lt _ (by positivity)
  rw [← Nat.shiftLeft_add_eq_or_of_lt hlow, ← Nat.shiftLeft_add_eq_or_of_lt, Nat.shiftLeft_eq, Nat.shiftLeft_eq,
    ← Nat.add_assoc]
  · rfl
  · rw [Nat.shiftLeft_eq, pow_add]
    have hpart := Nat.mul_le_mul_right (2 ^ (fieldOf b).1) (Nat.succ_le_of_lt hmid)
    rw [Nat.succ_mul] at hpart
    linarith

theorem toNat_bfi (d a b : Word) : (bfi d a b).toNat = inserted d a b := by
  have hle := fieldOf_le b
  rw [inserted_eq_or]
  apply Nat.eq_of_testBit_eq
  intro k
  rw [← BitVec.getLsbD]
  simp only [bfi, fieldPos_eq, fieldLen_eq, BitVec.getLsbD_or, BitVec.getLsbD_and, BitVec.getLsbD_not,
    BitVec.getLsbD_ofNat, BitVec.getLsbD_shiftLeft, Nat.testBit_or, Nat.testBit_shiftLeft, Nat.testBit_div_two_pow,
    Nat.testBit_mod_two_pow, Nat.testBit_mul_two_pow, Nat.testBit_two_pow_sub_one, BitVec.testBit_toNat]
  generalize (fieldOf b).1 = p, (fieldOf b).2 = l at hle
  rcases Nat.lt_or_ge k p with hp | hp
  · -- below the field
    simp [hp, Nat.not_le.2 hp, show k < 32 by omega, show ¬p + l ≤ k by omega]
  rcases Nat.lt_or_ge k (p + l) with hl | hl
  · -- in the field
    simp [hp, Nat.not_lt.2 hp, Nat.not_le.2 hl, show k < 32 by omega, show k - p < l by omega]
  · -- above the field
    simpa [hp, hl, Nat.not_lt.2 hp, show ¬k - p < l by omega] using d.lt_of_getLsbD (i := k)

/-! ## BIT (R156) -/

theorem foldl_count_eq_length_filter {α : Type} (p : α → Bool) (l : List α) (n : Nat) :
    l.foldl (fun k i => if p i then k + 1 else k) n = n + (l.filter p).length := by
  induction l generalizing n with
  | nil => rfl
  | cons i l ih =>
    rw [List.foldl_cons, ih, List.filter_cons]
    split <;> simp [Nat.add_comm, Nat.add_left_comm]

theorem toNat_popc (a : Word) : (bitCount 0#3 a).toNat = counted 0 a := by
  have hcount : popCount 32 a.toNat = counted 0 a := by
    rw [popCount, foldl_count_eq_length_filter, Nat.zero_add]
    rfl
  have hlt : counted 0 a < 2 ^ 32 := lt_of_le_of_lt (List.length_filter_le ..) (by simp)
  rw [← hcount] at hlt ⊢
  exact (BitVec.toNat_ofNat ..).trans (Nat.mod_eq_of_lt hlt)

theorem toNat_clz (a : Word) : (bitCount 1#3 a).toNat = counted 1 a := by
  by_cases ha : a = 0#32
  · simp [bitCount, counted, ha]
  · have ha' : a.toNat ≠ 0 := fun h => ha (BitVec.eq_of_toNat_eq h)
    have hsize : Nat.size a.toNat = Nat.log2 a.toNat + 1 :=
      le_antisymm (Nat.size_le.2 Nat.lt_log2_self) (Nat.lt_size.2 (Nat.log2_self_le ha'))
    have hcount : bitCount 1#3 a = BitVec.ofNat 32 (31 - Nat.log2 a.toNat) := by simp [bitCount, ha]
    have hrule : counted 1 a = 32 - Nat.size a.toNat := rfl
    rw [hcount, hrule, hsize, BitVec.toNat_ofNat]
    omega

theorem toNat_brev (a : Word) : (bitCount 2#3 a).toNat = counted 2 a := by
  have hbits : (bitCount 2#3 a).toNat = ofBits (fun k => a.getLsbD (31 - k)) 32 :=
    toNat_eq_ofBits _ fun k hk => by
      rw [show bitCount 2#3 a = a.reverse from rfl, BitVec.getLsbD_reverse, BitVec.getMsbD, decide_eq_true hk,
        Bool.true_and]
  rw [hbits, ofBits_eq_sum, ← Finset.sum_range_reflect]
  refine (Finset.sum_congr rfl fun k hk => ?_ : _ = ∑ k ∈ Finset.range 32, if a.getLsbD k then 2 ^ (31 - k) else 0)
  have hlt := Finset.mem_range.1 hk
  rw [Nat.sub_sub_self (by omega : k ≤ 31)]

theorem toNat_bitCount {x : BitVec 3} (hx : inMask 0x07 x = true) (a : Word) :
    (bitCount x a).toNat = counted x.toNat a := by
  obtain rfl | rfl | rfl := eq_of_inMask_three hx
  · exact toNat_popc a
  · exact toNat_clz a
  · exact toNat_brev a

/-! ## IDOT4 (R162) -/

theorem idot4_eq {x : BitVec 3} (hx : inMask 0x07 x = true) (d a b : Word) :
    idot4 x d a b =
      BitVec.ofInt 32 (d.toInt + dotTerm x.toNat a b 0 + dotTerm x.toNat a b 1 + dotTerm x.toNat a b 2 +
        dotTerm x.toNat a b 3) := by
  obtain rfl | rfl | rfl := eq_of_inMask_three hx
  all_goals rfl

end Sys2Proof.Machine
end

section
/-!
PROOFS. The words of logic and bits, of moves and constants and of predicates (R75, R142, R151 to R163): each issues
with the value of its rule on every member.
-/

namespace Sys2Proof.Machine

open Sys2Proof.Spec

/-! ## Words with one register result -/

/-- A word with a 32-bit result does what its rule says where the value is that of its rule. -/
theorem does_put32 {i : Instr} {c : Bool} {d : BitVec 7} {w : Env → Fibre → Word} {v : Env → Fibre → Nat}
    (hexec : ∀ s, exec i s = s.issueEach i c fun e fb => fb.put32 e .A d (w e fb))
    (hvalue : ∀ mp window, i.cause mp window = none → ∀ e fb, (w e fb).toNat = v e fb) :
    Does i c fun e fb => fb.put e .A d 1 (v e fb) :=
  does_of_issueEach_of_legal hexec (fun mp window h e fb => by rw [← hvalue mp window h e fb, Fibre.put32])
    fun _ _ => put_fid ..

/-! ## Logic and bits (R151, R153 to R156, R162) -/

theorem does_logicWords (f : F3) : ∀ w ∈ logicWords f, Does w.1 f.c w.2 := by
  intro w hw
  simp only [logicWords, List.mem_cons, List.not_mem_nil, or_false] at hw
  obtain rfl | rfl | rfl | rfl | rfl | rfl | rfl := hw
  · -- IMM
    exact does_put32 (fun _ => rfl) fun _ _ h _ _ => congrArg _ (imm_eq (xOk_of_cause_eq_none rfl h) _ _)
  · -- LOG
    exact does_put32 (fun _ => rfl) fun _ _ _ _ _ => toNat_logic ..
  · -- SHF
    exact does_put32 (fun _ => rfl) fun _ _ h _ _ => toNat_shf (xOk_of_cause_eq_none rfl h) ..
  · -- BFX
    exact does_put32 (fun _ => rfl) fun _ _ h _ _ => congrArg _ (bfx_eq_extracted (xOk_of_cause_eq_none rfl h) _ _)
  · -- BFI
    exact does_put32 (fun _ => rfl) fun _ _ _ _ _ => toNat_bfi ..
  · -- BIT
    exact does_put32 (fun _ => rfl) fun _ _ h _ _ => toNat_bitCount (xOk_of_cause_eq_none rfl h) _
  · -- IDOT4
    exact does_put32 (fun _ => rfl) fun _ _ h _ _ => congrArg _ (idot4_eq (xOk_of_cause_eq_none rfl h) ..)

theorem cause_of_undefined_logic (f : F3) :
    ∀ w ∈ [(Instr.imm f, 4), (.shf f, 5), (.bfx f, 2), (.bfi f, 1), (.bit f, 3), (.idot4 f, 3), (.mov f, 2)],
      w.2 ≤ f.x.toNat → ∀ mp window, w.1.cause mp window = some 2 := by
  intro w hw h
  simp only [List.mem_cons, List.not_mem_nil, or_false] at hw
  obtain rfl | rfl | rfl | rfl | rfl | rfl | rfl := hw
  all_goals exact cause_eq_two_of_xOk_eq_false rfl (inMask_eq_false_of_le h) rfl rfl rfl

theorem logicResult : LogicResult := fun f => ⟨does_logicWords f, cause_of_undefined_logic f⟩

/-! ## Moves and constants (R75, R157 to R159, R161) -/

/-- NOP passes its place and changes no fibre. -/
theorem does_nop (f : F3) : Does (.nop f) f.c fun _ fb => fb := by
  rintro s r g ⟨hrun, -, hlegal⟩
  refine ⟨s.retire f.c, issue_ok (more := noCheck) hrun hlegal f.c rfl fun s _ => s, fun h k => ?_, fun _ => rfl, rfl,
    pastWord_retire hrun rfl rfl rfl f.c⟩
  rw [fibre?_retire, Option.map_id', ite_self]

/-- The sum of LEA, modulo 2^64 (R157). -/
theorem toNat_add_signExtend_shiftLeft (a : DWord) (b : Word) (x : Nat) :
    (a + (b.signExtend 64 <<< x)).toNat = (a.toNat + (b.toInt * 2 ^ x % 2 ^ 64).toNat) % 2 ^ 64 := by
  have hshift : b.signExtend 64 <<< x = BitVec.ofInt 64 (b.toInt * 2 ^ x) := by
    have hpow : BitVec.twoPow 64 x = BitVec.ofInt 64 (2 ^ x) := by
      have hcast : (2 : Int) ^ x = (2 ^ x : Nat) := by push_cast; rfl
      rw [hcast, BitVec.ofInt_natCast]
      exact BitVec.eq_of_toNat_eq (by simp)
    rw [BitVec.shiftLeft_eq_mul_twoPow, BitVec.ofInt_mul, hpow]
    rfl
  rw [BitVec.toNat_add, hshift, BitVec.toNat_ofInt]
  rfl

/-- The constant of LIMH: K above the low 15 bits of the latch (R161). -/
theorem toNat_limh (k : BitVec 17) (la0 : DWord) : (limh k la0).toNat = k.toNat * 2 ^ 15 + la0.toNat % 2 ^ 15 := by
  have hlow : la0.toNat % 2 ^ 15 < 2 ^ 15 := Nat.mod_lt _ (by decide)
  have hhigh : (k ++ 0#15 : BitVec 32).toNat = k.toNat <<< 15 := by
    simpa using BitVec.toNat_append k 0#15
  rw [limh, BitVec.toNat_or, hhigh, BitVec.toNat_setWidth, BitVec.extractLsb'_toNat, Nat.shiftRight_zero,
    Nat.mod_eq_of_lt (hlow.trans (by decide)), ← Nat.shiftLeft_add_eq_or_of_lt hlow, Nat.shiftLeft_eq]

theorem does_moveWords (f : F3) : ∀ w ∈ moveWords f, Does w.1 f.c w.2 := by
  intro w hw
  simp only [moveWords, List.mem_cons, List.not_mem_nil, or_false] at hw
  obtain rfl | rfl | rfl | rfl := hw
  · exact does_nop f
  · -- MOV
    refine does_of_issueEach_of_legal (fun _ => rfl) (fun _ _ h e fb => ?_) fun _ _ => ?_
    · obtain hx | hx : f.x = 0#3 ∨ f.x = 1#3 := eq_of_inMask_two (xOk_of_cause_eq_none rfl h)
      · simp [hx, Fibre.put32]
      · simp [hx, Fibre.put64]
    · split <;> exact put_fid ..
  · -- SEL
    exact does_put32 (fun _ => rfl) fun _ _ _ _ fb => by simp [Fibre.pred]
  · -- LEA
    exact does_of_issueEach (fun _ => rfl)
      (fun _ _ => by rw [Fibre.put64, toNat_add_signExtend_shiftLeft]) fun _ _ => put_fid ..

theorem does_constantWords (f : FK) : ∀ w ∈ constantWords f, Does w.1 f.c w.2 := by
  intro w hw
  simp only [constantWords, List.mem_cons, List.not_mem_nil, or_false] at hw
  obtain rfl | rfl := hw
  · -- LIM
    exact does_put32 (fun _ => rfl) fun _ _ _ _ _ => rfl
  · -- LIMH
    exact does_put32 (fun _ => rfl) fun _ _ _ _ _ => toNat_limh ..

theorem moveResult : MoveResult := ⟨does_moveWords, does_constantWords⟩

/-! ## Predicates (R52, R142, R152, R153, R163) -/

theorem pred_eq_predOf (fb : Fibre) (k : Nat) : fb.pred k = predOf fb k := by
  unfold Fibre.pred predOf
  split <;> simp_all

/-- Predicates written by hand, p0 left as it stands: those that the rule says. -/
theorem eq_withPreds {fb : Fibre} {m : BitVec 96} {v : Nat → Bool} (hzero : m.getLsbD 0 = fb.ctx.preds.getLsbD 0)
    (hm : ∀ k, k ≠ 0 → k < 96 → m.getLsbD k = v k) :
    { fb with ctx := { fb.ctx with preds := m } } = withPreds fb v := by
  have hbits : m.toNat = ofBits (fun k => if k = 0 then fb.ctx.preds.getLsbD 0 else v k) 96 :=
    toNat_eq_ofBits m fun k hk => by
      split
      · next h => rw [h, hzero]
      · next h => exact hm k h hk
  rw [withPreds, ← hbits, BitVec.ofNat_toNat, BitVec.setWidth_eq]

theorem putPred_eq_withPreds (fb : Fibre) {p : Nat} (hp : p < 96) (v : Bool) :
    fb.putPred p v = withPreds fb fun k => if k = p then v else fb.ctx.preds.getLsbD k := by
  refine eq_withPreds ?_ fun k hk hlt => ?_
  · by_cases h : p = 0
    · rw [h, setPred, if_pos rfl]
    · rw [getLsbD_setPred _ h hp, if_neg (Ne.symm h)]
  · by_cases h : p = 0
    · rw [h, setPred, if_pos rfl, if_neg hk]
    · exact getLsbD_setPred _ h hp v k

/-- A word with a predicate result does what its rule says where the condition is that of its rule. -/
theorem does_putPred {i : Instr} {c : Bool} {d : BitVec 7} {w v : Env → Fibre → Bool}
    (hexec : ∀ s, exec i s = s.issueEach i c fun e fb => fb.putPred d.toNat (w e fb))
    (hd : ∀ mp window, i.cause mp window = none → d.toNat < 96) (hvalue : ∀ e fb, w e fb = v e fb) :
    Does i c fun e fb => withPreds fb fun k => if k = d.toNat then v e fb else fb.ctx.preds.getLsbD k :=
  does_of_issueEach_of_legal hexec
    (fun mp window h e fb => by rw [putPred_eq_withPreds fb (hd mp window h), hvalue]) fun _ _ => rfl

theorem and_ne_zero_iff (a b : Word) : a &&& b ≠ 0#32 ↔ ∃ k < 32, a.getLsbD k = true ∧ b.getLsbD k = true := by
  rw [not_iff_comm]
  constructor
  · intro h
    refine BitVec.eq_of_getLsbD_eq fun k hk => ?_
    rw [BitVec.getLsbD_and, BitVec.getLsbD_zero, Bool.and_eq_false_iff]
    by_contra hbits
    exact h ⟨k, hk, by simpa using hbits⟩
  · rintro h ⟨k, -, ha, hb⟩
    have hbit : (a &&& b).getLsbD k = true := by rw [BitVec.getLsbD_and, ha, hb]; rfl
    simp [h] at hbit

theorem icmp_eq_compared (x : BitVec 3) (a b : Word) : icmp x a b = compared x.toNat a b := by
  have htest : (a &&& b != 0) = (List.range 32).any fun k => a.getLsbD k && b.getLsbD k := by
    rw [Bool.eq_iff_iff, bne_iff_ne, List.any_eq_true]
    simpa using and_ne_zero_iff a b
  have hntest : (a &&& b == 0) = (List.range 32).all fun k => !(a.getLsbD k && b.getLsbD k) := by
    rw [← List.not_any_eq_all_not, ← htest, bne, Bool.not_not]
  obtain rfl | rfl | rfl | rfl | rfl | rfl | rfl | rfl := variant_cases x
  · -- eq
    exact Bool.beq_eq_decide_eq a b
  · -- ne
    exact (congrArg (!·) (Bool.beq_eq_decide_eq a b)).trans decide_not.symm
  · rfl -- lts
  · rfl -- les
  · rfl -- ltn
  · rfl -- len
  · exact htest
  · exact hntest

theorem logic_ofBool (x : BitVec 3) (p q : Bool) :
    (logic x (BitVec.ofBool p) (BitVec.ofBool q) == 1#1) = bitOp x.toNat p q := by
  have hone (v : BitVec 1) : (v == 1#1) = v.getLsbD 0 := by revert v; decide
  rw [hone, getLsbD_logic x _ _ (by decide)]
  simp

/-- The predicates as PRD reads them, p0 as 1 (R142, R163). -/
theorem getLsbD_preds_or_one (fb : Fibre) {k : Nat} (hk : k < 96) : (fb.snap.preds ||| 1).getLsbD k = predOf fb k := by
  unfold predOf
  split <;> simp_all

theorem toNat_slice (x : BitVec 3) (hx : inMask 0x07 x = true) (fb : Fibre) :
    (slice x (fb.snap.preds ||| 1)).toNat = ofBits (fun k => predOf fb (32 * x.toNat + k)) 32 := by
  have hlt : x.toNat < 3 := lt_of_inMask (n := 3) hx
  refine toNat_eq_ofBits _ fun k hk => ?_
  rw [slice, BitVec.getLsbD_extractLsb', decide_eq_true hk, Bool.true_and, getLsbD_preds_or_one fb (by omega)]

/-- A word of predicates in its place among the 96. -/
theorem getLsbD_setWidth_shiftLeft (v : Word) (x : Nat) {k : Nat} (hk : k < 96) :
    (v.setWidth 96 <<< (32 * x)).getLsbD k = (decide (k / 32 = x) && v.getLsbD (k % 32)) := by
  rw [BitVec.getLsbD_shiftLeft, BitVec.getLsbD_setWidth, decide_eq_true hk, Bool.true_and]
  by_cases hx : k / 32 = x
  · have hplace : k - 32 * x = k % 32 := by omega
    simp [hx, hplace, show ¬k < 32 * x by omega, show k % 32 < 96 by omega]
  · by_cases hlow : k < 32 * x
    · simp [hx, hlow]
    · simp [hx, v.getLsbD_of_ge (k - 32 * x) (by omega)]

theorem getLsbD_setSlice (x : BitVec 3) (m : BitVec 96) (a mask : Word) {k : Nat} (hk : k < 96) :
    (setSlice x m a mask).getLsbD k =
      if k / 32 = x.toNat ∧ mask.getLsbD (k % 32) then a.getLsbD (k % 32) else m.getLsbD k := by
  simp only [setSlice, BitVec.getLsbD_or, BitVec.getLsbD_and, BitVec.getLsbD_not, getLsbD_setWidth_shiftLeft _ _ hk, hk]
  by_cases hx : k / 32 = x.toNat <;> cases mask.getLsbD (k % 32) <;> simp [hx]

/-- PWR's mask within its slice, p0 left out (R142, R163). -/
theorem getLsbD_pwrMask (x : BitVec 3) (b : Word) {k : Nat} (hx : k / 32 = x.toNat) :
    (if x = 0 then b &&& ~~~1 else b).getLsbD (k % 32) = (decide (k ≠ 0) && b.getLsbD (k % 32)) := by
  have hzero : x = 0 ↔ k / 32 = 0 := by rw [hx]; exact BitVec.toNat_eq
  split
  · next h =>
    have hmod : k % 32 = 0 ↔ k = 0 := by have := hzero.1 h; omega
    rw [BitVec.getLsbD_and, BitVec.getLsbD_not, show (1 : Word) = 1#32 from rfl, BitVec.getLsbD_one, Bool.and_comm]
    simp [hmod, Nat.mod_lt]
  · next h =>
    have hk : k ≠ 0 := fun hk => h (hzero.2 (by rw [hk]))
    simp [hk]

theorem setSlice_eq_withPreds (x : BitVec 3) (fb : Fibre) (a b : Word) :
    { fb with ctx := { fb.ctx with preds := setSlice x fb.ctx.preds a (if x = 0 then b &&& ~~~1 else b) } } =
      withPreds fb fun k =>
        if k / 32 = x.toNat ∧ b.getLsbD (k % 32) then a.getLsbD (k % 32) else fb.ctx.preds.getLsbD k := by
  refine eq_withPreds ?_ fun k hk hlt => ?_
  · rw [getLsbD_setSlice _ _ _ _ (by decide)]
    exact if_neg fun ⟨hx, hmask⟩ => by
      rw [getLsbD_pwrMask x b hx] at hmask
      cases hmask
  · rw [getLsbD_setSlice _ _ _ _ hlt]
    refine if_congr (and_congr_right fun hx => ?_) rfl rfl
    rw [getLsbD_pwrMask x b hx, decide_eq_true hk, Bool.true_and]

theorem does_predicateWords (f : F3) : ∀ w ∈ predicateWords f, Does w.1 f.c w.2 := by
  intro w hw
  simp only [predicateWords, List.mem_cons, List.not_mem_nil, or_false] at hw
  obtain rfl | rfl | rfl | rfl := hw
  · -- ICMP
    exact does_putPred (fun _ => rfl) (fun _ _ h => d_lt_of_cause_eq_none rfl rfl h) fun _ _ => icmp_eq_compared ..
  · -- PLOG
    exact does_putPred (fun _ => rfl) (fun _ _ h => d_lt_of_cause_eq_none rfl rfl h) fun _ fb => by
      rw [logic_ofBool, pred_eq_predOf, pred_eq_predOf]
  · -- PRD
    exact does_put32 (fun _ => rfl) fun _ _ h _ fb => toNat_slice _ (xOk_of_cause_eq_none rfl h) fb
  · -- PWR
    exact does_of_issueEach (fun _ => rfl) (fun _ fb => setSlice_eq_withPreds _ fb ..) fun _ _ => rfl

theorem cause_of_undefined_predicate (f : F3) :
    ∀ i ∈ [Instr.prd f, .pwr f], 3 ≤ f.x.toNat → ∀ mp window, i.cause mp window = some 2 := by
  intro i hi h
  simp only [List.mem_cons, List.not_mem_nil, or_false] at hi
  obtain rfl | rfl := hi
  all_goals exact cause_eq_two_of_xOk_eq_false rfl (inMask_eq_false_of_le h) rfl rfl rfl

theorem predicateResult : PredicateResult := fun f => ⟨does_predicateWords f, cause_of_undefined_predicate f⟩

end Sys2Proof.Machine

open Sys2Proof.Machine in
/-- Settles O2: the functions of the model have the bits and the values that the rules give for every legal variant. -/
theorem logicMoveAndPredicateResults : Obligations.LogicMoveAndPredicateResults :=
  ⟨logicResult, moveResult, predicateResult⟩
end

section
/-!
PROOFS. The words with deferrable results and the conversions (R66, R150, R187 to R192): their operands, types, rounding
and flags are those of their rules.
-/

namespace Sys2Proof.Machine

open Sys2Proof.Spec

/-! ## Flags and rounding (R168, R170, R172) -/

theorem flagBits_eq (fl : BitVec 5) : flagBits fl = BitVec.ofNat 32 (fl.toNat * 256) := by
  revert fl; decide

/-- Flags raised are merged as R170 says. -/
theorem raiseFlags_eq_merged (fb : Fibre) (fl : BitVec 5) : fb.raiseFlags fl = merged fb fl := by
  rw [Fibre.raiseFlags, merged, flagBits_eq]

theorem putF_eq_floatPut (fb : Fibre) (e : Env) (f : F3) (n : Nat) (r : Nat × BitVec 5) :
    fb.putF e f n r = floatPut e f.d n r fb := raiseFlags_eq_merged _ _

@[simp] theorem putF_fid (fb : Fibre) (e : Env) (f : F3) (n : Nat) (r : Nat × BitVec 5) :
    (fb.putF e f n r).fid = fb.fid := put_fid ..

theorem rm_eq (fb : Fibre) : fb.rm = fb.snap.fpctl.toNat % 4 := by
  simp [Fibre.rm]

/-- Rounding and its flags, in the order in which R172 merges them. -/
theorem finish_eq_roundedOnce (t : Fmt) (fb : Fibre) (r : FVal × BitVec 5) :
    t.finish (modeOf fb.rm) fb.fz r = roundedOnce t fb r := by
  rw [rm_eq, roundedOnce, Fmt.finish, BitVec.or_comm]
  rfl

/-! ## Types (R165, R180) -/

theorem typeFmt_eq {t : Nat} (ht : t < 4) : typeFmt t = (typeOf t).1 := by
  interval_cases t <;> rfl

/-- An operation on a type, once or on two halves (R166). -/
theorem onType_eq_elementwise {t : Nat} (ht : t < 4) (mode : Mode) (fz : Bool) (op : ElemOp) (d a b : Nat) :
    onType t mode fz op d a b = elementwise t (fun fmt => op fmt mode fz) d a b := by
  interval_cases t
  all_goals simp [onType, elementwise, typeFmt_eq, typeOf, Nat.mul_comm]

/-- An operation that does not read D gives the same whatever stands there. -/
theorem elementwise_congr_of_unread {t : Nat} {op op' : Fmt → Nat → Nat → Nat → Nat × BitVec 5}
    (hop : ∀ fmt d d' a b, op fmt d a b = op' fmt d' a b) (d d' a b : Nat) :
    elementwise t op d a b = elementwise t op' d' a b := by
  simp only [elementwise, hop _ d d', hop _ (d % 65536) (d' % 65536), hop _ (d / 65536) (d' / 65536)]

theorem pairIf_eq_typeRegs (x : Nat) : pairIf (x = 1) = typeRegs x := by
  simp [pairIf, typeRegs]

/-- A word of the type family with a deferrable result, whose element operation does not read D: it gives what that
operation gives on each element. -/
theorem does_typedLater {i : Instr} {f : F3} {op : ElemOp}
    (hexec : ∀ s, exec i s = s.issueEach i f.c (typedLater op f))
    (hx : ∀ mp window, i.cause mp window = none → f.x.toNat < 4)
    (hop : ∀ fb t d d' a b, op t (modeOf fb.rm) fb.fz d a b = elementOp i fb t d' a b) :
    Does i f.c fun e fb =>
      fb.putLater e .F f.d (typeRegs f.x.toNat) (typedResult i f e fb).1 (typedResult i f e fb).2 :=
  does_of_issueEach_of_legal hexec
    (fun mp window h e fb => by
      simp only [typedLater, onType_eq_elementwise (hx mp window h), pairIf_eq_typeRegs, typedResult,
        elementwise_congr_of_unread (hop fb) 0 (e.facc fb f.x.toNat f.d)])
    fun _ _ => putLater_fid ..

/-! ## IDIV (R150) -/

section
variable {n : Nat} (a b : BitVec n)

theorem ofInt_tdiv_toInt : BitVec.ofInt n (a.toInt.tdiv b.toInt) = a.sdiv b :=
  BitVec.eq_of_toInt_eq (by rw [BitVec.toInt_ofInt, BitVec.toInt_sdiv])

theorem ofInt_tmod_toInt : BitVec.ofInt n (a.toInt.tmod b.toInt) = a.srem b := by
  rw [← BitVec.toInt_srem, BitVec.ofInt_toInt]

theorem ofInt_ediv_toNat : BitVec.ofInt n (a.toNat / b.toNat) = a / b := by
  norm_cast
  rw [BitVec.ofInt_natCast, ← BitVec.toNat_udiv, BitVec.ofNat_toNat, BitVec.setWidth_eq]

theorem ofInt_emod_toNat : BitVec.ofInt n (a.toNat % b.toNat) = a % b := by
  norm_cast
  rw [BitVec.ofInt_natCast, ← BitVec.toNat_umod, BitVec.ofNat_toNat, BitVec.setWidth_eq]
end

theorem idiv_eq_divided {x : BitVec 3} (hx : inMask 0x0F x = true) (a b : Word) : idiv x a b = divided x.toNat a b := by
  by_cases hb : b = 0#32
  · obtain rfl | rfl | rfl | rfl := eq_of_inMask_four hx
    all_goals simp [idiv, divided, hb]
  · obtain rfl | rfl | rfl | rfl := eq_of_inMask_four hx
    · simp [idiv, divided, hb, ofInt_tdiv_toInt]
    · simp [idiv, divided, hb, ofInt_ediv_toNat]
    · simp [idiv, divided, hb, ofInt_tmod_toInt]
    · simp [idiv, divided, hb, ofInt_emod_toNat]

/-! ## The words -/

theorem does_deferredWords (f : F3) : ∀ w ∈ deferredWords f, Does w.1 f.c w.2 := by
  intro w hw
  simp only [deferredWords, List.mem_cons, List.not_mem_nil, or_false] at hw
  obtain rfl | rfl | rfl | rfl := hw
  · -- IDIV
    refine does_of_issueEach_of_legal (fun _ => rfl) (fun _ _ h e fb => ?_) fun _ _ => putLater_fid ..
    rw [idiv_eq_divided (xOk_of_cause_eq_none rfl h)]
  · -- FDIV
    exact does_typedLater (fun _ => rfl) (fun _ _ h => lt_of_inMask (n := 4) (xOk_of_cause_eq_none rfl h))
      fun fb t _ _ _ _ => finish_eq_roundedOnce t fb _
  · -- FSQRT
    exact does_typedLater (fun _ => rfl) (fun _ _ h => lt_of_inMask (n := 4) (xOk_of_cause_eq_none rfl h))
      fun fb t _ _ _ _ => finish_eq_roundedOnce t fb _
  · -- SFU
    exact does_of_issueEach (fun _ => rfl) (fun _ _ => by simp only [rm_eq, Fibre.fz]) fun _ _ => putLater_fid ..

theorem cause_of_undefined_deferred (f : F3) :
    ∀ w ∈ [(Instr.idiv f, 4), (.sfu f, 6)], w.2 ≤ f.x.toNat → ∀ mp window, w.1.cause mp window = some 2 := by
  intro w hw h
  simp only [List.mem_cons, List.not_mem_nil, or_false] at hw
  obtain rfl | rfl := hw
  all_goals exact cause_eq_two_of_xOk_eq_false rfl (inMask_eq_false_of_le h) rfl rfl rfl

theorem deferredResult : DeferredResult := fun f => ⟨does_deferredWords f, cause_of_undefined_deferred f⟩

/-! ## Conversions (R189 to R192) -/

theorem cvtMode_eq (x : BitVec 3) (fb : Fibre) :
    cvtMode x fb.rm = if x.toNat = 5 then modeOf (fb.snap.fpctl.toNat % 4) else modeOf x.toNat := by
  have hfive : x = 5 ↔ x.toNat = 5 := BitVec.toNat_eq
  simp only [cvtMode, hfive, rm_eq, apply_ite modeOf]

theorem toNat_srcCode (b : BitVec 7) : (b.extractLsb' 3 3).toNat = b.toNat / 8 % 8 := by
  rw [BitVec.extractLsb'_toNat, Nat.shiftRight_eq_div_pow]

theorem toNat_dstCode (b : BitVec 7) : (b.extractLsb' 0 3).toNat = b.toNat % 8 :=
  BitVec.extractLsb'_toNat ..

theorem toNat_slotCode (b : BitVec 7) : (b.extractLsb' 0 4).toNat = b.toNat % 16 :=
  BitVec.extractLsb'_toNat ..

/-- Bit 6 of QCVT's code marks a decoding, whose operand is not a number (R190). -/
theorem getLsbD_six (b : BitVec 7) : b.getLsbD 6 = !decide (b.toNat < 64) := by
  revert b; decide

/-- A pair holds the result of an f64, s64 or n64 conversion (R189). -/
theorem cvtRegs_eq (t : BitVec 3) : cvtRegs t = if t.toNat = 1 ∨ t.toNat = 6 ∨ t.toNat = 7 then 2 else 1 := by
  revert t; decide

theorem lt_four_of_inMask_packed {x : BitVec 3} (h : inMask 0x0C x = true) : x.toNat < 4 := by
  revert x; decide

theorem does_convertWords (f : F3) : ∀ w ∈ convertWords f, Does w.1 f.c w.2 := by
  intro w hw
  simp only [convertWords, List.mem_cons, List.not_mem_nil, or_false] at hw
  obtain rfl | rfl | rfl | rfl | rfl := hw
  · -- CVT
    refine does_of_issueEach (fun _ => rfl) (fun e fb => ?_) fun _ _ => putF_fid ..
    rw [putF_eq_floatPut, cvtRegs_eq, cvtMode_eq, toNat_srcCode, toNat_dstCode]
    rfl
  · -- QCVT
    refine does_of_issueEach (fun _ => rfl) (fun e fb => ?_) fun _ _ => putF_fid ..
    simp only [putF_eq_floatPut, cvtMode_eq, toNat_slotCode, getLsbD_six, Bool.not_eq_true', decide_eq_false_iff_not,
      ite_not]
  · -- PK2
    refine does_of_issueEach_of_legal (fun _ => rfl) (fun _ _ h e fb => ?_) fun _ _ => putF_fid ..
    rw [putF_eq_floatPut, typeFmt_eq (lt_four_of_inMask_packed (xOk_of_cause_eq_none rfl h)), rm_eq]
    rfl
  · -- UPK2
    refine does_of_issueEach_of_legal (fun _ => rfl) (fun _ _ h e fb => ?_) fun _ _ => putF_fid ..
    rw [putF_eq_floatPut, typeFmt_eq (lt_four_of_inMask_packed (xOk_of_cause_eq_none rfl h))]
  · -- FDOT2
    refine does_of_issueEach_of_legal (fun _ => rfl) (fun _ _ h e fb => ?_) fun _ _ => putF_fid ..
    rw [putF_eq_floatPut, typeFmt_eq (lt_four_of_inMask_packed (xOk_of_cause_eq_none rfl h)), rm_eq]
    rfl

theorem convertResult : ConvertResult := does_convertWords

end Sys2Proof.Machine

open Sys2Proof.Machine in
/-- Settles O3: the operations of the two chapters on each element are those of the model's words, the types and the
rounding that the fields of a legal word name being the same. -/
theorem deferredAndConvertResults : Obligations.DeferredAndConvertResults := ⟨deferredResult, convertResult⟩
end

section
/-!
PROOFS. The element words of the F pipe and the float comparisons (R166, R170, R181 to R186): the element operations
are those of their rules, and the model's comparison in units of the smaller exponent is the order of the exact values.
-/

namespace Sys2Proof.Machine

open Sys2Proof.Spec

/-! ## Element words (R181 to R186) -/

/-- FSGN's sign and magnitude by division: the magnitude of A, negative where the two signs differ (R185). -/
theorem elemSgn_eq (t : Fmt) (mode : Mode) (fz : Bool) (d a b : Nat) :
    elemSgn t mode fz d a b =
      (a % 2 ^ t.signBit + (if a / 2 ^ t.signBit % 2 = b / 2 ^ t.signBit % 2 then 0 else 2 ^ t.signBit), 0) := by
  have hsign : (a.testBit t.signBit != b.testBit t.signBit) = true ↔
      ¬a / 2 ^ t.signBit % 2 = b / 2 ^ t.signBit % 2 := by
    rw [bne_iff_ne, Nat.testBit_eq_decide_div_mod_eq, Nat.testBit_eq_decide_div_mod_eq, ne_eq, decide_eq_decide]
    omega
  simp only [elemSgn, hsign, ite_not]

/-- A word of the type family with a result written in its run gives what its element operation gives on each
element. -/
theorem does_typed {i : Instr} {f : F3} {op : ElemOp} {sh : Shape}
    (hexec : ∀ s, exec i s = s.issueEach i f.c (typed op f))
    (hshape : i.shape = some sh) (hxOk : sh.xOk = inMask 0x0F f.x)
    (hop : ∀ fb t d a b, op t (modeOf fb.rm) fb.fz d a b = elementOp i fb t d a b) :
    Does i f.c fun e fb => floatPut e f.d (typeRegs f.x.toNat) (typedResult i f e fb) fb :=
  does_of_issueEach_of_legal hexec
    (fun _ _ h e fb => by
      have hx : f.x.toNat < 4 := lt_of_inMask (n := 4) (hxOk ▸ xOk_of_cause_eq_none hshape h)
      have hop' : (fun t => op t (modeOf fb.rm) fb.fz) = elementOp i fb := funext fun t => funext₃ (hop fb t)
      simp only [typed, putF_eq_floatPut, onType_eq_elementwise hx, hop', pairIf_eq_typeRegs, typedResult])
    fun _ _ => putF_fid ..

/-- The words of the type family, FADD to FMA rounding the exact result once, the others giving a code at once. -/
theorem does_floatWords (f : F3) : ∀ w ∈ floatWords f, Does w.1 f.c w.2 := by
  intro w hw
  simp only [floatWords, List.map_cons, List.map_nil, List.mem_cons, List.not_mem_nil, or_false] at hw
  obtain rfl | rfl | rfl | rfl | rfl | rfl | rfl | rfl := hw
  · -- FADD
    exact does_typed (fun _ => rfl) rfl rfl fun fb t _ _ _ => finish_eq_roundedOnce t fb _
  · -- FSUB
    exact does_typed (fun _ => rfl) rfl rfl fun fb t _ _ _ => finish_eq_roundedOnce t fb _
  · -- FMUL
    exact does_typed (fun _ => rfl) rfl rfl fun fb t _ _ _ => finish_eq_roundedOnce t fb _
  · -- FMA
    exact does_typed (fun _ => rfl) rfl rfl fun fb t _ _ _ => finish_eq_roundedOnce t fb _
  · -- FMIN
    exact does_typed (fun _ => rfl) rfl rfl fun _ _ _ _ _ => rfl
  · -- FMAX
    exact does_typed (fun _ => rfl) rfl rfl fun _ _ _ _ _ => rfl
  · -- FSGN
    exact does_typed (fun _ => rfl) rfl rfl fun _ _ _ _ _ => elemSgn_eq ..
  · -- FRND
    exact does_typed (fun _ => rfl) rfl rfl fun _ _ _ _ _ => rfl

/-! ## The order of exact values (R165, R184) -/

/-- A finite value counted in units of 2^q, for an exponent q not above its own. -/
theorem rational_eq_units (neg : Bool) (m : Nat) {e q : Int} (h : q ≤ e) :
    rational neg m e = (((if neg then -1 else 1) * (m * 2 ^ (e - q).toNat : Nat) : Int) : ℚ) * 2 ^ q := by
  have hexp : (2 : ℚ) ^ e = 2 ^ (e - q).toNat * 2 ^ q := by
    rw [← zpow_natCast, Int.toNat_of_nonneg (Int.sub_nonneg_of_le h), ← zpow_add₀ two_ne_zero, Int.sub_add_cancel]
  rw [rational, hexp]
  push_cast
  ring

/-- Two finite values compare as their counts of the smaller unit do. -/
theorem flt_fin (n n' : Bool) (m m' : Nat) (e e' : Int) :
    flt (.fin n m e) (.fin n' m' e') = decide (rational n m e < rational n' m' e') := by
  rw [rational_eq_units n m (min_le_left e e'), rational_eq_units n' m' (min_le_right e e'), flt,
    decide_eq_decide, mul_lt_mul_iff_left₀ (zpow_pos two_pos _), Int.cast_lt]

/-- On numbers the model's order is that of the exact values. -/
theorem flt_eq_below {a b : FVal} (ha : isNaN a = false) (hb : isNaN b = false) : flt a b = below a b := by
  cases a with
  | nan => cases ha
  | inf n =>
    cases b with
    | nan => cases hb
    | inf n' => cases n <;> cases n' <;> rfl
    | fin => cases n <;> rfl
  | fin =>
    cases b with
    | nan => cases hb
    | inf n' => cases n' <;> rfl
    | fin => exact flt_fin ..

/-- A NaN lies below nothing and above nothing. -/
theorem below_eq_false_of_isNaN {a b : FVal} (h : (isNaN a || isNaN b) = true) : below a b = false := by
  cases a <;> cases b <;> simp_all [isNaN, below]

theorem below_asymm {a b : FVal} (h : below a b = true) : below b a = false := by
  cases a with
  | nan => cases h
  | inf n => cases n <;> cases b <;> simp_all [below]
  | fin =>
    cases b with
    | nan => cases h
    | inf n => cases n <;> simp_all [below]
    | fin => exact decide_eq_false (lt_asymm (of_decide_eq_true h))

/-! ## Comparisons (R184) -/

theorem isNan_eq_isNaN (a : FVal) : a.isNan = isNaN a := by cases a <;> rfl

theorem isSnan_eq_isSignalling (a : FVal) : a.isSnan = isSignalling a := by cases a <;> rfl

section
variable (a b : FVal)

theorem isNan_or_isNan : (a.isNan || b.isNan) = (isNaN a || isNaN b) := by
  rw [isNan_eq_isNaN, isNan_eq_isNaN]

theorem snanFlag_pair : snanFlag [a, b] = if isSignalling a || isSignalling b then 1 else 0 := by
  simp [snanFlag, isSnan_eq_isSignalling, flNV]

/-- Less: the model's order where neither operand is a NaN. -/
theorem ordered_and_flt : (!(a.isNan || b.isNan) && flt a b) = below a b := by
  rw [isNan_or_isNan]
  cases hun : isNaN a || isNaN b
  · obtain ⟨ha, hb⟩ := Bool.or_eq_false_iff.1 hun
    exact flt_eq_below ha hb
  · exact (below_eq_false_of_isNaN hun).symm

/-- Greater: the same with the operands exchanged. -/
theorem ordered_and_flt_swap : (!(a.isNan || b.isNan) && flt b a) = below b a := by
  rw [Bool.or_comm, ordered_and_flt]

/-- Equal: neither operand is a NaN, and neither lies below the other. -/
theorem feq_eq : feq a b = (!(isNaN a || isNaN b) && !below a b && !below b a) := by
  rw [← ordered_and_flt, ← ordered_and_flt_swap, ← isNan_or_isNan, feq]
  cases a.isNan <;> cases b.isNan <;> rfl

theorem feq_comm : feq a b = feq b a := by
  rw [feq_eq, feq_eq, Bool.or_comm, Bool.and_right_comm]

/-- Less or equal: neither operand is a NaN, and the second does not lie below the first. -/
theorem ordered_and_not_flt : (!(a.isNan || b.isNan) && !flt b a) = (below a b || feq a b) := by
  have hmore := ordered_and_flt_swap a b
  rw [feq_eq, ← isNan_or_isNan]
  cases hab : below a b
  · rw [← hmore]
    cases a.isNan || b.isNan <;> simp
  · have hless := (ordered_and_flt a b).trans hab
    rw [below_asymm hab] at hmore
    simp_all

/-- Greater or equal: the same with the operands exchanged. -/
theorem ordered_and_not_flt_swap : (!(a.isNan || b.isNan) && !flt a b) = (below b a || feq a b) := by
  rw [Bool.or_comm, ordered_and_not_flt, feq_comm]

/-- The NV of a condition that every NaN makes invalid. -/
theorem loudFlag_pair : (if a.isNan || b.isNan then flNV else 0) = if isNaN a || isNaN b then 1 else 0 := by
  rw [isNan_or_isNan, flNV]
end

/-- The model's conditions and its NV are those of the table. -/
theorem fcmp_eq_conditionOf (x : BitVec 3) (a b : FVal) :
    fcmp x a b = ((conditionOf x.toNat a b).1, if (conditionOf x.toNat a b).2 then 1 else 0) := by
  have hun := isNan_or_isNan a b
  have hequal := feq_eq a b
  have hquiet := snanFlag_pair a b
  have hloud := loudFlag_pair a b
  obtain rfl | rfl | rfl | rfl | rfl | rfl | rfl | rfl := variant_cases x
  · exact Prod.ext hequal hquiet -- eq
  · exact Prod.ext (congrArg (!·) hequal) hquiet -- ne
  · exact Prod.ext (ordered_and_flt a b) hloud -- lt
  · exact Prod.ext ((ordered_and_not_flt a b).trans (congrArg (below a b || ·) hequal)) hloud -- le
  · exact Prod.ext (ordered_and_flt_swap a b) hloud -- gt
  · exact Prod.ext ((ordered_and_not_flt_swap a b).trans (congrArg (below b a || ·) hequal)) hloud -- ge
  · exact Prod.ext hun hquiet -- un
  · exact Prod.ext (congrArg (!·) hun) hquiet -- ord

/-- A comparison word with a predicate in D writes the condition of the table there and merges NV. -/
theorem does_compareWord {i : Instr} {f : F3} {ty : Nat} (hty : ty < 4)
    (hexec : ∀ s, exec i s = s.issueEach i f.c (compareWord ty f))
    (hd : ∀ mp window, i.cause mp window = none → f.d.toNat < 96) :
    Does i f.c fun e fb =>
      let val (code : BitVec 7) := (typeOf ty).1.read fb.fz (e.fop fb ty code)
      let r := conditionOf f.x.toNat (val f.a) (val f.b)
      merged (withPreds fb fun k => if k = f.d.toNat then r.1 else fb.ctx.preds.getLsbD k) (if r.2 then 1 else 0) :=
  does_of_issueEach_of_legal hexec
    (fun mp window h e fb => by
      rw [compareWord, raiseFlags_eq_merged, putPred_eq_withPreds fb (hd mp window h), fcmp_eq_conditionOf,
        typeFmt_eq hty])
    fun _ _ => rfl

theorem does_compareWords (f : F3) : ∀ w ∈ compareWords f, Does w.1 f.c w.2 := by
  intro w hw
  simp only [compareWords, List.mem_cons, List.not_mem_nil, or_false] at hw
  obtain rfl | rfl := hw
  · -- FCMP
    exact does_compareWord (by decide) (fun _ => rfl) fun _ _ h => d_lt_of_cause_eq_none rfl rfl h
  · -- DCMP
    exact does_compareWord (by decide) (fun _ => rfl) fun _ _ h => d_lt_of_cause_eq_none rfl rfl h

end Sys2Proof.Machine

open Sys2Proof.Machine in
/-- Settles O4: the element operations and the table of comparisons are those of the rules, on every legal word. -/
theorem floatAndCompareResults : Obligations.FloatAndCompareResults := ⟨does_floatWords, does_compareWords⟩
end
